-- ==== Sys2Proof/Word.lean ====
section
/-! DEFINITION. The word types of the SC12 (00_scope R3: bit 0 is the least significant bit). -/
namespace Sys2Proof

/-- One byte of memory. -/
abbrev Byte := BitVec 8
/-- A 32-bit lane register. -/
abbrev Word := BitVec 32
/-- A 64-bit scalar register, address or mask of lanes. -/
abbrev DWord := BitVec 64
/-- One op of an issue word (07 R135). -/
abbrev Op46 := BitVec 46
/-- A 96-bit issue word (07 R135). -/
abbrev IWord := BitVec 96
/-- The 128 bytes of a line (13 R267): byte i in bits 8i+7 to 8i. -/
abbrev LineData := BitVec 1024
/-- A mask of the bytes of a line (16 R317). -/
abbrev LineMask := BitVec 128

end Sys2Proof
end

