-- ==== Sys2Proof/Config.lean ====
section
/-! DEFINITION. What the spec leaves open: free values, opaque constants that nothing can evaluate. Each takes the
operands it depends on or the counter `free` of State; each is named in the assumption log. -/
namespace Sys2Proof.Config

/-- A fresh number the spec does not fix (a choice among allowed outcomes), by the counter `free`. -/
opaque choice : Nat → Nat
/-- A fresh 64-bit value the spec does not fix, by the counter `free`. -/
opaque word : Nat → BitVec 64
/-- The value a special function returns within its bound, by op, type and operand (11 R233). -/
opaque special : Nat → Nat → BitVec 32 → BitVec 32
/-- The fused word of a die: bits 31:24 LSPR, bits 23:0 QEN (22 R435). -/
opaque fuse : Nat → BitVec 64
/-- The length in bytes a firmware image's header gives it (21 R431). -/
opaque imageLen : List Byte → Nat
/-- What verification of an image finds (21 R431, R432): 0 both signatures good, 1 or 2 the one that fails, 4 a malformed header. -/
opaque imageErr : List Byte → Nat
/-- The SVN of an image. -/
opaque imageSvn : List Byte → BitVec 16
/-- SHA-384 of bytes, as a number (21 R433). -/
opaque digest : List Byte → Nat
/-- The payload of an SPDM or IDE_KM answer, by its code and what it depends on: certificates, signatures, nonces (21 R433, R434). -/
opaque spdm : Nat → List Nat → List Nat
/-- The host's FINISH carries the right HMAC for a transcript (21 R434). -/
opaque macOk : List Nat → BitVec 384 → Bool

end Sys2Proof.Config
end

