-- ==== Sys2Proof/Syntax.lean ====
section
/-! DEFINITION. The steps of the SC12: one constructor of `Instr` per row of spec/opcode_table.json. A row that is an
instruction carries its op's fields as 07 R137 lays them out; a row that is a step of another agent (95) carries what
that step is about. -/
namespace Sys2Proof

/-- The guard fields of an op (07 R137): predicate number and inversion. -/
structure Guard where
  pg : BitVec 3
  pn : Bool
  deriving DecidableEq, Repr

/-- Format G3 (07 R137). -/
structure G3 where
  g : Guard
  ty : BitVec 3
  mod : BitVec 7
  vd : BitVec 8
  va : BitVec 8
  vb : BitVec 8
  deriving DecidableEq, Repr

/-- Format G4 (07 R137). -/
structure G4 where
  g : Guard
  t2 : BitVec 2
  vd : BitVec 8
  va : BitVec 8
  vb : BitVec 8
  vc : BitVec 8
  deriving DecidableEq, Repr

/-- Format GI (07 R137). -/
structure GI where
  g : Guard
  ty : BitVec 3
  vd : BitVec 8
  va : BitVec 8
  imm : BitVec 15
  deriving DecidableEq, Repr

/-- Format M (07 R137). -/
structure M where
  g : Guard
  sz : BitVec 3
  ord : BitVec 2
  sc : BitVec 3
  ca : Bool
  sp : BitVec 2
  vd : BitVec 8
  sb : BitVec 6
  off : BitVec 9
  deriving DecidableEq, Repr

/-- Format MG (07 R137); its bit 0 is 0. -/
structure MG where
  g : Guard
  sz : BitVec 3
  ord : BitVec 2
  sc : BitVec 3
  ca : Bool
  sp : BitVec 2
  vd : BitVec 8
  va : BitVec 8
  sb : BitVec 6
  deriving DecidableEq, Repr

/-- Format C (07 R137). -/
structure C where
  g : Guard
  u : Bool
  cc : BitVec 3
  sa : BitVec 6
  tgt : BitVec 24
  deriving DecidableEq, Repr

/-- The extension of an op of class E or X: present in form 00, absent in forms 01 and 10 (07 R144). -/
abbrev Ext := Option (BitVec 46)

/-- The trap causes (20 R399); `none0` is the code 0x00 of a host record made by `halt` (20 R408). -/
inductive Cause where
  | none0 | illegal | badTarget | uniform | splitDepth | idxBound | expired | poison | xlate | protect | align
  | futDouble | futAbandon | copyAbort | jPoison | priv | soft | stalemate | lease | fpTrap | fSlot | regRange | pair
  deriving DecidableEq, Repr

/-- How the host answers a page request (13 R275). -/
inductive PriAnswer where
  | success | invalidRequest | responseFailure
  deriving DecidableEq, Repr

/-- What an atomic does to its unit (18 R366-R368). -/
inductive AtomFn where
  | int (fn : BitVec 4) (signed : Bool)
  | cas | gts | vcs | pcs
  | flt (fn : BitVec 4) (ft : BitVec 2)
  deriving DecidableEq, Repr

/-- A release token (15 R308): the releasing die, its epoch, its marks by home agent, with that agent's epoch, and that the release is of system scope (21 R425). -/
structure Token where
  src : Nat
  epoch : Nat
  marks : List (Nat × Nat × Nat)
  sys : Bool
  deriving DecidableEq, Repr

/-- Tokens kept with released values, by the key of each byte (15 R308). -/
abbrev Toks := List (Nat × List Token)

/-- What a write on its way carries besides its bytes: the home agent its channel ends at and its number there (15 R306), 0 where it
leaves no die, and the tokens of the releases among its bytes (R308). -/
structure Carry where
  home : Nat
  num : Nat
  toks : Toks
  deriving DecidableEq, Repr

/-- A write that leaves no die and releases nothing. -/
def Carry.none : Carry := ⟨0, 0, []⟩

/-- What a line's bytes bring a core (16 R321, 15 R308): that they are poisoned, and the tokens kept with them. -/
structure Fill where
  pois : Bool
  toks : Toks
  deriving DecidableEq, Repr

/-- The number of a write-back, and what it carries (16 R319, R321). -/
structure WbNo where
  n : Nat
  car : Carry
  deriving DecidableEq, Repr

/-- Bytes a core gives up: that they are poisoned, and what they carry. -/
structure Given where
  pois : Bool
  car : Carry
  deriving DecidableEq, Repr

/-- A forward: its number and the bytes wanted (16 R321). -/
structure Wanted where
  n : Nat
  want : LineMask
  deriving DecidableEq, Repr

/-- A lease request: of a self-invalidating line, and of an implicit lease (16 R321, R339). -/
structure LeaseAsk where
  si : Bool
  imp : Bool
  deriving DecidableEq, Repr

/-- A lease granted: the same, and the tokens of the line's bytes. -/
structure LeaseGiven where
  si : Bool
  imp : Bool
  toks : Toks
  deriving DecidableEq, Repr

/-- A refused probe: the bytes a forward wants, none for an invalidation, and the home cycle at which it is sent again, 0 until the home has it
(16 R332). -/
structure Refused where
  fwd : Option LineMask
  due : Nat
  deriving DecidableEq, Repr

/-- A register write through an I/O die (04 R79). -/
structure PortWrite where
  io : Nat
  v : DWord
  deriving DecidableEq, Repr

/-- One lane of an atomic on its way to a home slice (18 R360-R368, 16 R322): the issuing cohort, fragment and result it
answers, the lane, the unit's place and size in bytes, the function and its operands, the result register; `ret` that it returns
the old value, `dead` that its cohort has ended. -/
structure AtomReq where
  cid : Nat
  vid : Nat
  frag : Nat
  lane : Nat
  rd : Nat
  addr : DWord
  key : Nat
  size : Nat
  fn : AtomFn
  d : BitVec 128
  c : BitVec 128
  m : BitVec 128
  ctx : Nat
  ret : Bool
  dead : Bool
  car : Carry
  deriving DecidableEq, Repr

/-- The answer to `AtomReq`: the old unit, the flags raised, the tokens the old value carried, and whether the line was poisoned (18 R363, R369). -/
structure AtomResp where
  cid : Nat
  vid : Nat
  frag : Nat
  lane : Nat
  rd : Nat
  addr : DWord
  key : Nat
  size : Nat
  old : BitVec 128
  flags : BitVec 6
  pois : Bool
  ctx : Nat
  ret : Bool
  dead : Bool
  toks : List Token
  deriving DecidableEq, Repr

/-- One lane of an ordered reduction (18 R370, R371): `delay` and `sentAt` time its next sending after a refusal. -/
structure RedoReq where
  cid : Nat
  frag : Nat
  addr : DWord
  key : Nat
  f64 : Bool
  tag : Word
  d : DWord
  ctx : Nat
  grid : Nat
  blk : Nat
  delay : Nat
  sentAt : Nat
  dead : Bool
  car : Carry
  deriving DecidableEq, Repr

/-- What a peer asks (21 R427): a read of bytes, a write, or an atomic with its operand, compare value and mask. -/
inductive PeerOp where
  | read (len : Nat)
  | write (bytes : List Byte)
  | atom (fn : AtomFn) (size : Nat) (d c m : BitVec 128)
  deriving DecidableEq, Repr

/-- Where a soft error is found and whether it is corrected (20 R413). -/
inductive SoftErr where
  | register (cid reg lane : Nat) (corrected : Bool)
  | stateArea (cid : Nat) (corrected : Bool)
  | scratch (key : Nat) (corrected : Bool)
  | lineCache (core line : Nat) (corrected : Bool)
  | home (line : Nat) (unit : BitVec 8) (corrected : Bool)
  | logic (die : Nat)
  deriving DecidableEq, Repr

/-- What becomes of a received bridge flit (21 R421). -/
inductive FlitOutcome where
  | good
  | corrected (symbols : Nat)
  | payloadLost
  | headersLost
  deriving DecidableEq, Repr

/-- The steps of the machine, in the order of spec/opcode_table.json but for the two beacon messages, which stand with the other
messages. -/
inductive Instr where
  /-- NOP: Changes no state; with SW set it acts as a bare switch marker. (R202) -/
  | nop (o : C)
  /-- BR: Transfers the issuing fragment to the target header. (R196) -/
  | br (o : C)
  /-- BC: Compares a scalar register with zero under CC and transfers when the comparison holds. (R196) -/
  | bc (o : C)
  /-- BV: Branches on a lane predicate and splits the fragment, or traps, when the active lanes disagree. (R197) -/
  | bv (o : C)
  /-- CALL: Writes the fall-through header address to s62 and transfers to the target. (R198) -/
  | call (o : C)
  /-- RET: Transfers to the header address held in a scalar register. (R198) -/
  | ret (o : C)
  /-- JMPI: Transfers to a scalar register plus a scaled signed offset. (R198) -/
  | jmpi (o : C)
  /-- LOOP: Decrements a scalar register and transfers while it is non-zero. (R199) -/
  | loop (o : C)
  /-- EXIT: Ends the issuing fragment, and ends the cohort when its live mask becomes zero. (R200) -/
  | exit (o : C)
  /-- LAUNCH: Releases the cohort's stores, appends a launch record to a queue and writes a status. (R203) -/
  | launch (o : G3)
  /-- YIELD: Makes the cohort not ready for a number of core cycles and resets its age. (R201) -/
  | yield (o : C)
  /-- SADD: Scalar add with optional saturation. (R185) -/
  | sadd (o : G3)
  /-- SSUB: Scalar subtract with optional saturation. (R185) -/
  | ssub (o : G3)
  /-- SMUL: Scalar multiply with optional saturation. (R185) -/
  | smul (o : G3)
  /-- SMULH: Writes the high w bits of the scalar product. (R185) -/
  | smulh (o : G3)
  /-- SDIV: Scalar division truncated toward zero, with a defined result for a zero divisor. (R185) -/
  | sdiv (o : G3)
  /-- SREM: Scalar remainder, with a defined result for a zero divisor. (R185) -/
  | srem (o : G3)
  /-- SAND: Scalar bitwise AND. (R185) -/
  | sand (o : G3)
  /-- SOR: Scalar bitwise OR. (R185) -/
  | sor (o : G3)
  /-- SXOR: Scalar bitwise XOR. (R185) -/
  | sxor (o : G3)
  /-- SSHL: Scalar shift left by the count modulo w. (R185) -/
  | sshl (o : G3)
  /-- SSHR: Scalar arithmetic or logical shift right by the count modulo w. (R185) -/
  | sshr (o : G3)
  /-- SMIN: Scalar minimum, signed or unsigned by TY. (R185) -/
  | smin (o : G3)
  /-- SMAX: Scalar maximum, signed or unsigned by TY. (R185) -/
  | smax (o : G3)
  /-- SCMP: Writes 1 or 0 by a compare condition selected by FN. (R186) -/
  | scmp (o : G3)
  /-- SSEL: Selects sA or sB into sD by the old value of sD. (R187) -/
  | ssel (o : G3)
  /-- SBIT: Population count, leading or trailing zeros, bit or byte reversal, or extension of sA. (R186) -/
  | sbit (o : G3)
  /-- SADDI: Adds a signed 15-bit immediate to a scalar register. (R188) -/
  | saddi (o : GI)
  /-- SLUI: Shifts a scalar left by 15 and ORs in a 15-bit immediate. (R188) -/
  | slui (o : GI)
  /-- SLI: Loads a 61-bit immediate from IMM and the extension. (R188) -/
  | sli (o : GI) (x : Ext)
  /-- SLD: Scalar load of 1 to 8 bytes, whose result is written when the data return. (R190) -/
  | sld (o : M) (x : Ext)
  /-- SST: Scalar store of 1 to 8 bytes. (R190) -/
  | sst (o : M) (x : Ext)
  /-- SGET: Writes an identifier selected by IMM to a scalar register. (R189) -/
  | sget (o : GI)
  /-- VADD: Lane integer add with optional saturation. (R206) -/
  | vadd (o : G3)
  /-- VSUB: Lane integer subtract with optional saturation. (R206) -/
  | vsub (o : G3)
  /-- VMUL: Lane integer multiply with optional saturation. (R206) -/
  | vmul (o : G3)
  /-- VMULH: Writes the high w bits of each lane product. (R206) -/
  | vmulh (o : G3)
  /-- VMAD: Lane integer multiply-add with optional saturation. (R207) -/
  | vmad (o : G4) (x : Ext)
  /-- VMIN: Lane integer minimum. (R206) -/
  | vmin (o : G3)
  /-- VMAX: Lane integer maximum. (R206) -/
  | vmax (o : G3)
  /-- VABS: Lane integer absolute value with optional saturation. (R206) -/
  | vabs (o : G3)
  /-- VAND: Lane bitwise AND. (R206) -/
  | vand (o : G3)
  /-- VOR: Lane bitwise OR. (R206) -/
  | vor (o : G3)
  /-- VXOR: Lane bitwise XOR. (R206) -/
  | vxor (o : G3)
  /-- VNOT: Lane bitwise NOT. (R206) -/
  | vnot (o : G3)
  /-- VSHL: Lane shift left. (R206) -/
  | vshl (o : G3)
  /-- VSHR: Lane arithmetic or logical shift right. (R206) -/
  | vshr (o : G3)
  /-- VROT: Lane rotate left. (R206) -/
  | vrot (o : G3)
  /-- VBIT: Lane bit count or reversal selected by FN. (R206) -/
  | vbit (o : G3)
  /-- VBFE: Extracts a bit field in each lane. (R208) -/
  | vbfe (o : G4)
  /-- VBFI: Inserts a bit field in each lane. (R208) -/
  | vbfi (o : G4)
  /-- VADDI: Adds an immediate to each lane element. (R209) -/
  | vaddi (o : GI) (x : Ext)
  /-- VMOVI: Writes an immediate into each lane element. (R209) -/
  | vmovi (o : GI) (x : Ext)
  /-- VMOV: Copies a register in each active lane. (R210) -/
  | vmov (o : G3)
  /-- VSEL: Selects between two registers by a predicate in each lane. (R210) -/
  | vsel (o : G3)
  /-- VCMP: Integer compare writing a predicate. (R211) -/
  | vcmp (o : G3)
  /-- VCVTI: Converts integer elements between types. (R212) -/
  | vcvti (o : G3)
  /-- VLANE: Reads a register from a lane indexed per lane. (R214) -/
  | vlane (o : G3)
  /-- VBCAST: Broadcasts one lane's register to the active lanes. (R214) -/
  | vbcast (o : G3)
  /-- VSHFL: Butterfly, up or down lane shuffle. (R214) -/
  | vshfl (o : G3)
  /-- VROTL: Rotates values across lanes. (R214) -/
  | vrotl (o : G3)
  /-- VSCAN: Inclusive or exclusive prefix over the active lanes. (R215) -/
  | vscan (o : G3)
  /-- VRED: Reduces the active lanes into a J register and advances its sequence. (R217) -/
  | vred (o : G3)
  /-- VBALLOT: Writes the mask of active lanes whose predicate is set. (R220) -/
  | vballot (o : G3)
  /-- S2V: Copies a scalar register into the active lanes. (R210) -/
  | s2v (o : G3)
  /-- PMOV: Sets predicate bits from a scalar mask. (R220) -/
  | pmov (o : G3)
  /-- PLOG: Predicate logic operation. (R220) -/
  | plog (o : G3)
  /-- PCNT: Counts the active lanes whose predicate is set. (R220) -/
  | pcnt (o : G3)
  /-- PFIRST: Finds the lowest active lane whose predicate is set. (R220) -/
  | pfirst (o : G3)
  /-- XSET: Sets the base and bound of an index register. (R221) -/
  | xset (o : GI)
  /-- VLDX: Reads a register indexed through an index register. (R222) -/
  | vldx (o : G3)
  /-- VSTX: Writes a register indexed through an index register. (R222) -/
  | vstx (o : G3)
  /-- JGET: Reads a J register once its sequence reaches a wanted value. (R219) -/
  | jget (o : G3)
  /-- VFADD: Floating-point add. (R227) -/
  | vfadd (o : G3)
  /-- VFSUB: Floating-point subtract. (R227) -/
  | vfsub (o : G3)
  /-- VFMUL: Floating-point multiply. (R227) -/
  | vfmul (o : G3)
  /-- VFMA: Fused multiply-add a·b + c. (R228) -/
  | vfma (o : G4) (x : Ext)
  /-- VFMS: Fused multiply-subtract a·b − c. (R228) -/
  | vfms (o : G4) (x : Ext)
  /-- VFNMA: Negated fused multiply-add. (R228) -/
  | vfnma (o : G4) (x : Ext)
  /-- VFNMS: Negated fused multiply-subtract. (R228) -/
  | vfnms (o : G4) (x : Ext)
  /-- VFMIN: Floating-point minimum. (R229) -/
  | vfmin (o : G3)
  /-- VFMAX: Floating-point maximum. (R229) -/
  | vfmax (o : G3)
  /-- VFCMP: Floating-point compare writing a predicate. (R230) -/
  | vfcmp (o : G3)
  /-- VFCLASS: Writes a class mask for each element. (R231) -/
  | vfclass (o : G3)
  /-- VFDIV: Correctly rounded division with a variable-latency result. (R232) -/
  | vfdiv (o : G3)
  /-- VFSQRT: Correctly rounded square root with a variable-latency result. (R232) -/
  | vfsqrt (o : G3)
  /-- VFRCP: Reciprocal within the stated bound. (R234) -/
  | vfrcp (o : G3)
  /-- VFRSQ: Reciprocal square root within the stated bound. (R234) -/
  | vfrsq (o : G3)
  /-- VFEXP2: Base-2 exponential within the stated bound. (R234) -/
  | vfexp2 (o : G3)
  /-- VFLOG2: Base-2 logarithm within the stated bound. (R234) -/
  | vflog2 (o : G3)
  /-- VFSIN: Sine within the stated bound. (R234) -/
  | vfsin (o : G3)
  /-- VFCOS: Cosine within the stated bound. (R234) -/
  | vfcos (o : G3)
  /-- VFTANH: Hyperbolic tangent within the stated bound. (R234) -/
  | vftanh (o : G3)
  /-- VFSIG: Logistic sigmoid within the stated bound. (R234) -/
  | vfsig (o : G3)
  /-- VFRND: Rounds each element to an integral value. (R235) -/
  | vfrnd (o : G3)
  /-- VFSCL: Scales each element by a power of two. (R236) -/
  | vfscl (o : G3)
  /-- VFCVT: Converts between floating types. (R237) -/
  | vfcvt (o : G3)
  /-- VFCVTI: Converts between floating and integer elements. (R238) -/
  | vfcvti (o : G3)
  /-- VQSC: Derives block scale codes under a format slot. (R240) -/
  | vqsc (o : G3)
  /-- VQNT: Quantises a tile under a format slot and advances DPH. (R241) -/
  | vqnt (o : G3)
  /-- VDQNT: Expands a packed run into FP32 values. (R243) -/
  | vdqnt (o : G3)
  /-- MLD: Loads the shadow matrix plane from memory. (R250) -/
  | mld (o : M) (x : Ext)
  /-- MLDSC: Loads the shadow plane's block scales. (R253) -/
  | mldsc (o : M)
  /-- MSWP: Exchanges the active and shadow planes, or traps on a failed shadow plane. (R254) -/
  | mswp (o : G3)
  /-- MMAC: Multiplies each lane's A row by the active plane and accumulates. (R258) -/
  | mmac (o : G3) (x : Ext)
  /-- MMACZ: Multiplies each lane's A row by the active plane into a zeroed accumulator. (R258) -/
  | mmacz (o : G3) (x : Ext)
  /-- MBUD_USED: Returns MUSED, the matrix budget units the cohort has been charged. (R264) -/
  | mbudUsed (o : G3)
  /-- MBUD_CRED: Returns the core's present matrix credit. (R264) -/
  | mbudCred (o : G3)
  /-- MWAIT: Waits until at most n earlier matrix ops remain unfinished. (R263) -/
  | mwait (o : G3)
  /-- LD: Lane load at a base plus lane-strided address. (R285) -/
  | ld (o : M) (x : Ext)
  /-- ST: Lane store at a base plus lane-strided address. (R285) -/
  | st (o : M) (x : Ext)
  /-- LDG: Gathered lane load. (R285) -/
  | ldg (o : MG)
  /-- STG: Scattered lane store. (R285) -/
  | stg (o : MG)
  /-- LDQ: Loads four registers per lane. (R285) -/
  | ldq (o : M) (x : Ext)
  /-- STQ: Stores four registers per lane. (R285) -/
  | stq (o : M) (x : Ext)
  /-- CP_IN: Queues a copy-unit request from far memory to scratch. (R289) -/
  | cpIn (o : M) (x : Ext)
  /-- CP_OUT: Queues a copy-unit request from scratch to far memory. (R289) -/
  | cpOut (o : M) (x : Ext)
  /-- CP_TILE: Queues a strided-row copy-unit request. (R289) -/
  | cpTile (o : M) (x : Ext)
  /-- BCB_EXP: Adds to a byte barrier's expectation and tests for phase completion. (R295) -/
  | bcbExp (o : G3)
  /-- BCB_WT: Waits for a byte barrier phase, or traps when the barrier is aborted. (R295) -/
  | bcbWt (o : G3)
  /-- PREF: Prefetches lines into the line cache or the memory-side cache. (R287) -/
  | pref (o : M) (x : Ext)
  /-- RES_BIND: Binds a residency handle to a range on all dies. (R301) -/
  | resBind (o : G3)
  /-- RES_SET_PRIO: Sets a handle's priority on every die. (R301) -/
  | resSetPrio (o : G3)
  /-- RES_SET_LIFE_S: Sets the lifetime class of scratch granules. (R302) -/
  | resSetLifeS (o : G3)
  /-- RES_SET_LIFE_M: Sets the lifetime class of carve granules. (R302) -/
  | resSetLifeM (o : G3)
  /-- RES_DROP: Invalidates a residency handle on every die. (R301) -/
  | resDrop (o : G3)
  /-- XDMA: Hands a transfer descriptor to an I/O die DMA engine and writes a status. (R297) -/
  | xdma (o : M) (x : Ext)
  /-- WADR: Waits until a memory word meets a condition. (R296) -/
  | wadr (o : M)
  /-- AM: Returning integer atomic. (R366) -/
  | am (o : MG) (x : Ext)
  /-- RED: Integer reduction that returns nothing. (R366) -/
  | red (o : MG) (x : Ext)
  /-- AMCAS: Compare-and-swap. (R367) -/
  | amcas (o : MG) (x : Ext)
  /-- AMGTS: Writes when the new value advances a wrapping sequence. (R367) -/
  | amgts (o : MG) (x : Ext)
  /-- AMVCS: Masked compare-and-swap. (R367) -/
  | amvcs (o : MG) (x : Ext)
  /-- AMPCS: 16-byte compare-and-swap. (R367) -/
  | ampcs (o : MG) (x : Ext)
  /-- AMF: Returning floating-point atomic. (R368) -/
  | amf (o : MG) (x : Ext)
  /-- REDF: Floating-point reduction that returns nothing. (R368) -/
  | redf (o : MG) (x : Ext)
  /-- REDO: Sends a tagged ordered reduction request to a cell's home. (R371) -/
  | redo (o : MG) (x : Ext)
  /-- LSA: Requests a lease on a line and writes the granted length. (R375) -/
  | lsa (o : M)
  /-- LSR: Ends a lease, frees its slot and writes a status. (R377) -/
  | lsr (o : M)
  /-- BAR_INI_ARV: Binds a named barrier in arrival mode. (R381) -/
  | barIniArv (o : G3)
  /-- BAR_INI_BYTE: Binds a named barrier in byte mode. (R381) -/
  | barIniByte (o : G3)
  /-- BAR_INI_FREE: Releases a named barrier entry. (R381) -/
  | barIniFree (o : G3)
  /-- BAR_ARV: Releases, then arrives at a named barrier. (R382) -/
  | barArv (o : G3)
  /-- BAR_WT: Waits for a barrier phase and acquires. (R382) -/
  | barWt (o : G3)
  /-- BAR_SYNC: Arrives at a barrier and waits for the phase it joined. (R382) -/
  | barSync (o : G3)
  /-- BAR_CL: Synchronises every live thread of the cluster. (R384) -/
  | barCl (o : G3)
  /-- BAR_DIE: Synchronises every live thread of a die-gang slice. (R384) -/
  | barDie (o : G3)
  /-- FENCE_REL: Release fence at a scope. (R345) -/
  | fenceRel (o : G3)
  /-- FENCE_ACQ: Acquire fence at a scope. (R345) -/
  | fenceAcq (o : G3)
  /-- FENCE_FULL: Full fence at a scope. (R352) -/
  | fenceFull (o : G3)
  /-- FENCE_RACQ: Remote acquire of a word, promoting narrower releases. (R353) -/
  | fenceRacq (o : G3)
  /-- FUT_NEW: Resets a future to empty, or reports that it is in use. (R389) -/
  | futNew (o : M)
  /-- FUT_NEW_BIND: Creates a future and binds it to the cohort for automatic abandonment. (R391) -/
  | futNewBind (o : M)
  /-- FUT_GET: Reads a future's value, or is deferred until it resolves. (R389) -/
  | futGet (o : M)
  /-- FUT_SET: Resolves a future, answers its deferred loads and makes its chain runnable. (R389) -/
  | futSet (o : M)
  /-- FUT_SET_ABN: Abandons a future. (R391) -/
  | futSetAbn (o : M)
  /-- FUT_REG: Registers a continuation record on a future. (R389) -/
  | futReg (o : M)
  /-- TSK_PARK: Writes a continuation record, optionally registers it, and ends the fragment's lanes. (R393) -/
  | tskPark (o : M)
  /-- TSK_SPAWN: Makes a continuation record runnable. (R394) -/
  | tskSpawn (o : M)
  /-- TGET: Reads TIME and its error bounds. (R313) -/
  | tget (o : G3)
  /-- CYC_CNT: Reads the die's core-cycle count. (R305) -/
  | cycCnt (o : G3)
  /-- CYC_MHZ: Reads the die's present clock in MHz. (R305) -/
  | cycMhz (o : G3)
  /-- MON_MARK: Writes a mark event record and returns its sequence number. (R443) -/
  | monMark (o : GI)
  /-- BIST: Runs a self-test suite and writes its result. (R438) -/
  | bist (o : GI)
  /-- TRAP: Raises a software trap with a given cause. (R410) -/
  | trap (o : GI)
  /-- RETT: Leaves the handler and re-runs the incomplete slots. (R411) -/
  | rett (o : G3)
  /-- RETT_SKIP: Leaves the handler and skips the incomplete slots. (R411) -/
  | rettSkip (o : G3)
  /-- RETT_TO: Leaves the handler and continues at a given header. (R411) -/
  | rettTo (o : G3)
  /-- SYS_RD: Reads a system register after the outstanding results are written. (R410) -/
  | sysRd (o : GI)
  /-- SYS_WR: Writes a system register, subject to privilege. (R410) -/
  | sysWr (o : GI)
  /-- CTX_SAVE: Saves every resident block and task of a target context. (R412) -/
  | ctxSave (o : M)
  /-- CTX_LOAD: Restores a saved context image. (R412) -/
  | ctxLoad (o : M)
  /-- HALT: Stops the cohort and sends a host record. (R410) -/
  | halt (o : G3)
  /-- ILLEGAL_WORD: A word that fails decode checks traps without issuing. (R151) -/
  | illegalWord (w : IWord)
  /-- QUEUE_DOORBELL: A QDOORBELL write makes the queue unit re-read the descriptor and WIDX. (R80) -/
  | queueDoorbell (x : PortWrite)
  /-- QUEUE_APPEND: A QAPPEND write appends a record to an append-mode queue, or drops it. (R81) -/
  | queueAppend (q : Nat) (x : PortWrite)
  /-- RING_POLL: The queue unit re-reads WIDX of each enabled ring-mode queue at least every 100 µs. (R80) -/
  | ringPoll (q : Nat)
  /-- HEAD_RECORD_READ: The queue unit reads and checks a new head record. (R83) -/
  | headRecordRead (q : Nat)
  /-- WAIT_WORD_EVAL: A wait word is evaluated again after a write to its line reaches the home. (R86) -/
  | waitWordEval (q i : Nat)
  /-- WAIT_WORD_POLL: A host or peer wait word is re-read at least every 2 µs. (R86) -/
  | waitWordPoll (q i : Nat)
  /-- PRIORITY_AGING: A ready record's effective priority rises every 4,096 I/O cycles. (R88) -/
  | priorityAging (q : Nat)
  /-- GRID_DISPATCH: The grid scheduler dispatches the best candidate and assigns its die slices. (R88) -/
  | gridDispatch
  /-- DIE_GANG_PLACE: Once every chosen die can hold its slice, all dies place the die-gang grid. (R92) -/
  | dieGangPlace (grid : Nat)
  /-- PLACEMENT_PASS: The distributor places tasks and waiting clusters in priority order. (R111) -/
  | placementPass (die : Nat)
  /-- SLICE_RESERVE_DIE: A slice whose next cluster has waited 1 ms reserves the die. (R111) -/
  | sliceReserveDie (die grid : Nat)
  /-- REGISTER_BLOCK_RELOCATE: The distributor moves a register block of a waiting cohort to cure a stall. (R113) -/
  | registerBlockRelocate (cid run : Nat)
  /-- COHORT_ENTRY: After zero-fill, the cohorts of a placed cluster enter with their initial registers. (R26) -/
  | cohortEntry (blk : Nat)
  /-- BLOCK_RETIRE: A block whose cohorts have ended and whose work has drained frees its space and refills. (R114) -/
  | blockRetire (blk : Nat)
  /-- GRID_COMPLETION_STORE: After the last block retires, CSEQ is stored to the completion word with a release. (R94) -/
  | gridCompletionStore (grid : Nat)
  /-- LCB_WRITE: A DCFG write of a new line cache size sets PEND. (R104) -/
  | lcbWrite (die : Nat) (v : DWord)
  /-- LCB_APPLY: A core with no block writes back its line cache and applies the new size. (R104) -/
  | lcbApply (core : Nat)
  /-- QUOTA_ENTRY_WRITE: A DQENT write changes a quota and runs a placement pass. (R106) -/
  | quotaEntryWrite (die i : Nat) (v : DWord)
  /-- UNTIL_LAPSE: An until granule lapses at the first refresh point at or after its deadline. (R118) -/
  | untilLapse (g : Nat)
  /-- BLOCK_FETCH_COMPLETE: An architectural fetch of a block completes, or faults or parks. (R127) -/
  | blockFetchComplete (cid frag : Nat)
  /-- FRAGMENT_JOIN_PARK: A fragment reaching its parent's join header parks there, and the join may fuse. (R163) -/
  | fragmentJoinPark (cid frag : Nat)
  /-- SWITCH_RESUME: A cohort parked at a switch marker resumes once its outstanding results are written. (R169) -/
  | switchResume (cid : Nat)
  /-- VARIABLE_RESULT_RETURN: A variable-latency result is written to its destination register. (R167) -/
  | variableResultReturn (cid vid n : Nat)
  /-- YIELD_EXPIRE: A yielding cohort becomes ready again. (R201) -/
  | yieldExpire (cid : Nat)
  /-- MATRIX_START: The matrix unit starts the chosen entry once the credit suffices. (R182) -/
  | matrixStart (core : Nat)
  /-- MATRIX_COMPLETE: A matrix op finishes, is checked against its residue and writes its rows. (R261) -/
  | matrixComplete (core : Nat) (bad1 bad2 : DWord)
  /-- PLANE_LOAD_COMPLETE: A plane load finishes reading, or marks the shadow plane FAILED. (R251) -/
  | planeLoadComplete (core : Nat)
  /-- VRED_WRITE: A vred result reaches its J register, poisoned on error. (R218) -/
  | vredWrite (cid vid : Nat) (err : Bool)
  /-- TRAP_DELIVERY: A trap stops the cohort and enters its handler or goes to the host. (R407) -/
  | trapDelivery (cid : Nat)
  /-- HOST_TRAP_RECORD: A record is written to the context's host trap ring once it has room. (R408) -/
  | hostTrapRecord (ctx : Nat)
  /-- ORPHAN_TRAP: A trap with no cohort starts an orphan handler or writes a host record. (R408) -/
  | orphanTrap (ctx : Nat) (cause : Cause) (info : DWord) (die : Nat)
  /-- PAGE_WALK_COMPLETE: A page walk returns a translation or a fault. (R272) -/
  | pageWalkComplete (core ctx : Nat) (va : DWord)
  /-- PAGE_REQUEST_RESPONSE: A PRI response resumes or traps the parked accesses. (R275) -/
  | pageRequestResponse (n : Nat) (ans : PriAnswer)
  /-- TINV_WRITE: A TINV write starts a translation invalidation. (R276) -/
  | tinvWrite (v : DWord)
  /-- TINV_COMPLETE: PEND clears once every die has dropped and drained. (R276) -/
  | tinvComplete
  /-- MCARVE_WRITE: An MCARVE write starts a carve region change. (R277) -/
  | mcarveWrite (die : Nat) (v : DWord)
  /-- MCARVE_COMPLETE: The region is zero-filled and PEND clears. (R277) -/
  | mcarveComplete (die : Nat)
  /-- COPY_REQUEST_START: The copy unit starts a queued request and takes its claims. (R290) -/
  | copyRequestStart (core : Nat)
  /-- COPY_DELIVERY: Copied bytes are performed and counted on the barrier. (R291) -/
  | copyDelivery (req off : Nat)
  /-- XDMA_COMPLETE: The engine writes the completion or abort value after the transfer. (R299) -/
  | xdmaComplete (x : Nat)
  /-- WADR_POLL: A wadr on a host or peer word re-reads it every 2 µs. (R296) -/
  | wadrPoll (cid : Nat)
  /-- COMPLETION_BEACON: A die's beacon carries APPLIED counts to another die. (R307) -/
  | completionBeacon (src dst epoch : Nat) (applied : List (Nat × Nat × Nat))
  /-- BEACON_REQUEST: A die receives another die's request for a completion beacon and sends one at once. (R307) -/
  | beaconRequest (src dst : Nat)
  /-- RD: The home answers a read request with DATA. (R322) -/
  | rd (core line : Nat) (alloc : Bool)
  /-- DATA: Line data arrive at the core and fill its non-dirty bytes. (R318) -/
  | data (core line : Nat) (bytes : LineData) (f : Fill)
  /-- WI: The home adds the core as a writer. (R322) -/
  | wi (core line : Nat)
  /-- WB: The home merges a write-back, invalidates holders and answers WBACK. (R322) -/
  | wb (core line : Nat) (mask : LineMask) (bytes : LineData) (pois : Bool) (x : WbNo)
  /-- WBACK: The core releases its write-back buffer. (R319) -/
  | wback (core line n : Nat)
  /-- INV: A holder drops the line and answers IACK. (R340) -/
  | inv (core line txn : Nat)
  /-- IACK_CLEAN: The home removes the core from HOLD. (R322) -/
  | iackClean (core line txn : Nat)
  /-- IACK_DATA: The home merges the bytes and removes the core. (R322) -/
  | iackData (core line txn : Nat) (mask : LineMask) (bytes : LineData) (x : Given)
  /-- IACK_WBIF: The invalidation completes once the named write-back is merged. (R340) -/
  | iackWbif (core line txn n : Nat)
  /-- FWD: A writer answers a forwarded read with FACK. (R325) -/
  | fwd (core line : Nat) (x : Wanted)
  /-- FACK: The home merges the forwarded bytes and answers the remote acquire. (R325) -/
  | fack (core line txn : Nat) (mask : LineMask) (bytes : LineData) (x : Given)
  /-- LREQ: The home grants a lease when no other lease or claim is held. (R322) -/
  | lreq (cid line len : Nat) (x : LeaseAsk)
  /-- LGRANT: A lease starts at the core. (R331) -/
  | lgrant (cid line len : Nat) (bytes : LineData) (x : LeaseGiven)
  /-- LEND: The home merges the lease bytes, clears LSE and serves the held requests. (R322) -/
  | lend (core line : Nat) (mask : LineMask) (bytes : LineData) (x : Given)
  /-- CLAIM: The home places an engine claim on a line. (R336) -/
  | claim (eng line : Nat)
  /-- CREL: The home removes a claim and serves the waiting requests. (R337) -/
  | crel (eng line : Nat)
  /-- RECALL: The engine writes its bytes of the recalled line first. (R337) -/
  | recall (eng line : Nat)
  /-- ATOM: The home applies a far atomic and answers ARESP. (R322) -/
  | atom (r : AtomReq)
  /-- ARESP: A far atomic's result reaches the issuing lanes. (R363) -/
  | aresp (r : AtomResp)
  /-- RETRY: The home re-sends a refused probe 64 home cycles later. (R332) -/
  | retry (core line txn : Nat) (x : Refused)
  /-- REDO_REQUEST: The home applies, holds or discards a tagged reduction. (R371) -/
  | redoRequest (r : RedoReq)
  /-- REDO_RETRY: A refused redo is sent again after a doubling delay. (R371) -/
  | redoRetry (r : RedoReq)
  /-- REDO_DISCARD: Held redo requests of a finished grid are discarded after 1 ms. (R372) -/
  | redoDiscard (grid : Nat)
  /-- FUT_GET_RETRY: A refused fut.get is sent again after a doubling delay. (R390) -/
  | futGetRetry (cid vid : Nat)
  /-- ABANDON_REQUEST: An ending cohort's bound futures are abandoned. (R391) -/
  | abandonRequest (ctx key : Nat)
  /-- WRITEBACK_DEADLINE: A dirty entry is written back 2,048 core cycles after it first became dirty. (R319) -/
  | writebackDeadline (core line : Nat)
  /-- LINE_EXPIRY: A clean self-invalidating entry expires 2,048 core cycles after its fill. (R326) -/
  | lineExpiry (core line : Nat)
  /-- LEASE_EXPIRY: A lease ends after L core cycles and sends LEND. (R333) -/
  | leaseExpiry (core line : Nat)
  /-- LEASE_FORCED_END: A full probe queue ends the oldest lease. (R332) -/
  | leaseForcedEnd (core : Nat)
  /-- HOME_LEASE_TIMEOUT: A home that reaches its bound without LEND clears LSE. (R331) -/
  | homeLeaseTimeout (line : Nat)
  /-- DIRECTORY_VICTIM: A full directory invalidates every copy of a victim line. (R320) -/
  | directoryVictim (line : Nat)
  /-- BEACON_TIMER: Each die sends beacons at least every 100 ns. (R307) -/
  | beaconTimer (die : Nat)
  /-- CLOCK_CHANGE: Power management changes a die's clock within its range. (R303) -/
  | clockChange (die : Nat) (mhz : BitVec 16)
  /-- STALEMATE_FIRE: The watchdog traps every waiting cohort of a stalled context. (R397) -/
  | stalemateFire (ctx : Nat)
  /-- PREEMPTION_REQUEST: The distributor picks victims and chooses drain, save or flush. (R415) -/
  | preemptionRequest (grid die : Nat)
  /-- BLOCK_SAVE: A victim block's state is written to the save pool once its work drains. (R417) -/
  | blockSave (blk : Nat)
  /-- BLOCK_FLUSH: A victim block is flushed and returned unplaced. (R417) -/
  | blockFlush (blk : Nat)
  /-- CTXCMD_RESUME: Resumes a cohort stopped for the host. (R409) -/
  | ctxcmdResume (v : DWord)
  /-- CTXCMD_ABORT: Aborts the stopped cohort's grid. (R409) -/
  | ctxcmdAbort (v : DWord)
  /-- CTXCMD_TEARDOWN: Tears down a context. (R409) -/
  | ctxcmdTeardown (v : DWord)
  /-- CTXCMD_SAVE: Saves a context into its own pool. (R409) -/
  | ctxcmdSave (v : DWord)
  /-- CTXCMD_RESTORE: Restores a context from its own pool. (R409) -/
  | ctxcmdRestore (v : DWord)
  /-- SOFT_ERROR: A detected storage or logic error is corrected or contained and recorded. (R413) -/
  | softError (e : SoftErr)
  /-- COMMANDED_RESET: A write of 1 to DRSTAT.RST starts a die reset. (R418) -/
  | commandedReset (die : Nat) (v : DWord)
  /-- DIE_RESET: A die stops, loses its work, settles coherence state and resumes placement. (R419) -/
  | dieReset (die : Nat) (cause : BitVec 4)
  /-- PACKAGE_RESET: The boot ROM verifies the firmware and starts the package. (R431) -/
  | packageReset
  /-- BRIDGE_FLIT_RECEIVE: A bridge flit is delivered, poisoned or fatal. (R421) -/
  | bridgeFlitReceive (bridge k : Nat) (f : FlitOutcome)
  /-- LINK_TRAINING_LOST: A bridge that loses training is fatal to the package. (R421) -/
  | linkTrainingLost (bridge : Nat)
  /-- HOST_LINK_DOWN: A host port's link goes down and host accesses reroute. (R424) -/
  | hostLinkDown (io : Nat)
  /-- HOST_COMPLETION: A host read completion returns data or poison. (R424) -/
  | hostCompletion (k : Nat) (ok : Bool)
  /-- HOST_INBOUND_ACCESS: A host read or write through BAR 4 or CXL.mem is performed at the line's home. (R425) -/
  | hostInboundAccess (io : Nat) (off : Nat) (wr : Option (List Byte)) (len : Nat)
  /-- PEER_REQUEST: A peer request is accepted in context CTX or refused. (R427) -/
  | peerRequest (peer off : Nat) (req : PeerOp)
  /-- PEER_RESPONSE: A peer response completes, or its failure traps the sender. (R428) -/
  | peerResponse (k : Nat) (ok : Bool)
  /-- PEER_RETRANSMIT: An unacknowledged frame is retransmitted after 10 µs. (R426) -/
  | peerRetransmit (k : Nat)
  /-- PTP_EVENT_MESSAGE: An IEEE 1588 event message is timestamped and feeds the servo. (R314) -/
  | ptpEventMessage (port : Nat) (lock : Bool) (bound : Word) (slew : Int)
  /-- FW_STAGE_VERIFY: Reads a staged image and verifies its signatures and SVN. (R432) -/
  | fwStageVerify (v : DWord)
  /-- FW_COMMIT: Writes a verified staged image to the slot. (R432) -/
  | fwCommit (v : DWord) (ok : Bool)
  /-- FW_RAISE_MINSVN: Raises the fused MINSVN to the staged SVN. (R432) -/
  | fwRaiseMinsvn (v : DWord)
  /-- GET_DIGESTS: SPDM request for certificate digests. (R433) -/
  | getDigests (io : Nat)
  /-- GET_CERTIFICATE: SPDM request for a certificate chain. (R433) -/
  | getCertificate (io slot off len : Nat)
  /-- CHALLENGE: SPDM challenge answered with signatures. (R433) -/
  | challenge (io slot : Nat) (nonce : BitVec 256)
  /-- GET_MEASUREMENTS: SPDM request for measurements. (R433) -/
  | getMeasurements (io idx : Nat) (sign : Bool) (nonce : BitVec 256)
  /-- VENDOR_DEFINED_REQUEST: Returns the SLH-DSA signature of the preceding response. (R433) -/
  | vendorDefinedRequest (io : Nat)
  /-- KEY_EXCHANGE: Starts a secure session. (R434) -/
  | keyExchange (io slot : Nat) (data : BitVec 768)
  /-- FINISH: Completes a secure session handshake. (R434) -/
  | finish (io sess : Nat) (mac : BitVec 384)
  /-- KEY_UPDATE: Updates session keys. (R434) -/
  | keyUpdate (io sess : Nat) (all : Bool)
  /-- HEARTBEAT: Session heartbeat. (R434) -/
  | heartbeat (io sess : Nat)
  /-- END_SESSION: Ends a secure session. (R434) -/
  | endSession (io sess : Nat)
  /-- PSK_EXCHANGE: Answered with ERROR UnsupportedRequest. (R434) -/
  | pskExchange (io : Nat)
  /-- IDE_KM_QUERY: IDE_KM query within a secure session. (R434) -/
  | ideKmQuery (io sess : Nat)
  /-- KEY_PROG: Programs an IDE key, refused outside a session. (R434) -/
  | keyProg (io : Nat) (sess : Option Nat) (stream : Nat) (key : BitVec 256)
  /-- K_SET_GO: Activates an IDE key set. (R434) -/
  | kSetGo (io sess stream : Nat)
  /-- K_SET_STOP: Stops an IDE key set. (R434) -/
  | kSetStop (io sess stream : Nat)
  /-- MARGIN_DWELL_START: A write of RUN starts a bridge margining dwell. (R437) -/
  | marginDwellStart (b : Nat) (v : DWord)
  /-- MARGIN_DWELL_END: The dwell ends, MISM is set and RUN clears. (R437) -/
  | marginDwellEnd (b : Nat)
  /-- BIST_SUITE_END: A self-test suite ends and writes its result. (R439) -/
  | bistSuiteEnd (cid : Nat)
  /-- MONITOR_SAMPLE: A channel sample updates LAST, MIN, MAX and its bin. (R441) -/
  | monitorSample (ch : Nat) (v : BitVec 16)
  /-- MONVAL_READ: Returns MAX and MIN and resets both to LAST. (R440) -/
  | monvalRead (ch : Nat)
  /-- HIST_READ: Returns a histogram bin and clears it. (R440) -/
  | histRead (ch i : Nat)
  /-- DSTAT_READ: Returns the stall and relocation counts and clears them. (R105) -/
  | dstatRead (die : Nat)
  /-- BMRES_READ: Returns the corrected-symbol count and clears it. (R437) -/
  | bmresRead (b : Nat)
  /-- ACCOUNTING_UPDATE: The die adds its counts into the accounting records at least every 1 ms. (R444) -/
  | accountingUpdate (die ctx : Nat)
  /-- REGISTER_WRITE: A write to a register that has no row of its own sets its fields. (R4) -/
  | registerWrite (io off : Nat) (v : DWord)
  /-- MATRIX_CREDIT_REFILL: Each core cycle the matrix credit grows by RATE/256, up to CAP. (R182) -/
  | matrixCreditRefill (core : Nat)
  /-- POWER_MANAGEMENT_RATE_WRITE: Power management writes MBUDGET.RATE to hold the package within its power rating. (R181) -/
  | powerManagementRateWrite (core : Nat) (rate : BitVec 16)
  /-- XDMA_DELIVERY: An I/O-die DMA engine moves bytes of an accepted transfer under its claims and may pause or abort. (R299) -/
  | xdmaDelivery (x off : Nat)
  /-- HOST_LINK_UP: A host port's link finishes training or retraining and again carries host-bound accesses. (R424) -/
  | hostLinkUp (io : Nat) (cxl : Bool)
  /-- POWER_LOSS: Loss of package power ends all activity, including a commit in progress that leaves the slot unverifiable. (R432) -/
  | powerLoss
  /-- VMARG_ACT_STEP: The applied supply offset ACT moves toward the requested OFS at no more than 1 mV per µs. (R436) -/
  | vmargActStep (die : Nat)
  deriving DecidableEq, Repr

end Sys2Proof
end

