-- ==== Sys2Proof/Machine/Fields.lean ====
section
/-! DEFINITION. The fields of the ops: element types, modifiers, the legality of each op's own 46 bits and extension
(07 R137-R144 and the encoding rule of each chapter), and the registers an op reads and writes (07 R142, R148, R460). -/
namespace Sys2Proof.Machine

/-- The eight integer types of TY (07 R138): element width in bits and signedness. -/
structure IntTy where
  w : Nat
  signed : Bool
  deriving DecidableEq, Repr

/-- TY of an integer op (07 R138). -/
def intTy (ty : BitVec 3) : IntTy :=
  ⟨match ty.toNat / 2 with | 0 => 32 | 1 => 16 | 2 => 8 | _ => 64, ty.toNat % 2 == 0⟩

/-- TY is i64 or n64 (07 R138): values are even-odd pairs. -/
def isPairTy (ty : BitVec 3) : Bool := 6 ≤ ty.toNat

/-- TY is one of i32, n32, i64, n64: the "plain" types of 10 R205 and the scalar types of 09 R184. -/
def plainTy (ty : BitVec 3) : Bool := ty.toNat < 2 || 6 ≤ ty.toNat

/-- TY is a floating type (07 R138). -/
def floatTy (ty : BitVec 3) : Bool := ty.toNat < 4

/-- FN, bits 6:3 of MOD (07 R139). -/
def fnOf (m : BitVec 7) : Nat := m.toNat / 8
/-- SAT, bit 2 of MOD of an integer op (07 R139). -/
def satOf (m : BitVec 7) : Bool := m.getLsbD 2
/-- Bits 1:0 of MOD, which an integer op must leave 0 (07 R139). -/
def low2 (m : BitVec 7) : Nat := m.toNat % 4
/-- RM or SEL, bits 2:0 of MOD of a floating op (07 R139, 11 R225). -/
def rmOf (m : BitVec 7) : Nat := m.toNat % 8

/-- An 8-bit field names a scalar register (07 R142). -/
def sOk (v : BitVec 8) : Bool := v.toNat < 64
/-- A field names a predicate or an index register (07 R142). -/
def pOk (v : BitVec 8) : Bool := v.toNat < 8
/-- A field names a J register (07 R142). -/
def jOk (v : BitVec 8) : Bool := v.toNat < 4
/-- A field that names a value of a type: an even number when the type is a pair (07 R142). -/
def pairOk (two : Bool) (v : BitVec 8) : Bool := !two || v.toNat % 2 == 0
/-- Guard use Z: PG and PN are 0 (07 R137). -/
def zOk (g : Guard) : Bool := g.pg == 0 && !g.pn

/-- SC with ORD: a legal scope, 000 when the access is plain (07 R140). -/
def scOk (ord : BitVec 2) (sc : BitVec 3) : Bool := if ord == 0 then sc == 0 else sc.toNat ≤ 5

/-- A lane integer op on vD, vA, vB of one type (10 R205). -/
def legalV3 (o : G3) (sat : Bool) : Bool :=
  fnOf o.mod == 0 && low2 o.mod == 0 && (sat || !satOf o.mod) &&
  pairOk (isPairTy o.ty) o.vd && pairOk (isPairTy o.ty) o.va && pairOk (isPairTy o.ty) o.vb

/-- A lane integer op on vD, vA of one type; FN up to `fmax` (10 R205). -/
def legalV2 (o : G3) (sat : Bool) (fmax : Nat) : Bool :=
  fnOf o.mod ≤ fmax && low2 o.mod == 0 && (sat || !satOf o.mod) && o.vb == 0 &&
  pairOk (isPairTy o.ty) o.vd && pairOk (isPairTy o.ty) o.va

/-- A three-operand scalar op (09 R184); FN up to `fmax`. -/
def legalS3 (o : G3) (sat : Bool) (fmax : Nat) : Bool :=
  zOk o.g && plainTy o.ty && fnOf o.mod ≤ fmax && low2 o.mod == 0 && (sat || !satOf o.mod) &&
  sOk o.vd && sOk o.va && sOk o.vb

/-- A floating op on vD, vA, vB with rounding mode (11 R225). -/
def legalF3 (o : G3) : Bool :=
  floatTy o.ty && rmOf o.mod != 7 && pairOk (o.ty == 1) o.vd && pairOk (o.ty == 1) o.va && pairOk (o.ty == 1) o.vb

/-- NB = AB = 0 (11 R225). -/
def noB (m : BitVec 7) : Bool := !m.getLsbD 5 && !m.getLsbD 3

/-- A floating op on vD, vA with rounding mode (11 R225). -/
def legalF2 (o : G3) : Bool :=
  floatTy o.ty && rmOf o.mod != 7 && noB o.mod && o.vb == 0 && pairOk (o.ty == 1) o.vd && pairOk (o.ty == 1) o.va

/-- A special function (11 R225). -/
def legalSfu (o : G3) : Bool :=
  (o.ty == 0 || o.ty == 2 || o.ty == 3) && noB o.mod && rmOf o.mod == 0 && o.vb == 0

/-- A fused multiply-add: T2 and pairs (11 R228). -/
def legalFma (o : G4) : Bool :=
  pairOk (o.t2 == 1) o.vd && pairOk (o.t2 == 1) o.va && pairOk (o.t2 == 1) o.vb && pairOk (o.t2 == 1) o.vc

/-- The legal pairs of `vcvti` (10 R212). -/
def legalVcvti (o : G3) : Bool :=
  let d := (intTy o.ty).w
  let sty : BitVec 3 := BitVec.ofNat 3 (fnOf o.mod % 8)
  let s := (intTy sty).w
  let h := 8 ≤ fnOf o.mod
  low2 o.mod == 0 && pairOk (isPairTy o.ty) o.vd && pairOk (isPairTy sty) o.va &&
  (if s == d || (s == 32 && d == 64) || (s == 64 && d == 32) then o.vb == 0 && !h
   else if (s == 32 && d == 16) || (s == 16 && d == 8) then !h
   else if (s == 16 && d == 32) || (s == 8 && d == 16) then o.vb == 0
   else false)

/-- ST of `vfcvt`: MOD bits 5 and 3, coded as TY bits 1:0 (11 R237). -/
def vfcvtSt (m : BitVec 7) : Nat := (if m.getLsbD 5 then 2 else 0) + (if m.getLsbD 3 then 1 else 0)

/-- The legal pairs of `vfcvt` (11 R237). -/
def legalVfcvt (o : G3) : Bool :=
  let st := vfcvtSt o.mod
  let dt := o.ty.toNat
  floatTy o.ty && rmOf o.mod != 7 && st != dt && pairOk (dt == 1) o.vd && pairOk (st == 1) o.va &&
  (if dt ≥ 2 && st == 1 then pairOk true o.vb
   else if dt ≥ 2 && st == 0 then true
   else if st ≥ 2 && dt == 1 then false
   else o.vb == 0)

/-- The legal pairs of `vfcvti` (11 R238). -/
def legalVfcvti (o : G3) : Bool :=
  let it := o.mod.toNat / 8 % 8
  let toFloat := o.mod.getLsbD 6
  let f := o.ty.toNat
  let pairI := 6 ≤ it
  let pairF := f == 1
  floatTy o.ty && rmOf o.mod != 7 && o.vb == 0 &&
  (if f < 2 then it < 2 || 6 ≤ it else it == 2 || it == 3) &&
  pairOk (if toFloat then pairF else pairI) o.vd && pairOk (if toFloat then pairI else pairF) o.va

/-- A lane load or store of format M (14 R283). -/
def legalMem (o : M) (smax : Nat) (ord : BitVec 2) : Bool :=
  o.sz.toNat ≤ smax && (o.ord == 0 || o.ord == ord) && scOk o.ord o.sc && pairOk (o.sz == 3) o.vd

/-- A lane load or store of format MG (14 R283). -/
def legalMemG (o : MG) (smax : Nat) (ord : BitVec 2) : Bool :=
  o.sz.toNat ≤ smax && (o.ord == 0 || o.ord == ord) && scOk o.ord o.sc && pairOk (o.sz == 3) o.vd

/-- A scalar load or store (09 R190). -/
def legalSmem (o : M) (smax : Nat) (ord : BitVec 2) : Bool :=
  zOk o.g && o.sz.toNat ≤ smax && (o.ord == 0 || o.ord == ord) && scOk o.ord o.sc && sOk o.vd

/-- A copy request's fields (14 R288). -/
def legalCp (o : M) : Bool :=
  zOk o.g && o.sz.toNat ≤ 1 && (o.sp == 0 || o.sp == 3) && !o.ca && (o.ord == 0 || o.ord == 2) &&
  scOk o.ord o.sc && sOk o.vd

/-- The fields an atomic shares: SZ, ORD, SC, and pairs when SZ = 011 (18 R360, R361). -/
def legalAtom (o : MG) (ret : Bool) : Bool :=
  (o.sz == 2 || o.sz == 3) && (ret || o.ord == 0 || o.ord == 2) && scOk o.ord o.sc && pairOk (o.sz == 3) o.vd

/-- `fut.` and `tsk.` fields: SP, CA, and the size and order their row names (19 R387). -/
def legalFut (o : M) (sz : BitVec 3) (rel : Bool) : Bool :=
  zOk o.g && (o.sp == 0 || o.sp == 3) && !o.ca && o.sz == sz &&
  (if rel then o.ord == 2 && (o.sc == 4 || o.sc == 5) else o.ord == 0 && o.sc == 0)

/-- A barrier op's common fields (19 R380); FN = `fn`. -/
def legalBar (o : G3) (fn : Nat) : Bool := zOk o.g && o.ty == 0 && fnOf o.mod == fn && rmOf o.mod == 0

/-- A control op: the fields of 09 R193 that must be 0. -/
def legalC (o : C) (cc sa tgt : Bool) : Bool :=
  zOk o.g && !o.u && (cc || o.cc == 0) && (sa || o.sa == 0) && (tgt || o.tgt == 0)

/-- `lsa` and `lsr` (18 R374). -/
def legalLs (o : M) : Bool :=
  zOk o.g && o.sz == 0 && o.ord == 0 && o.sc == 0 && !o.ca && (o.sp == 0 || o.sp == 3) && sOk o.vd

/-- Check 3 of 07 R151 for one op: its own 46 bits carry legal field codes and zero must-be-zero bits. A step of
another agent has no encoding, so nothing to break. -/
def opLegal : Instr → Bool
  | .nop o => legalC o false false false
  | .br o => legalC o false false true
  | .bc o => legalC o true true true && o.cc.toNat ≤ 5
  | .bv o => o.cc == 0 && o.sa == 0
  | .call o => legalC o false false true
  | .ret o => legalC o false true false
  | .jmpi o => legalC o false true true
  | .loop o => legalC o false true true && o.sa != 0
  | .exit o => legalC o false false false
  | .yield o => legalC o false true false
  | .launch o => zOk o.g && o.ty == 0 && o.mod == 0 && sOk o.vd && sOk o.va && sOk o.vb
  | .sadd o => legalS3 o true 0
  | .ssub o => legalS3 o true 0
  | .smul o => legalS3 o true 0
  | .smulh o => legalS3 o false 0
  | .sdiv o => legalS3 o false 0
  | .srem o => legalS3 o false 0
  | .sand o => legalS3 o false 0
  | .sor o => legalS3 o false 0
  | .sxor o => legalS3 o false 0
  | .sshl o => legalS3 o false 0
  | .sshr o => legalS3 o false 0
  | .smin o => legalS3 o false 0
  | .smax o => legalS3 o false 0
  | .scmp o => legalS3 o false 5
  | .ssel o => legalS3 o false 0 && isPairTy o.ty
  | .sbit o => legalS3 o false 5 && o.vb == 0
  | .saddi o => zOk o.g && plainTy o.ty && sOk o.vd && sOk o.va
  | .slui o => zOk o.g && o.ty == 6 && sOk o.vd && sOk o.va
  | .sli o _ => zOk o.g && isPairTy o.ty && sOk o.vd && o.va == 0
  | .sld o _ => legalSmem o 5 1
  | .sst o _ => legalSmem o 3 2
  | .sget o => zOk o.g && o.ty == 0 && o.va == 0 && sOk o.vd && o.imm.toNat ≤ 0x15
  | .vadd o => legalV3 o true
  | .vsub o => legalV3 o true
  | .vmul o => legalV3 o true
  | .vmulh o => legalV3 o false
  | .vmad _ _ => true
  | .vmin o => legalV3 o false
  | .vmax o => legalV3 o false
  | .vabs o => legalV2 o true 0 && o.ty.toNat % 2 == 0
  | .vand o => legalV3 o false
  | .vor o => legalV3 o false
  | .vxor o => legalV3 o false
  | .vnot o => legalV2 o false 0
  | .vshl o => legalV3 o false
  | .vshr o => legalV3 o false
  | .vrot o => legalV3 o false
  | .vbit o => legalV2 o false 4
  | .vbfe o => o.t2.toNat ≤ 1 && o.vb == 0
  | .vbfi o => o.t2.toNat ≤ 1
  | .vaddi o _ => pairOk (isPairTy o.ty) o.vd && pairOk (isPairTy o.ty) o.va
  | .vmovi o _ => pairOk (isPairTy o.ty) o.vd && o.va == 0
  | .vmov o => legalV2 o false 0
  | .vsel o => low2 o.mod == 0 && !satOf o.mod && pairOk (isPairTy o.ty) o.vd && pairOk (isPairTy o.ty) o.va && pairOk (isPairTy o.ty) o.vb
  | .vcmp o => plainTy o.ty && fnOf o.mod ≤ 5 && low2 o.mod == 0 && !satOf o.mod && pOk o.vd && pairOk (isPairTy o.ty) o.va && pairOk (isPairTy o.ty) o.vb
  | .vcvti o => legalVcvti o
  | .vlane o => o.mod == 0 && pairOk (isPairTy o.ty) o.vd && pairOk (isPairTy o.ty) o.va
  | .vbcast o => o.mod == 0 && sOk o.vb && pairOk (isPairTy o.ty) o.vd && pairOk (isPairTy o.ty) o.va
  | .vshfl o => fnOf o.mod ≤ 2 && low2 o.mod == 0 && !satOf o.mod && sOk o.vb && pairOk (isPairTy o.ty) o.vd && pairOk (isPairTy o.ty) o.va
  | .vrotl o => o.mod == 0 && sOk o.vb && pairOk (isPairTy o.ty) o.vd && pairOk (isPairTy o.ty) o.va
  | .vscan o => fnOf o.mod % 8 ≤ 5 && low2 o.mod == 0 && (!satOf o.mod || fnOf o.mod % 8 == 0) && o.vb == 0 && pairOk (isPairTy o.ty) o.vd && pairOk (isPairTy o.ty) o.va
  | .vred o => plainTy o.ty && fnOf o.mod ≤ 5 && low2 o.mod == 0 && (!satOf o.mod || (fnOf o.mod == 0 && isPairTy o.ty)) && o.vb == 0 && jOk o.vd && pairOk (isPairTy o.ty) o.va
  | .vballot o => o.ty == 0 && o.mod == 0 && sOk o.vd && pOk o.va && o.vb == 0
  | .s2v o => o.mod == 0 && pairOk (isPairTy o.ty) o.vd && sOk o.va && o.vb == 0
  | .pmov o => o.ty == 0 && o.mod == 0 && pOk o.vd && sOk o.va && o.vb == 0
  | .plog o => o.ty == 0 && fnOf o.mod ≤ 4 && low2 o.mod == 0 && !satOf o.mod && pOk o.vd && pOk o.va && pOk o.vb && (fnOf o.mod != 4 || o.vb == 0)
  | .pcnt o => o.ty == 0 && o.mod == 0 && sOk o.vd && pOk o.va && o.vb == 0
  | .pfirst o => o.ty == 0 && o.mod == 0 && sOk o.vd && pOk o.va && o.vb == 0
  | .xset o => zOk o.g && o.ty == 0 && pOk o.vd && 0 < o.imm.toNat && o.imm.toNat ≤ 256
  | .vldx o => o.mod == 0 && pairOk (isPairTy o.ty) o.vd && pOk o.va
  | .vstx o => o.mod == 0 && pOk o.vd && pairOk (isPairTy o.ty) o.va
  | .jget o => zOk o.g && o.ty == 0 && o.mod == 0 && sOk o.vd && jOk o.va && sOk o.vb
  | .vfadd o => legalF3 o
  | .vfsub o => legalF3 o
  | .vfmul o => legalF3 o
  | .vfma o _ => legalFma o
  | .vfms o _ => legalFma o
  | .vfnma o _ => legalFma o
  | .vfnms o _ => legalFma o
  | .vfmin o => floatTy o.ty && rmOf o.mod ≤ 1 && pairOk (o.ty == 1) o.vd && pairOk (o.ty == 1) o.va && pairOk (o.ty == 1) o.vb
  | .vfmax o => floatTy o.ty && rmOf o.mod ≤ 1 && pairOk (o.ty == 1) o.vd && pairOk (o.ty == 1) o.va && pairOk (o.ty == 1) o.vb
  | .vfcmp o => o.ty.toNat ≤ 1 && pOk o.vd && pairOk (o.ty == 1) o.va && pairOk (o.ty == 1) o.vb
  | .vfclass o => floatTy o.ty && o.mod == 0 && pairOk (o.ty == 1) o.va && o.vb == 0
  | .vfdiv o => legalF3 o
  | .vfsqrt o => legalF2 o
  | .vfrcp o => legalSfu o
  | .vfrsq o => legalSfu o
  | .vfexp2 o => legalSfu o
  | .vflog2 o => legalSfu o
  | .vfsin o => legalSfu o
  | .vfcos o => legalSfu o
  | .vftanh o => legalSfu o
  | .vfsig o => legalSfu o
  | .vfrnd o => legalF2 o
  | .vfscl o => floatTy o.ty && rmOf o.mod != 7 && noB o.mod && pairOk (o.ty == 1) o.vd && pairOk (o.ty == 1) o.va
  | .vfcvt o => legalVfcvt o
  | .vfcvti o => legalVfcvti o
  | .vqsc o => o.mod == 0 && o.vb == 0
  | .vqnt o => o.mod == 0
  | .vdqnt o => o.mod == 0
  | .mld o _ => zOk o.g && o.ord.toNat ≤ 1 && scOk o.ord o.sc && o.vd == 0
  | .mldsc o => zOk o.g && o.ord.toNat ≤ 1 && scOk o.ord o.sc && o.vd == 0
  | .mswp o => zOk o.g && o.ty == 0 && o.mod == 0 && o.vd == 0 && o.va == 0 && o.vb == 0
  | .mmac o _ => o.mod == 0
  | .mmacz o _ => o.mod == 0
  | .mbudUsed o => zOk o.g && o.mod == 0 && o.ty == 0 && sOk o.vd && o.va == 0 && o.vb == 0
  | .mbudCred o => zOk o.g && o.mod == 8 && o.ty == 0 && sOk o.vd && o.va == 0 && o.vb == 0
  | .mwait o => zOk o.g && o.ty == 0 && o.mod == 0 && o.vd == 0 && o.va == 0 && o.vb.toNat ≤ 32
  | .ld o _ => legalMem o 5 1
  | .st o _ => legalMem o 3 2
  | .ldg o => legalMemG o 5 1
  | .stg o => legalMemG o 3 2
  | .ldq o _ => o.sz == 2 && o.ord.toNat ≤ 1 && scOk o.ord o.sc
  | .stq o _ => o.sz == 2 && (o.ord == 0 || o.ord == 2) && scOk o.ord o.sc
  | .cpIn o _ => legalCp o
  | .cpOut o _ => legalCp o
  | .cpTile o _ => legalCp o && o.vd.toNat ≤ 0x3E
  | .bcbExp o => zOk o.g && o.ty == 0 && o.mod == 0 && o.vd == 0 && sOk o.vb
  | .bcbWt o => zOk o.g && o.ty == 0 && o.mod == 0 && sOk o.vd && sOk o.vb
  | .pref o _ => o.sz.toNat ≤ 3 && o.ord == 0 && o.sc == 0 && !o.ca && o.vd.toNat ≤ 1
  | .resBind o => zOk o.g && o.mod == 0 && sOk o.vd && sOk o.va && sOk o.vb
  | .resSetPrio o => zOk o.g && o.mod == 0 && o.vd == 0 && sOk o.va && o.vb == 0
  | .resSetLifeS o => zOk o.g && o.mod == 8 && o.ty.toNat ≤ 2 && sOk o.vd && (o.ty == 2 || o.vd == 0) && sOk o.va && sOk o.vb
  | .resSetLifeM o => zOk o.g && o.mod == 16 && o.ty.toNat ≤ 2 && sOk o.vd && (o.ty == 2 || o.vd == 0) && sOk o.va && sOk o.vb
  | .resDrop o => zOk o.g && o.mod == 0 && o.ty == 0 && o.vd == 0 && sOk o.va && o.vb == 0
  | .xdma o _ => zOk o.g && o.sz == 0 && o.ord == 0 && o.sc == 0 && !o.ca && o.sp == 0 && sOk o.vd
  | .wadr o => zOk o.g && (o.sz == 2 || o.sz == 3) && o.ord.toNat ≤ 1 && scOk o.ord o.sc && sOk o.vd
  | .am o _ => legalAtom o true
  | .red o _ => legalAtom o false
  | .amcas o _ => legalAtom o true
  | .amgts o _ => legalAtom o true
  | .amvcs o _ => legalAtom o true
  | .ampcs o _ => o.sz == 3 && scOk o.ord o.sc
  | .amf o _ => legalAtom o true
  | .redf o _ => legalAtom o false
  | .redo o _ => legalAtom o false && (o.sp == 0 || o.sp == 3)
  | .lsa o => legalLs o
  | .lsr o => legalLs o
  | .barIniArv o => legalBar o 0 && o.vd == 0 && sOk o.vb
  | .barIniByte o => legalBar o 1 && o.vd == 0 && o.vb == 0
  | .barIniFree o => legalBar o 2 && o.vd == 0 && o.vb == 0
  | .barArv o => legalBar o 0 && sOk o.vd && o.vb == 0
  | .barWt o => legalBar o 0 && sOk o.vd && sOk o.vb
  | .barSync o => legalBar o 0 && sOk o.vd && o.vb == 0
  | .barCl o => legalBar o 0 && sOk o.vd && o.va == 0 && o.vb == 0
  | .barDie o => legalBar o 0 && sOk o.vd && o.va == 0 && o.vb == 0
  | .fenceRel o => zOk o.g && o.ty.toNat ≤ 5 && o.mod == 0 && o.vd == 0 && o.va == 0 && o.vb == 0
  | .fenceAcq o => zOk o.g && o.ty.toNat ≤ 5 && o.mod == 8 && o.vd == 0 && o.va == 0 && o.vb == 0
  | .fenceFull o => zOk o.g && o.ty.toNat ≤ 5 && o.mod == 16 && o.vd == 0 && o.va == 0 && o.vb == 0
  | .fenceRacq o => zOk o.g && o.ty.toNat ≤ 5 && o.mod == 24 && sOk o.vd && o.va == 0 && sOk o.vb
  | .futNew o => legalFut o 0 false && sOk o.vd
  | .futNewBind o => legalFut o 1 false && sOk o.vd
  | .futGet o => zOk o.g && (o.sp == 0 || o.sp == 3) && !o.ca && o.sz == 0 && o.ord.toNat ≤ 1 && scOk o.ord o.sc && sOk o.vd
  | .futSet o => legalFut o 0 true && sOk o.vd
  | .futSetAbn o => legalFut o 1 true && o.vd == 0
  | .futReg o => legalFut o 0 true && sOk o.vd
  | .tskPark o => legalFut o 0 true && sOk o.vd
  | .tskSpawn o => legalFut o 0 true && o.vd == 0
  | .tget o => zOk o.g && o.ty == 0 && o.mod == 0 && o.va == 0 && o.vb == 0 && o.vd.toNat ≤ 0x3E
  | .cycCnt o => zOk o.g && o.ty == 0 && o.mod == 0 && o.va == 0 && o.vb == 0 && sOk o.vd
  | .cycMhz o => zOk o.g && o.ty == 0 && o.mod == 8 && o.va == 0 && o.vb == 0 && sOk o.vd
  | .monMark o => zOk o.g && o.ty == 0 && sOk o.vd && sOk o.va
  | .bist o => zOk o.g && o.ty == 0 && sOk o.vd && sOk o.va && o.imm.toNat < 256
  | .trap o => zOk o.g && o.ty == 0 && o.vd == 0 && sOk o.va && o.imm.toNat < 256
  | .rett o => zOk o.g && o.ty == 0 && o.mod == 0 && o.vd == 0 && o.va == 0 && o.vb == 0
  | .rettSkip o => zOk o.g && o.ty == 0 && o.mod == 8 && o.vd == 0 && o.va == 0 && o.vb == 0
  | .rettTo o => zOk o.g && o.ty == 0 && o.mod == 16 && o.vd == 0 && sOk o.va && o.vb == 0
  | .sysRd o => zOk o.g && o.ty == 0 && sOk o.vd && o.va == 0
  | .sysWr o => zOk o.g && o.ty == 0 && o.vd == 0 && sOk o.va
  | .ctxSave o => zOk o.g && o.sz == 0 && o.ord == 0 && o.sc == 0 && !o.ca && o.sp == 0 && sOk o.vd
  | .ctxLoad o => zOk o.g && o.sz == 0 && o.ord == 0 && o.sc == 0 && !o.ca && o.sp == 0 && sOk o.vd
  | .halt o => zOk o.g && o.ty == 0 && o.mod == 0 && o.vd == 0 && sOk o.va && o.vb == 0
  | _ => true

/-! ### Extension fields -/

/-- Bits hi to hi - n + 1 of an extension, as a number. -/
def xbits (x : BitVec 46) (lo n : Nat) : Nat := x.toNat / 2 ^ lo % 2 ^ n

/-- RD, RC, RM, FN, SG, FT of an atomic's extension (18 R361). -/
structure AtomExt where
  rd : Nat
  rc : Nat
  rm : Nat
  fn : Nat
  sg : Bool
  ft : Nat
  deriving DecidableEq, Repr

/-- The extension of an atomic op (18 R361). -/
def atomExt (x : BitVec 46) : AtomExt :=
  ⟨xbits x 38 8, xbits x 30 8, xbits x 22 8, xbits x 18 4, x.getLsbD 17, xbits x 15 2⟩

/-- The extension rules an atomic's row sets (18 R360, R361, R366, R368): which register fields it uses, which FN it
takes, whether SG and FT carry meaning. -/
def atomExtOk (o : MG) (x : BitVec 46) (rd rc rm : Bool) (fnOk : Nat → Bool) (sgOk : Nat → Bool) (flt : Bool) : Bool :=
  let e := atomExt x
  let two := o.sz == 3
  x.toNat % 2 ^ 15 == 0 && (rd || e.rd == 0) && (rc || e.rc == 0) && (rm || e.rm == 0) && fnOk e.fn &&
  (!e.sg || sgOk e.fn) && (if flt then (e.ft == 1) == two else e.ft == 0) &&
  (!two || (e.rd % 2 == 0 && e.rc % 2 == 0 && e.rm % 2 == 0))

/-- FN codes 0111 and 1000 (`.incw`, `.decw`) need SG = 0 (18 R366). -/
def sgFn (fn : Nat) : Bool := fn < 7

/-- Check 4 of 07 R151 and the extension fields of each owner. An op with no extension passes (R144, R151). -/
def extLegal : Instr → Bool
  | .vmad _ (some x) => x.toNat < 2
  | .vfma _ (some x) => x.toNat < 512 && x.toNat % 8 != 7
  | .vfms _ (some x) => x.toNat < 512 && x.toNat % 8 != 7
  | .vfnma _ (some x) => x.toNat < 512 && x.toNat % 8 != 7
  | .vfnms _ (some x) => x.toNat < 512 && x.toNat % 8 != 7
  | .mld _ (some x) => x.toNat < 2 ^ 24
  | .mmac _ (some x) => x.toNat < 2 ^ 24
  | .mmacz _ (some x) => x.toNat < 2 ^ 24
  | .cpIn _ (some x) => cpExtOk x
  | .cpOut _ (some x) => cpExtOk x
  | .cpTile _ (some x) =>
    x.toNat < 2 ^ 39 && (x.getLsbD 26 || (xbits x 33 6 == 0 && xbits x 27 6 == 0)) && (x.getLsbD 25 || xbits x 17 8 == 0) &&
    (xbits x 8 8 + 1) * ((xbits x 0 8 + 1) * 16) ≤ 4096
  | .xdma _ (some x) => x.toNat < 3
  | .am o (some x) => atomExtOk o x true false false (· ≤ 8) sgFn false
  | .red o (some x) => atomExtOk o x false false false (fun f => f ≤ 8 && f != 6) sgFn false
  | .amcas o (some x) => atomExtOk o x true true false (· == 0) (fun _ => false) false
  | .amgts o (some x) => atomExtOk o x true false false (· == 0) (fun _ => false) false
  | .amvcs o (some x) => atomExtOk o x true true true (· == 0) (fun _ => false) false
  | .ampcs _ (some x) =>
    let e := atomExt x
    x.toNat % 2 ^ 15 == 0 && e.rm == 0 && e.fn == 0 && !e.sg && e.ft == 0
  | .amf o (some x) => atomExtOk o x true false false (· ≤ 3) (fun _ => false) true
  | .redf o (some x) => atomExtOk o x false false false (· ≤ 2) (fun _ => false) true
  | .redo o (some x) => redoExtOk o x
  | _ => true
where
  /-- The extension of `cp.in` and `cp.out` (14 R288). -/
  cpExtOk (x : BitVec 46) : Bool :=
    x.toNat < 2 ^ 34 && (x.getLsbD 21 || (xbits x 28 6 == 0 && xbits x 22 6 == 0)) && (x.getLsbD 20 || xbits x 12 8 == 0)
  /-- The extension of `redo`: FT f32 or f64 agreeing with SZ; the tag is one 32-bit register (18 R360, R361). -/
  redoExtOk (o : MG) (x : BitVec 46) : Bool :=
    let e := atomExt x
    x.toNat % 2 ^ 15 == 0 && e.rd == 0 && e.rm == 0 && e.fn == 0 && !e.sg && e.ft ≤ 1 && (e.ft == 1) == (o.sz == 3)

/-- 06 R126: a split branch in a block with UNI = 1 and a call in a block with LEAF = 1 are illegal. -/
def headerLegal (uni leaf : Bool) : Instr → Bool
  | .bv o => !uni || o.u
  | .call _ => !leaf
  | _ => true

/-! ### Opcode classes and register use -/

/-- The opcode class of 07 R147, as a number in the table's order. -/
def opClass (opc : Nat) : Nat :=
  if opc < 0x10 then 0 else if opc < 0x30 then 1 else if opc < 0x60 then 2 else if opc < 0x90 then 3
  else if opc < 0xA0 then 4 else if opc < 0xC0 then 5 else if opc < 0xD0 then 6 else if opc < 0xE0 then 7
  else if opc < 0xE8 then 8 else 9

/-- The registers an op reads and writes, as the pairing rules count them (07 R148, R460; 10 R223; 11 R239; 12 R262).
`vr` and `vw` are vector registers named one by one, `vrun` and `wrun` those of a run or an index range, `banks` the reads
that count once in each bank, `top` further register numbers check 6 compares with the register count; `late` leaves that comparison to the op's
own checks, after those of its format slot (07 R460, 11 R239, 12 R257). -/
structure RegUse where
  vr : List Nat := []
  vw : List Nat := []
  vrun : List Nat := []
  wrun : List Nat := []
  banks : Nat := 0
  sr : List Nat := []
  sw : List Nat := []
  pr : List Nat := []
  pw : List Nat := []
  jr : List Nat := []
  jw : List Nat := []
  xr : List Nat := []
  xw : List Nat := []
  top : List Nat := []
  late : Bool := false
  deriving DecidableEq, Repr

/-- `n` registers from a field upward. -/
def regs (v : BitVec 8) (n : Nat) : List Nat := (List.range n).map (v.toNat + ·)
/-- `n` registers from a number upward, none above 255 (07 R460). -/
def run (v n : Nat) : List Nat := ((List.range n).map (v + ·)).filter (· < 256)
/-- Registers a value of an integer type takes. -/
def iw (ty : BitVec 3) : Nat := if isPairTy ty then 2 else 1
/-- Registers a value of a floating type takes. -/
def fw (ty : BitVec 3) : Nat := if ty == 1 then 2 else 1
/-- A scalar field. -/
def s1 (v : BitVec 8) : List Nat := [v.toNat]

/-- A G3 op on three values of `n` registers. -/
def use3 (o : G3) (n : Nat) : RegUse := { vr := regs o.va n ++ regs o.vb n, vw := regs o.vd n }
/-- A G3 op on two values of `n` registers. -/
def use2 (o : G3) (n : Nat) : RegUse := { vr := regs o.va n, vw := regs o.vd n }
/-- A scalar op on three registers. -/
def useS (o : G3) : RegUse := { sr := s1 o.va ++ s1 o.vb, sw := s1 o.vd }
/-- A lane load (14 R283). -/
def useLd (sb : BitVec 6) (vd : BitVec 8) (n : Nat) : RegUse := { sr := [sb.toNat], vw := regs vd n }
/-- A lane store (14 R283). -/
def useSt (sb : BitVec 6) (vd : BitVec 8) (n : Nat) : RegUse := { sr := [sb.toNat], vr := regs vd n }
/-- Registers an access of size code `sz` takes. -/
def mw (sz : BitVec 3) : Nat := if sz == 3 then 2 else 1
/-- A fused multiply-add or `vmad`. -/
def use4 (o : G4) (n : Nat) : RegUse := { vr := regs o.va n ++ regs o.vb n ++ regs o.vc n, vw := regs o.vd n }
/-- An atomic: its lane offsets, operand, compare and mask registers, its result (18 R361). `n` registers a value;
`rd`, `rc`, `rm` as its row uses them. -/
def useAt (o : MG) (x : Ext) (n : Nat) (rd : Bool) (rc rm : Nat) : RegUse :=
  match x with
  | none => { sr := [o.sb.toNat], vr := o.va.toNat :: regs o.vd n }
  | some x =>
    let e := atomExt x
    { sr := [o.sb.toNat],
      vr := o.va.toNat :: regs o.vd n ++ (List.range rc).map (e.rc + ·) ++ (List.range rm).map (e.rm + ·),
      vw := if rd then (List.range n).map (e.rd + ·) else [] }
/-- `ampcs`: quads, each counted as one read in each bank (18 R361). -/
def usePcs (o : MG) (x : Ext) : RegUse :=
  match x with
  | none => { sr := [o.sb.toNat], vr := [o.va.toNat], vrun := regs o.vd 4, banks := 1, top := [o.vd.toNat + 3] }
  | some x =>
    let e := atomExt x
    { sr := [o.sb.toNat], vr := [o.va.toNat], vrun := regs o.vd 4 ++ (List.range 4).map (e.rc + ·), banks := 2,
      vw := (List.range 4).map (e.rd + ·), top := [o.vd.toNat + 3, e.rc + 3, e.rd + 3] }
/-- The scalar registers of a mark (14 R288). -/
def markRegs (x : Ext) (me ma mv : Nat) : List Nat :=
  match x with
  | none => []
  | some x => if x.getLsbD me then [xbits x ma 6, xbits x mv 6] else []

/-- The registers of an op, its guard apart. `xb` gives BASE and BOUND of an index register as it stands (10 R223). -/
def opRegs (xb : Nat → Nat × Nat) : Instr → RegUse
  | .bc o => { sr := [o.sa.toNat] }
  | .call _ => { sw := [62] }
  | .ret o => { sr := [o.sa.toNat] }
  | .jmpi o => { sr := [o.sa.toNat] }
  | .loop o => { sr := [o.sa.toNat], sw := [o.sa.toNat] }
  | .yield o => { sr := [o.sa.toNat] }
  | .launch o => useS o
  | .sadd o => useS o
  | .ssub o => useS o
  | .smul o => useS o
  | .smulh o => useS o
  | .sdiv o => useS o
  | .srem o => useS o
  | .sand o => useS o
  | .sor o => useS o
  | .sxor o => useS o
  | .sshl o => useS o
  | .sshr o => useS o
  | .smin o => useS o
  | .smax o => useS o
  | .scmp o => useS o
  | .ssel o => { sr := s1 o.vd ++ s1 o.va ++ s1 o.vb, sw := s1 o.vd }
  | .sbit o => { sr := s1 o.va, sw := s1 o.vd }
  | .saddi o => { sr := s1 o.va, sw := s1 o.vd }
  | .slui o => { sr := s1 o.va, sw := s1 o.vd }
  | .sli o _ => { sw := s1 o.vd }
  | .sld o _ => { sr := [o.sb.toNat], sw := s1 o.vd }
  | .sst o _ => { sr := [o.sb.toNat] ++ s1 o.vd }
  | .sget o => { sw := s1 o.vd }
  | .vadd o => use3 o (iw o.ty)
  | .vsub o => use3 o (iw o.ty)
  | .vmul o => use3 o (iw o.ty)
  | .vmulh o => use3 o (iw o.ty)
  | .vmad o _ => use4 o 1
  | .vmin o => use3 o (iw o.ty)
  | .vmax o => use3 o (iw o.ty)
  | .vabs o => use2 o (iw o.ty)
  | .vand o => use3 o (iw o.ty)
  | .vor o => use3 o (iw o.ty)
  | .vxor o => use3 o (iw o.ty)
  | .vnot o => use2 o (iw o.ty)
  | .vshl o => use3 o (iw o.ty)
  | .vshr o => use3 o (iw o.ty)
  | .vrot o => use3 o (iw o.ty)
  | .vbit o => use2 o (iw o.ty)
  | .vbfe o => { vr := regs o.va 1 ++ regs o.vc 1, vw := regs o.vd 1 }
  | .vbfi o => use4 o 1
  | .vaddi o _ => { vr := regs o.va (iw o.ty), vw := regs o.vd (iw o.ty) }
  | .vmovi o _ => { vw := regs o.vd (iw o.ty) }
  | .vmov o => use2 o (iw o.ty)
  | .vsel o => { use3 o (iw o.ty) with pr := [fnOf o.mod % 8] }
  | .vcmp o => { vr := regs o.va (iw o.ty) ++ regs o.vb (iw o.ty), pw := [o.vd.toNat] }
  | .vcvti o =>
    let sty : BitVec 3 := BitVec.ofNat 3 (fnOf o.mod % 8)
    let two := (intTy sty).w == 2 * (intTy o.ty).w && (intTy o.ty).w != 32
    { vr := regs o.va (iw sty) ++ (if two then regs o.vb 1 else []), vw := regs o.vd (iw o.ty) }
  | .vlane o => { vr := regs o.va (iw o.ty) ++ regs o.vb 1, vw := regs o.vd (iw o.ty) }
  | .vbcast o => { use2 o (iw o.ty) with sr := s1 o.vb }
  | .vshfl o => { use2 o (iw o.ty) with sr := s1 o.vb }
  | .vrotl o => { use2 o (iw o.ty) with sr := s1 o.vb }
  | .vscan o => use2 o (iw o.ty)
  | .vred o => { vr := regs o.va (iw o.ty), jw := [o.vd.toNat] }
  | .vballot o => { pr := [o.va.toNat], sw := s1 o.vd }
  | .s2v o => { sr := s1 o.va, vw := regs o.vd (iw o.ty) }
  | .pmov o => { sr := s1 o.va, pw := [o.vd.toNat] }
  | .plog o => { pr := [o.va.toNat, o.vb.toNat], pw := [o.vd.toNat] }
  | .pcnt o => { pr := [o.va.toNat], sw := s1 o.vd }
  | .pfirst o => { pr := [o.va.toNat], sw := s1 o.vd }
  | .xset o => { xw := [o.vd.toNat], top := [o.va.toNat, o.va.toNat + o.imm.toNat - 1] }
  | .vldx o => { vr := regs o.vb 1, vw := regs o.vd (iw o.ty), xr := [o.va.toNat], banks := 1, vrun := run (xb o.va.toNat).1 (xb o.va.toNat).2 }
  | .vstx o => { vr := regs o.va (iw o.ty) ++ regs o.vb 1, xr := [o.vd.toNat], wrun := run (xb o.vd.toNat).1 (xb o.vd.toNat).2 }
  | .jget o => { sr := s1 o.vb, sw := s1 o.vd, jr := [o.va.toNat] }
  | .vfadd o => use3 o (fw o.ty)
  | .vfsub o => use3 o (fw o.ty)
  | .vfmul o => use3 o (fw o.ty)
  | .vfma o _ => use4 o (if o.t2 == 1 then 2 else 1)
  | .vfms o _ => use4 o (if o.t2 == 1 then 2 else 1)
  | .vfnma o _ => use4 o (if o.t2 == 1 then 2 else 1)
  | .vfnms o _ => use4 o (if o.t2 == 1 then 2 else 1)
  | .vfmin o => use3 o (fw o.ty)
  | .vfmax o => use3 o (fw o.ty)
  | .vfcmp o => { vr := regs o.va (fw o.ty) ++ regs o.vb (fw o.ty), pw := [o.vd.toNat] }
  | .vfclass o => { vr := regs o.va (fw o.ty), vw := regs o.vd 1 }
  | .vfdiv o => use3 o (fw o.ty)
  | .vfsqrt o => use2 o (fw o.ty)
  | .vfrcp o => use2 o 1
  | .vfrsq o => use2 o 1
  | .vfexp2 o => use2 o 1
  | .vflog2 o => use2 o 1
  | .vfsin o => use2 o 1
  | .vfcos o => use2 o 1
  | .vftanh o => use2 o 1
  | .vfsig o => use2 o 1
  | .vfrnd o => use2 o (fw o.ty)
  | .vfscl o => { vr := regs o.va (fw o.ty) ++ regs o.vb 1, vw := regs o.vd (fw o.ty) }
  | .vfcvt o =>
    let st := vfcvtSt o.mod
    let dt := o.ty.toNat
    let n := if st == 1 then 2 else 1
    { vr := regs o.va n ++ (if dt ≥ 2 && st < 2 then regs o.vb n else []),
      vw := regs o.vd (if dt == 1 || (dt == 0 && st ≥ 2) then 2 else 1) }
  | .vfcvti o =>
    let i := if 6 ≤ o.mod.toNat / 8 % 8 then 2 else 1
    if o.mod.getLsbD 6 then { vr := regs o.va i, vw := regs o.vd (fw o.ty) } else { vr := regs o.va (fw o.ty), vw := regs o.vd i }
  | .vqsc o => { banks := 1, vrun := run o.va.toNat 32, vw := regs o.vd 1, late := true }
  | .vqnt o => { banks := 2, vrun := run o.va.toNat 32, vr := regs o.vb 1, wrun := run o.vd.toNat 16, late := true }
  | .vdqnt o => { banks := 2, vrun := run o.va.toNat 16, vr := regs o.vb 1, wrun := run o.vd.toNat 32, late := true }
  | .mld o _ => { sr := [o.sb.toNat] }
  | .mldsc o => { sr := [o.sb.toNat] }
  | .mmac o _ => { banks := 1, vrun := run o.va.toNat 32 ++ run (o.vb.toNat + 1) 1, vr := regs o.vb 1, wrun := run o.vd.toNat 16, late := true }
  | .mmacz o _ => { banks := 1, vrun := run o.va.toNat 32 ++ run (o.vb.toNat + 1) 1, vr := regs o.vb 1, wrun := run o.vd.toNat 16, late := true }
  | .mbudUsed o => { sw := s1 o.vd }
  | .mbudCred o => { sw := s1 o.vd }
  | .ld o _ => useLd o.sb o.vd (mw o.sz)
  | .st o _ => useSt o.sb o.vd (mw o.sz)
  | .ldg o => { useLd o.sb o.vd (mw o.sz) with vr := regs o.va 1 }
  | .stg o => { sr := [o.sb.toNat], vr := regs o.va 1 ++ regs o.vd (mw o.sz) }
  | .ldq o _ => { sr := [o.sb.toNat], banks := 1, vw := regs o.vd 4, top := [o.vd.toNat + 3] }
  | .stq o _ => { sr := [o.sb.toNat], vr := regs o.vd 4, top := [o.vd.toNat + 3] }
  | .cpIn o x => { sr := [o.sb.toNat] ++ s1 o.vd ++ markRegs x 21 22 28 }
  | .cpOut o x => { sr := [o.sb.toNat] ++ s1 o.vd ++ markRegs x 21 22 28 }
  | .cpTile o x => { sr := [o.sb.toNat, o.vd.toNat, o.vd.toNat + 1] ++ markRegs x 26 27 33 }
  | .bcbExp o => { sr := s1 o.vb }
  | .bcbWt o => { sr := s1 o.vb, sw := s1 o.vd }
  | .pref o _ => { sr := [o.sb.toNat] }
  | .resBind o => useS o
  | .resSetPrio o => { sr := s1 o.va }
  | .resSetLifeS o => { sr := s1 o.vd ++ s1 o.va ++ s1 o.vb }
  | .resSetLifeM o => { sr := s1 o.vd ++ s1 o.va ++ s1 o.vb }
  | .resDrop o => { sr := s1 o.va }
  | .xdma o _ => { sr := [o.sb.toNat], sw := s1 o.vd }
  | .wadr o => { sr := [o.sb.toNat] ++ s1 o.vd, sw := s1 o.vd }
  | .am o x => useAt o x (mw o.sz) true 0 0
  | .red o x => useAt o x (mw o.sz) false 0 0
  | .amcas o x => useAt o x (mw o.sz) true (mw o.sz) 0
  | .amgts o x => useAt o x (mw o.sz) true 0 0
  | .amvcs o x => useAt o x (mw o.sz) true (mw o.sz) (mw o.sz)
  | .ampcs o x => usePcs o x
  | .amf o x => useAt o x (mw o.sz) true 0 0
  | .redf o x => useAt o x (mw o.sz) false 0 0
  | .redo o x => useAt o x (mw o.sz) false 1 0
  | .lsa o => { sr := [o.sb.toNat], sw := s1 o.vd }
  | .lsr o => { sr := [o.sb.toNat], sw := s1 o.vd }
  | .barIniArv o => { sr := s1 o.vb }
  | .barArv o => { sw := s1 o.vd }
  | .barWt o => { sr := s1 o.vb, sw := s1 o.vd }
  | .barSync o => { sw := s1 o.vd }
  | .barCl o => { sw := s1 o.vd }
  | .barDie o => { sw := s1 o.vd }
  | .fenceRacq o => { sr := s1 o.vb, sw := s1 o.vd }
  | .futNew o => { sr := [o.sb.toNat], sw := s1 o.vd }
  | .futNewBind o => { sr := [o.sb.toNat], sw := s1 o.vd }
  | .futGet o => { sr := [o.sb.toNat], sw := s1 o.vd }
  | .futSet o => { sr := [o.sb.toNat] ++ s1 o.vd }
  | .futSetAbn o => { sr := [o.sb.toNat] }
  | .futReg o => { sr := [o.sb.toNat] ++ s1 o.vd }
  | .tskPark o => { sr := [o.sb.toNat] ++ s1 o.vd }
  | .tskSpawn o => { sr := [o.sb.toNat] }
  | .tget o => { sw := [o.vd.toNat, o.vd.toNat + 1] }
  | .cycCnt o => { sw := s1 o.vd }
  | .cycMhz o => { sw := s1 o.vd }
  | .monMark o => { sr := s1 o.va, sw := s1 o.vd }
  | .bist o => { sr := s1 o.va, sw := s1 o.vd }
  | .trap o => { sr := s1 o.va }
  | .rettTo o => { sr := s1 o.va }
  | .sysRd o => { sw := s1 o.vd }
  | .sysWr o => { sr := s1 o.va }
  | .ctxSave o => { sr := [o.sb.toNat] ++ s1 o.vd, sw := s1 o.vd }
  | .ctxLoad o => { sr := [o.sb.toNat] ++ s1 o.vd, sw := s1 o.vd }
  | .halt o => { sr := s1 o.va }
  | _ => {}

/-- The highest vector register number an op names, plus one, as check 6 of 07 R151 compares it. -/
def RegUse.need (u : RegUse) : Nat := if u.late then 0 else (u.vr ++ u.vw ++ u.top).foldl (fun m n => max m (n + 1)) 0

/-- No member in common. -/
def disjoint (a b : List Nat) : Bool := a.all fun n => !b.contains n

/-- Members once each. -/
def distinct : List Nat → List Nat
  | [] => []
  | n :: t => if t.contains n then distinct t else n :: distinct t

/-- Reads in bank `b` across two ops: each named register once, and each run once in every bank (07 R148 rule 2). -/
def bankReads (u v : RegUse) (b : Nat) : Nat :=
  ((distinct (u.vr ++ v.vr)).filter (· % 4 == b)).length + u.banks + v.banks

/-- Rules 2 to 5 of 07 R148. s0 and p0 count neither as read nor as written. -/
def pairRules (u v : RegUse) : Bool :=
  (List.range 4).all (fun b => bankReads u v b ≤ 2) &&
  (distinct ((u.sr ++ v.sr).filter (· != 0))).length ≤ 1 &&
  cross u v && cross v u &&
  disjoint (u.vw ++ u.wrun) (v.vw ++ v.wrun) && disjoint (nz u.sw) (nz v.sw) && disjoint (nz u.pw) (nz v.pw) &&
  disjoint u.jw v.jw && disjoint u.xw v.xw
where
  /-- Numbers other than 0. -/
  nz (l : List Nat) : List Nat := l.filter (· != 0)
  /-- Rule 4 one way: what `a` reads, `b` does not write. -/
  cross (a b : RegUse) : Bool :=
    disjoint (a.vr ++ a.vrun) (b.vw ++ b.wrun) && disjoint (nz a.sr) (nz b.sw) && disjoint (nz a.pr) (nz b.pw) &&
    disjoint a.jr b.jw && disjoint a.xr b.xw

end Sys2Proof.Machine
end

