-- ==== Sys2Proof/WellFormed.lean ====
section
/-! DEFINITION. When an instruction is one the spec lets an issue word carry: its own 46 bits and its extension are legal
(07 R151 checks 3 and 4), and an op that always takes an extension has one (07 R144). -/
namespace Sys2Proof
open Sys2Proof.Machine

/-- The extension of an op, where it has one. -/
def extOf : Instr → Ext
  | .sli _ x => x
  | .sld _ x => x
  | .sst _ x => x
  | .vmad _ x => x
  | .vaddi _ x => x
  | .vmovi _ x => x
  | .vfma _ x => x
  | .vfms _ x => x
  | .vfnma _ x => x
  | .vfnms _ x => x
  | .mld _ x => x
  | .mmac _ x => x
  | .mmacz _ x => x
  | .ld _ x => x
  | .st _ x => x
  | .ldq _ x => x
  | .stq _ x => x
  | .cpIn _ x => x
  | .cpOut _ x => x
  | .cpTile _ x => x
  | .pref _ x => x
  | .xdma _ x => x
  | .am _ x => x
  | .red _ x => x
  | .amcas _ x => x
  | .amgts _ x => x
  | .amvcs _ x => x
  | .ampcs _ x => x
  | .amf _ x => x
  | .redf _ x => x
  | .redo _ x => x
  | _ => none

/-- The op is of extension class X: it always takes an extension and stands alone (07 R144, R147). -/
def isClassX : Instr → Bool
  | .sli _ _ => true
  | .cpIn _ _ => true
  | .cpOut _ _ => true
  | .cpTile _ _ => true
  | .xdma _ _ => true
  | .am _ _ => true
  | .red _ _ => true
  | .amcas _ _ => true
  | .amgts _ _ => true
  | .amvcs _ _ => true
  | .ampcs _ _ => true
  | .amf _ _ => true
  | .redf _ _ => true
  | .redo _ _ => true
  | _ => false

/-- The op is of extension class E: it takes an extension in form 00 only (07 R144). -/
def isClassE : Instr → Bool
  | .sld _ _ => true
  | .sst _ _ => true
  | .vmad _ _ => true
  | .vaddi _ _ => true
  | .vmovi _ _ => true
  | .vfma _ _ => true
  | .vfms _ _ => true
  | .vfnma _ _ => true
  | .vfnms _ _ => true
  | .mld _ _ => true
  | .mmac _ _ => true
  | .mmacz _ _ => true
  | .ld _ _ => true
  | .st _ _ => true
  | .ldq _ _ => true
  | .stq _ _ => true
  | .pref _ _ => true
  | _ => false

/-- A well-formed instruction: 07 R151 checks 3 and 4, and R144 for class X. -/
def wf (i : Instr) : Bool := opLegal i && extLegal i && (!isClassX i || (extOf i).isSome)

end Sys2Proof
end

