-- ==== Sys2Proof/Decode.lean ====
section
/-! DEFINITION. Decoding of issue words and headers, and the encoder (06 R122-R124, 07 R135-R151, 00 R8). -/
namespace Sys2Proof
open Sys2Proof.Machine

/-! ### Op formats (07 R137) -/

/-- OPC, bits 45:38 of an op. -/
def opcOf (w : Op46) : BitVec 8 := w.extractLsb' 38 8
/-- PG and PN, bits 37:34 of an op. -/
def decGuard (w : Op46) : Guard := ⟨w.extractLsb' 35 3, w.getLsbD 34⟩
/-- The fields of format G3. -/
def decG3 (w : Op46) : G3 :=
  ⟨decGuard w, w.extractLsb' 31 3, w.extractLsb' 24 7, w.extractLsb' 16 8, w.extractLsb' 8 8, w.extractLsb' 0 8⟩
/-- The fields of format G4. -/
def decG4 (w : Op46) : G4 :=
  ⟨decGuard w, w.extractLsb' 32 2, w.extractLsb' 24 8, w.extractLsb' 16 8, w.extractLsb' 8 8, w.extractLsb' 0 8⟩
/-- The fields of format GI. -/
def decGI (w : Op46) : GI :=
  ⟨decGuard w, w.extractLsb' 31 3, w.extractLsb' 23 8, w.extractLsb' 15 8, w.extractLsb' 0 15⟩
/-- The fields of format M. -/
def decM (w : Op46) : M :=
  ⟨decGuard w, w.extractLsb' 31 3, w.extractLsb' 29 2, w.extractLsb' 26 3, w.getLsbD 25, w.extractLsb' 23 2,
    w.extractLsb' 15 8, w.extractLsb' 9 6, w.extractLsb' 0 9⟩
/-- The fields of format MG; its bit 0 must be 0. -/
def decMG (w : Op46) : MG :=
  ⟨decGuard w, w.extractLsb' 31 3, w.extractLsb' 29 2, w.extractLsb' 26 3, w.getLsbD 25, w.extractLsb' 23 2,
    w.extractLsb' 15 8, w.extractLsb' 7 8, w.extractLsb' 1 6⟩
/-- The fields of format C. -/
def decC (w : Op46) : C :=
  ⟨decGuard w, w.getLsbD 33, w.extractLsb' 30 3, w.extractLsb' 24 6, w.extractLsb' 0 24⟩

/-- OPC, PG and PN of an op (07 R137). -/
def encHead (opc : BitVec 8) (g : Guard) : BitVec 12 := opc ++ g.pg ++ BitVec.ofBool g.pn
/-- An op of format G3. -/
def encG3 (opc : BitVec 8) (o : G3) : Op46 := encHead opc o.g ++ o.ty ++ o.mod ++ o.vd ++ o.va ++ o.vb
/-- An op of format G4. -/
def encG4 (opc : BitVec 8) (o : G4) : Op46 := encHead opc o.g ++ o.t2 ++ o.vd ++ o.va ++ o.vb ++ o.vc
/-- An op of format GI. -/
def encGI (opc : BitVec 8) (o : GI) : Op46 := encHead opc o.g ++ o.ty ++ o.vd ++ o.va ++ o.imm
/-- An op of format M. -/
def encM (opc : BitVec 8) (o : M) : Op46 :=
  encHead opc o.g ++ o.sz ++ o.ord ++ o.sc ++ BitVec.ofBool o.ca ++ o.sp ++ o.vd ++ o.sb ++ o.off
/-- An op of format MG. -/
def encMG (opc : BitVec 8) (o : MG) : Op46 :=
  encHead opc o.g ++ o.sz ++ o.ord ++ o.sc ++ BitVec.ofBool o.ca ++ o.sp ++ o.vd ++ o.va ++ o.sb ++ 0#1
/-- An op of format C. -/
def encC (opc : BitVec 8) (o : C) : Op46 := encHead opc o.g ++ BitVec.ofBool o.u ++ o.cc ++ o.sa ++ o.tgt

/-! ### The opcode map (07 R145, R146) -/

/-- The instruction the bits of an op of opcode `opc` name, with the extension of its word; `none` for an unassigned opcode (R146), a
variant code no row has, or the must-be-zero bit of MG. -/
def decodeOpc (opc : Nat) (w : Op46) (x : Ext) : Option Instr :=
  match opc with
  | 0x01 => some (.nop (decC w))
  | 0x02 => some (.br (decC w))
  | 0x03 => some (.bc (decC w))
  | 0x04 => some (.bv (decC w))
  | 0x05 => some (.call (decC w))
  | 0x06 => some (.ret (decC w))
  | 0x07 => some (.jmpi (decC w))
  | 0x08 => some (.loop (decC w))
  | 0x09 => some (.exit (decC w))
  | 0x0A => some (.launch (decG3 w))
  | 0x0B => some (.yield (decC w))
  | 0x10 => some (.sadd (decG3 w))
  | 0x11 => some (.ssub (decG3 w))
  | 0x12 => some (.smul (decG3 w))
  | 0x13 => some (.smulh (decG3 w))
  | 0x14 => some (.sdiv (decG3 w))
  | 0x15 => some (.srem (decG3 w))
  | 0x16 => some (.sand (decG3 w))
  | 0x17 => some (.sor (decG3 w))
  | 0x18 => some (.sxor (decG3 w))
  | 0x19 => some (.sshl (decG3 w))
  | 0x1A => some (.sshr (decG3 w))
  | 0x1B => some (.smin (decG3 w))
  | 0x1C => some (.smax (decG3 w))
  | 0x1D => some (.scmp (decG3 w))
  | 0x1E => some (.ssel (decG3 w))
  | 0x1F => some (.sbit (decG3 w))
  | 0x20 => some (.saddi (decGI w))
  | 0x21 => some (.slui (decGI w))
  | 0x22 => some (.sli (decGI w) x)
  | 0x23 => some (.sld (decM w) x)
  | 0x24 => some (.sst (decM w) x)
  | 0x25 => some (.sget (decGI w))
  | 0x30 => some (.vadd (decG3 w))
  | 0x31 => some (.vsub (decG3 w))
  | 0x32 => some (.vmul (decG3 w))
  | 0x33 => some (.vmulh (decG3 w))
  | 0x34 => some (.vmad (decG4 w) x)
  | 0x35 => some (.vmin (decG3 w))
  | 0x36 => some (.vmax (decG3 w))
  | 0x37 => some (.vabs (decG3 w))
  | 0x38 => some (.vand (decG3 w))
  | 0x39 => some (.vor (decG3 w))
  | 0x3A => some (.vxor (decG3 w))
  | 0x3B => some (.vnot (decG3 w))
  | 0x3C => some (.vshl (decG3 w))
  | 0x3D => some (.vshr (decG3 w))
  | 0x3E => some (.vrot (decG3 w))
  | 0x3F => some (.vbit (decG3 w))
  | 0x40 => some (.vbfe (decG4 w))
  | 0x41 => some (.vbfi (decG4 w))
  | 0x42 => some (.vaddi (decGI w) x)
  | 0x43 => some (.vmovi (decGI w) x)
  | 0x44 => some (.vmov (decG3 w))
  | 0x45 => some (.vsel (decG3 w))
  | 0x46 => some (.vcmp (decG3 w))
  | 0x47 => some (.vcvti (decG3 w))
  | 0x48 => some (.vlane (decG3 w))
  | 0x49 => some (.vbcast (decG3 w))
  | 0x4A => some (.vshfl (decG3 w))
  | 0x4B => some (.vrotl (decG3 w))
  | 0x4C => some (.vscan (decG3 w))
  | 0x4D => some (.vred (decG3 w))
  | 0x4E => some (.vballot (decG3 w))
  | 0x4F => some (.s2v (decG3 w))
  | 0x50 => some (.pmov (decG3 w))
  | 0x51 => some (.plog (decG3 w))
  | 0x52 => some (.pcnt (decG3 w))
  | 0x53 => some (.pfirst (decG3 w))
  | 0x54 => some (.xset (decGI w))
  | 0x55 => some (.vldx (decG3 w))
  | 0x56 => some (.vstx (decG3 w))
  | 0x57 => some (.jget (decG3 w))
  | 0x60 => some (.vfadd (decG3 w))
  | 0x61 => some (.vfsub (decG3 w))
  | 0x62 => some (.vfmul (decG3 w))
  | 0x63 => some (.vfma (decG4 w) x)
  | 0x64 => some (.vfms (decG4 w) x)
  | 0x65 => some (.vfnma (decG4 w) x)
  | 0x66 => some (.vfnms (decG4 w) x)
  | 0x67 => some (.vfmin (decG3 w))
  | 0x68 => some (.vfmax (decG3 w))
  | 0x69 => some (.vfcmp (decG3 w))
  | 0x6A => some (.vfclass (decG3 w))
  | 0x6B => some (.vfdiv (decG3 w))
  | 0x6C => some (.vfsqrt (decG3 w))
  | 0x6D => some (.vfrcp (decG3 w))
  | 0x6E => some (.vfrsq (decG3 w))
  | 0x6F => some (.vfexp2 (decG3 w))
  | 0x70 => some (.vflog2 (decG3 w))
  | 0x71 => some (.vfsin (decG3 w))
  | 0x72 => some (.vfcos (decG3 w))
  | 0x73 => some (.vftanh (decG3 w))
  | 0x74 => some (.vfsig (decG3 w))
  | 0x75 => some (.vfrnd (decG3 w))
  | 0x76 => some (.vfscl (decG3 w))
  | 0x77 => some (.vfcvt (decG3 w))
  | 0x78 => some (.vfcvti (decG3 w))
  | 0x79 => some (.vqsc (decG3 w))
  | 0x7A => some (.vqnt (decG3 w))
  | 0x7B => some (.vdqnt (decG3 w))
  | 0x90 => some (.mld (decM w) x)
  | 0x91 => some (.mldsc (decM w))
  | 0x92 => some (.mswp (decG3 w))
  | 0x93 => some (.mmac (decG3 w) x)
  | 0x94 => some (.mmacz (decG3 w) x)
  | 0x95 =>
    match fnOf (decG3 w).mod with
    | 0 => some (.mbudUsed (decG3 w))
    | 1 => some (.mbudCred (decG3 w))
    | _ => none
  | 0x96 => some (.mwait (decG3 w))
  | 0xA0 => some (.ld (decM w) x)
  | 0xA1 => some (.st (decM w) x)
  | 0xA2 => if w.getLsbD 0 then none else some (.ldg (decMG w))
  | 0xA3 => if w.getLsbD 0 then none else some (.stg (decMG w))
  | 0xA4 => some (.ldq (decM w) x)
  | 0xA5 => some (.stq (decM w) x)
  | 0xA6 => some (.cpIn (decM w) x)
  | 0xA7 => some (.cpOut (decM w) x)
  | 0xA8 => some (.cpTile (decM w) x)
  | 0xA9 => some (.bcbExp (decG3 w))
  | 0xAA => some (.bcbWt (decG3 w))
  | 0xAB => some (.pref (decM w) x)
  | 0xAC => some (.resBind (decG3 w))
  | 0xAD =>
    match fnOf (decG3 w).mod with
    | 0 => some (.resSetPrio (decG3 w))
    | 1 => some (.resSetLifeS (decG3 w))
    | 2 => some (.resSetLifeM (decG3 w))
    | _ => none
  | 0xAE => some (.resDrop (decG3 w))
  | 0xAF => some (.xdma (decM w) x)
  | 0xB0 => some (.wadr (decM w))
  | 0xC0 => if w.getLsbD 0 then none else some (.am (decMG w) x)
  | 0xC1 => if w.getLsbD 0 then none else some (.red (decMG w) x)
  | 0xC2 => if w.getLsbD 0 then none else some (.amcas (decMG w) x)
  | 0xC3 => if w.getLsbD 0 then none else some (.amgts (decMG w) x)
  | 0xC4 => if w.getLsbD 0 then none else some (.amvcs (decMG w) x)
  | 0xC5 => if w.getLsbD 0 then none else some (.ampcs (decMG w) x)
  | 0xC6 => if w.getLsbD 0 then none else some (.amf (decMG w) x)
  | 0xC7 => if w.getLsbD 0 then none else some (.redf (decMG w) x)
  | 0xC8 => if w.getLsbD 0 then none else some (.redo (decMG w) x)
  | 0xC9 => some (.lsa (decM w))
  | 0xCA => some (.lsr (decM w))
  | 0xD0 =>
    match fnOf (decG3 w).mod with
    | 0 => some (.barIniArv (decG3 w))
    | 1 => some (.barIniByte (decG3 w))
    | 2 => some (.barIniFree (decG3 w))
    | _ => none
  | 0xD1 => some (.barArv (decG3 w))
  | 0xD2 => some (.barWt (decG3 w))
  | 0xD3 => some (.barSync (decG3 w))
  | 0xD4 => some (.barCl (decG3 w))
  | 0xD5 => some (.barDie (decG3 w))
  | 0xD6 =>
    match fnOf (decG3 w).mod with
    | 0 => some (.fenceRel (decG3 w))
    | 1 => some (.fenceAcq (decG3 w))
    | 2 => some (.fenceFull (decG3 w))
    | 3 => some (.fenceRacq (decG3 w))
    | _ => none
  | 0xD7 =>
    match (decM w).sz.toNat with
    | 0 => some (.futNew (decM w))
    | 1 => some (.futNewBind (decM w))
    | _ => none
  | 0xD8 => some (.futGet (decM w))
  | 0xD9 =>
    match (decM w).sz.toNat with
    | 0 => some (.futSet (decM w))
    | 1 => some (.futSetAbn (decM w))
    | _ => none
  | 0xDA => some (.futReg (decM w))
  | 0xDB => some (.tskPark (decM w))
  | 0xDC => some (.tskSpawn (decM w))
  | 0xE0 => some (.tget (decG3 w))
  | 0xE1 =>
    match fnOf (decG3 w).mod with
    | 0 => some (.cycCnt (decG3 w))
    | 1 => some (.cycMhz (decG3 w))
    | _ => none
  | 0xE2 => some (.monMark (decGI w))
  | 0xE3 => some (.bist (decGI w))
  | 0xE8 => some (.trap (decGI w))
  | 0xE9 =>
    match fnOf (decG3 w).mod with
    | 0 => some (.rett (decG3 w))
    | 1 => some (.rettSkip (decG3 w))
    | 2 => some (.rettTo (decG3 w))
    | _ => none
  | 0xEA => some (.sysRd (decGI w))
  | 0xEB => some (.sysWr (decGI w))
  | 0xEC => some (.ctxSave (decM w))
  | 0xED => some (.ctxLoad (decM w))
  | 0xEE => some (.halt (decG3 w))
  | _ => none

/-- The instruction an op's 46 bits name. -/
def decodeOp (w : Op46) (x : Ext) : Option Instr := decodeOpc (opcOf w).toNat w x

/-- The 46 bits of an instruction; a step of another agent has none. -/
def encodeOp : Instr → Op46
  | .nop o => encC 0x01 o
  | .br o => encC 0x02 o
  | .bc o => encC 0x03 o
  | .bv o => encC 0x04 o
  | .call o => encC 0x05 o
  | .ret o => encC 0x06 o
  | .jmpi o => encC 0x07 o
  | .loop o => encC 0x08 o
  | .exit o => encC 0x09 o
  | .launch o => encG3 0x0A o
  | .yield o => encC 0x0B o
  | .sadd o => encG3 0x10 o
  | .ssub o => encG3 0x11 o
  | .smul o => encG3 0x12 o
  | .smulh o => encG3 0x13 o
  | .sdiv o => encG3 0x14 o
  | .srem o => encG3 0x15 o
  | .sand o => encG3 0x16 o
  | .sor o => encG3 0x17 o
  | .sxor o => encG3 0x18 o
  | .sshl o => encG3 0x19 o
  | .sshr o => encG3 0x1A o
  | .smin o => encG3 0x1B o
  | .smax o => encG3 0x1C o
  | .scmp o => encG3 0x1D o
  | .ssel o => encG3 0x1E o
  | .sbit o => encG3 0x1F o
  | .saddi o => encGI 0x20 o
  | .slui o => encGI 0x21 o
  | .sli o _ => encGI 0x22 o
  | .sld o _ => encM 0x23 o
  | .sst o _ => encM 0x24 o
  | .sget o => encGI 0x25 o
  | .vadd o => encG3 0x30 o
  | .vsub o => encG3 0x31 o
  | .vmul o => encG3 0x32 o
  | .vmulh o => encG3 0x33 o
  | .vmad o _ => encG4 0x34 o
  | .vmin o => encG3 0x35 o
  | .vmax o => encG3 0x36 o
  | .vabs o => encG3 0x37 o
  | .vand o => encG3 0x38 o
  | .vor o => encG3 0x39 o
  | .vxor o => encG3 0x3A o
  | .vnot o => encG3 0x3B o
  | .vshl o => encG3 0x3C o
  | .vshr o => encG3 0x3D o
  | .vrot o => encG3 0x3E o
  | .vbit o => encG3 0x3F o
  | .vbfe o => encG4 0x40 o
  | .vbfi o => encG4 0x41 o
  | .vaddi o _ => encGI 0x42 o
  | .vmovi o _ => encGI 0x43 o
  | .vmov o => encG3 0x44 o
  | .vsel o => encG3 0x45 o
  | .vcmp o => encG3 0x46 o
  | .vcvti o => encG3 0x47 o
  | .vlane o => encG3 0x48 o
  | .vbcast o => encG3 0x49 o
  | .vshfl o => encG3 0x4A o
  | .vrotl o => encG3 0x4B o
  | .vscan o => encG3 0x4C o
  | .vred o => encG3 0x4D o
  | .vballot o => encG3 0x4E o
  | .s2v o => encG3 0x4F o
  | .pmov o => encG3 0x50 o
  | .plog o => encG3 0x51 o
  | .pcnt o => encG3 0x52 o
  | .pfirst o => encG3 0x53 o
  | .xset o => encGI 0x54 o
  | .vldx o => encG3 0x55 o
  | .vstx o => encG3 0x56 o
  | .jget o => encG3 0x57 o
  | .vfadd o => encG3 0x60 o
  | .vfsub o => encG3 0x61 o
  | .vfmul o => encG3 0x62 o
  | .vfma o _ => encG4 0x63 o
  | .vfms o _ => encG4 0x64 o
  | .vfnma o _ => encG4 0x65 o
  | .vfnms o _ => encG4 0x66 o
  | .vfmin o => encG3 0x67 o
  | .vfmax o => encG3 0x68 o
  | .vfcmp o => encG3 0x69 o
  | .vfclass o => encG3 0x6A o
  | .vfdiv o => encG3 0x6B o
  | .vfsqrt o => encG3 0x6C o
  | .vfrcp o => encG3 0x6D o
  | .vfrsq o => encG3 0x6E o
  | .vfexp2 o => encG3 0x6F o
  | .vflog2 o => encG3 0x70 o
  | .vfsin o => encG3 0x71 o
  | .vfcos o => encG3 0x72 o
  | .vftanh o => encG3 0x73 o
  | .vfsig o => encG3 0x74 o
  | .vfrnd o => encG3 0x75 o
  | .vfscl o => encG3 0x76 o
  | .vfcvt o => encG3 0x77 o
  | .vfcvti o => encG3 0x78 o
  | .vqsc o => encG3 0x79 o
  | .vqnt o => encG3 0x7A o
  | .vdqnt o => encG3 0x7B o
  | .mld o _ => encM 0x90 o
  | .mldsc o => encM 0x91 o
  | .mswp o => encG3 0x92 o
  | .mmac o _ => encG3 0x93 o
  | .mmacz o _ => encG3 0x94 o
  | .mbudUsed o => encG3 0x95 o
  | .mbudCred o => encG3 0x95 o
  | .mwait o => encG3 0x96 o
  | .ld o _ => encM 0xA0 o
  | .st o _ => encM 0xA1 o
  | .ldg o => encMG 0xA2 o
  | .stg o => encMG 0xA3 o
  | .ldq o _ => encM 0xA4 o
  | .stq o _ => encM 0xA5 o
  | .cpIn o _ => encM 0xA6 o
  | .cpOut o _ => encM 0xA7 o
  | .cpTile o _ => encM 0xA8 o
  | .bcbExp o => encG3 0xA9 o
  | .bcbWt o => encG3 0xAA o
  | .pref o _ => encM 0xAB o
  | .resBind o => encG3 0xAC o
  | .resSetPrio o => encG3 0xAD o
  | .resSetLifeS o => encG3 0xAD o
  | .resSetLifeM o => encG3 0xAD o
  | .resDrop o => encG3 0xAE o
  | .xdma o _ => encM 0xAF o
  | .wadr o => encM 0xB0 o
  | .am o _ => encMG 0xC0 o
  | .red o _ => encMG 0xC1 o
  | .amcas o _ => encMG 0xC2 o
  | .amgts o _ => encMG 0xC3 o
  | .amvcs o _ => encMG 0xC4 o
  | .ampcs o _ => encMG 0xC5 o
  | .amf o _ => encMG 0xC6 o
  | .redf o _ => encMG 0xC7 o
  | .redo o _ => encMG 0xC8 o
  | .lsa o => encM 0xC9 o
  | .lsr o => encM 0xCA o
  | .barIniArv o => encG3 0xD0 o
  | .barIniByte o => encG3 0xD0 o
  | .barIniFree o => encG3 0xD0 o
  | .barArv o => encG3 0xD1 o
  | .barWt o => encG3 0xD2 o
  | .barSync o => encG3 0xD3 o
  | .barCl o => encG3 0xD4 o
  | .barDie o => encG3 0xD5 o
  | .fenceRel o => encG3 0xD6 o
  | .fenceAcq o => encG3 0xD6 o
  | .fenceFull o => encG3 0xD6 o
  | .fenceRacq o => encG3 0xD6 o
  | .futNew o => encM 0xD7 o
  | .futNewBind o => encM 0xD7 o
  | .futGet o => encM 0xD8 o
  | .futSet o => encM 0xD9 o
  | .futSetAbn o => encM 0xD9 o
  | .futReg o => encM 0xDA o
  | .tskPark o => encM 0xDB o
  | .tskSpawn o => encM 0xDC o
  | .tget o => encG3 0xE0 o
  | .cycCnt o => encG3 0xE1 o
  | .cycMhz o => encG3 0xE1 o
  | .monMark o => encGI 0xE2 o
  | .bist o => encGI 0xE3 o
  | .trap o => encGI 0xE8 o
  | .rett o => encG3 0xE9 o
  | .rettSkip o => encG3 0xE9 o
  | .rettTo o => encG3 0xE9 o
  | .sysRd o => encGI 0xEA o
  | .sysWr o => encGI 0xEB o
  | .ctxSave o => encM 0xEC o
  | .ctxLoad o => encM 0xED o
  | .halt o => encG3 0xEE o
  | _ => 0

/-- The opcode of an instruction (07 R145); 0, which no op has, for a step of another agent. -/
def opcode : Instr → BitVec 8
  | .nop _ => 0x01
  | .br _ => 0x02
  | .bc _ => 0x03
  | .bv _ => 0x04
  | .call _ => 0x05
  | .ret _ => 0x06
  | .jmpi _ => 0x07
  | .loop _ => 0x08
  | .exit _ => 0x09
  | .launch _ => 0x0A
  | .yield _ => 0x0B
  | .sadd _ => 0x10
  | .ssub _ => 0x11
  | .smul _ => 0x12
  | .smulh _ => 0x13
  | .sdiv _ => 0x14
  | .srem _ => 0x15
  | .sand _ => 0x16
  | .sor _ => 0x17
  | .sxor _ => 0x18
  | .sshl _ => 0x19
  | .sshr _ => 0x1A
  | .smin _ => 0x1B
  | .smax _ => 0x1C
  | .scmp _ => 0x1D
  | .ssel _ => 0x1E
  | .sbit _ => 0x1F
  | .saddi _ => 0x20
  | .slui _ => 0x21
  | .sli _ _ => 0x22
  | .sld _ _ => 0x23
  | .sst _ _ => 0x24
  | .sget _ => 0x25
  | .vadd _ => 0x30
  | .vsub _ => 0x31
  | .vmul _ => 0x32
  | .vmulh _ => 0x33
  | .vmad _ _ => 0x34
  | .vmin _ => 0x35
  | .vmax _ => 0x36
  | .vabs _ => 0x37
  | .vand _ => 0x38
  | .vor _ => 0x39
  | .vxor _ => 0x3A
  | .vnot _ => 0x3B
  | .vshl _ => 0x3C
  | .vshr _ => 0x3D
  | .vrot _ => 0x3E
  | .vbit _ => 0x3F
  | .vbfe _ => 0x40
  | .vbfi _ => 0x41
  | .vaddi _ _ => 0x42
  | .vmovi _ _ => 0x43
  | .vmov _ => 0x44
  | .vsel _ => 0x45
  | .vcmp _ => 0x46
  | .vcvti _ => 0x47
  | .vlane _ => 0x48
  | .vbcast _ => 0x49
  | .vshfl _ => 0x4A
  | .vrotl _ => 0x4B
  | .vscan _ => 0x4C
  | .vred _ => 0x4D
  | .vballot _ => 0x4E
  | .s2v _ => 0x4F
  | .pmov _ => 0x50
  | .plog _ => 0x51
  | .pcnt _ => 0x52
  | .pfirst _ => 0x53
  | .xset _ => 0x54
  | .vldx _ => 0x55
  | .vstx _ => 0x56
  | .jget _ => 0x57
  | .vfadd _ => 0x60
  | .vfsub _ => 0x61
  | .vfmul _ => 0x62
  | .vfma _ _ => 0x63
  | .vfms _ _ => 0x64
  | .vfnma _ _ => 0x65
  | .vfnms _ _ => 0x66
  | .vfmin _ => 0x67
  | .vfmax _ => 0x68
  | .vfcmp _ => 0x69
  | .vfclass _ => 0x6A
  | .vfdiv _ => 0x6B
  | .vfsqrt _ => 0x6C
  | .vfrcp _ => 0x6D
  | .vfrsq _ => 0x6E
  | .vfexp2 _ => 0x6F
  | .vflog2 _ => 0x70
  | .vfsin _ => 0x71
  | .vfcos _ => 0x72
  | .vftanh _ => 0x73
  | .vfsig _ => 0x74
  | .vfrnd _ => 0x75
  | .vfscl _ => 0x76
  | .vfcvt _ => 0x77
  | .vfcvti _ => 0x78
  | .vqsc _ => 0x79
  | .vqnt _ => 0x7A
  | .vdqnt _ => 0x7B
  | .mld _ _ => 0x90
  | .mldsc _ => 0x91
  | .mswp _ => 0x92
  | .mmac _ _ => 0x93
  | .mmacz _ _ => 0x94
  | .mbudUsed _ => 0x95
  | .mbudCred _ => 0x95
  | .mwait _ => 0x96
  | .ld _ _ => 0xA0
  | .st _ _ => 0xA1
  | .ldg _ => 0xA2
  | .stg _ => 0xA3
  | .ldq _ _ => 0xA4
  | .stq _ _ => 0xA5
  | .cpIn _ _ => 0xA6
  | .cpOut _ _ => 0xA7
  | .cpTile _ _ => 0xA8
  | .bcbExp _ => 0xA9
  | .bcbWt _ => 0xAA
  | .pref _ _ => 0xAB
  | .resBind _ => 0xAC
  | .resSetPrio _ => 0xAD
  | .resSetLifeS _ => 0xAD
  | .resSetLifeM _ => 0xAD
  | .resDrop _ => 0xAE
  | .xdma _ _ => 0xAF
  | .wadr _ => 0xB0
  | .am _ _ => 0xC0
  | .red _ _ => 0xC1
  | .amcas _ _ => 0xC2
  | .amgts _ _ => 0xC3
  | .amvcs _ _ => 0xC4
  | .ampcs _ _ => 0xC5
  | .amf _ _ => 0xC6
  | .redf _ _ => 0xC7
  | .redo _ _ => 0xC8
  | .lsa _ => 0xC9
  | .lsr _ => 0xCA
  | .barIniArv _ => 0xD0
  | .barIniByte _ => 0xD0
  | .barIniFree _ => 0xD0
  | .barArv _ => 0xD1
  | .barWt _ => 0xD2
  | .barSync _ => 0xD3
  | .barCl _ => 0xD4
  | .barDie _ => 0xD5
  | .fenceRel _ => 0xD6
  | .fenceAcq _ => 0xD6
  | .fenceFull _ => 0xD6
  | .fenceRacq _ => 0xD6
  | .futNew _ => 0xD7
  | .futNewBind _ => 0xD7
  | .futGet _ => 0xD8
  | .futSet _ => 0xD9
  | .futSetAbn _ => 0xD9
  | .futReg _ => 0xDA
  | .tskPark _ => 0xDB
  | .tskSpawn _ => 0xDC
  | .tget _ => 0xE0
  | .cycCnt _ => 0xE1
  | .cycMhz _ => 0xE1
  | .monMark _ => 0xE2
  | .bist _ => 0xE3
  | .trap _ => 0xE8
  | .rett _ => 0xE9
  | .rettSkip _ => 0xE9
  | .rettTo _ => 0xE9
  | .sysRd _ => 0xEA
  | .sysWr _ => 0xEB
  | .ctxSave _ => 0xEC
  | .ctxLoad _ => 0xED
  | .halt _ => 0xEE
  | _ => 0

/-- The row is an op of an issue word. -/
def isOp (i : Instr) : Bool := opcode i != 0

/-- The guard of an op of guard use L or B (07 R137, R145). -/
def guardOf : Instr → Option Guard
  | .bv o => some o.g
  | .vadd o => some o.g
  | .vsub o => some o.g
  | .vmul o => some o.g
  | .vmulh o => some o.g
  | .vmad o _ => some o.g
  | .vmin o => some o.g
  | .vmax o => some o.g
  | .vabs o => some o.g
  | .vand o => some o.g
  | .vor o => some o.g
  | .vxor o => some o.g
  | .vnot o => some o.g
  | .vshl o => some o.g
  | .vshr o => some o.g
  | .vrot o => some o.g
  | .vbit o => some o.g
  | .vbfe o => some o.g
  | .vbfi o => some o.g
  | .vaddi o _ => some o.g
  | .vmovi o _ => some o.g
  | .vmov o => some o.g
  | .vsel o => some o.g
  | .vcmp o => some o.g
  | .vcvti o => some o.g
  | .vlane o => some o.g
  | .vbcast o => some o.g
  | .vshfl o => some o.g
  | .vrotl o => some o.g
  | .vscan o => some o.g
  | .vred o => some o.g
  | .vballot o => some o.g
  | .s2v o => some o.g
  | .pmov o => some o.g
  | .plog o => some o.g
  | .pcnt o => some o.g
  | .pfirst o => some o.g
  | .vldx o => some o.g
  | .vstx o => some o.g
  | .vfadd o => some o.g
  | .vfsub o => some o.g
  | .vfmul o => some o.g
  | .vfma o _ => some o.g
  | .vfms o _ => some o.g
  | .vfnma o _ => some o.g
  | .vfnms o _ => some o.g
  | .vfmin o => some o.g
  | .vfmax o => some o.g
  | .vfcmp o => some o.g
  | .vfclass o => some o.g
  | .vfdiv o => some o.g
  | .vfsqrt o => some o.g
  | .vfrcp o => some o.g
  | .vfrsq o => some o.g
  | .vfexp2 o => some o.g
  | .vflog2 o => some o.g
  | .vfsin o => some o.g
  | .vfcos o => some o.g
  | .vftanh o => some o.g
  | .vfsig o => some o.g
  | .vfrnd o => some o.g
  | .vfscl o => some o.g
  | .vfcvt o => some o.g
  | .vfcvti o => some o.g
  | .vqsc o => some o.g
  | .vqnt o => some o.g
  | .vdqnt o => some o.g
  | .mmac o _ => some o.g
  | .mmacz o _ => some o.g
  | .ld o _ => some o.g
  | .st o _ => some o.g
  | .ldg o => some o.g
  | .stg o => some o.g
  | .ldq o _ => some o.g
  | .stq o _ => some o.g
  | .pref o _ => some o.g
  | .am o _ => some o.g
  | .red o _ => some o.g
  | .amcas o _ => some o.g
  | .amgts o _ => some o.g
  | .amvcs o _ => some o.g
  | .ampcs o _ => some o.g
  | .amf o _ => some o.g
  | .redf o _ => some o.g
  | .redo o _ => some o.g
  | _ => none

/-- The op is a control op (07 R147). -/
def isControl (i : Instr) : Bool := opClass (opcode i).toNat == 0
/-- The op stands only in form 00: system class or extension class X (07 R147). -/
def isSolo (i : Instr) : Bool := opClass (opcode i).toNat == 9 || isClassX i

/-- Opcode 0xNN takes an extension in form 00: class E or X (07 R144, R145). -/
def opcTakesExt (opc : BitVec 8) : Bool :=
  [0x22, 0x23, 0x24, 0x34, 0x42, 0x43, 0x63, 0x64, 0x65, 0x66, 0x90, 0x93, 0x94, 0xA0, 0xA1, 0xA4, 0xA5, 0xA6, 0xA7, 0xA8, 0xAB, 0xAF, 0xC0, 0xC1, 0xC2, 0xC3, 0xC4, 0xC5, 0xC6, 0xC7, 0xC8].contains opc.toNat

/-! ### Issue words (07 R135, R136, R151) -/

/-- What the checks of a word depend on besides the word: the header's UNI and LEAF (06 R126), the launch's register
count (R142) and the index registers (10 R223). -/
structure WordEnv where
  uni : Bool
  leaf : Bool
  nreg : Nat
  xb : Nat → Nat × Nat

/-- A word that passed its checks: SW, whether the slots issue in order (form 10), and the ops. -/
structure Decoded where
  sw : Bool
  ordered : Bool
  a : Instr
  b : Option Instr
  deriving DecidableEq, Repr

/-- FORM, bits 95:94. -/
def formOf (w : IWord) : BitVec 2 := w.extractLsb' 94 2
/-- SW, bit 93. -/
def swOf (w : IWord) : Bool := w.getLsbD 93
/-- Slot A, bits 91:46. -/
def slotA (w : IWord) : Op46 := w.extractLsb' 46 46
/-- Slot B, bits 45:0. -/
def slotB (w : IWord) : Op46 := w.extractLsb' 0 46
/-- An issue word from its fields (R135). -/
def wordOf (form : BitVec 2) (sw : Bool) (a b : Op46) : IWord := form ++ BitVec.ofBool sw ++ 0#1 ++ a ++ b

/-- The registers an op reads and writes, its guard predicate included (R148 rule 4). -/
def useOf (env : WordEnv) (i : Instr) : RegUse :=
  match guardOf i with
  | some g => { opRegs env.xb i with pr := g.pg.toNat :: (opRegs env.xb i).pr }
  | none => opRegs env.xb i

/-- Check 6 of one op (R151, R142). -/
def regOk (env : WordEnv) (i : Instr) : Bool := (opRegs env.xb i).need ≤ env.nreg

/-- Checks 2 to 6 of a word of form 00. -/
def decodeSingle (env : WordEnv) (w : IWord) : Except Cause Decoded :=
  let ext : Ext := if opcTakesExt (opcOf (slotA w)) then some (slotB w) else none
  match decodeOp (slotA w) ext with
  | none => .error .illegal
  | some i =>
    if !(opLegal i && headerLegal env.uni env.leaf i) then .error .illegal
    else if !(extLegal i && (ext.isSome || slotB w == 0)) then .error .illegal
    else if !regOk env i then .error .regRange
    else .ok ⟨swOf w, false, i, none⟩

/-- Checks 2 to 6 of a word of form 01 (`joint`) or 10. -/
def decodeDouble (env : WordEnv) (w : IWord) (joint : Bool) : Except Cause Decoded :=
  match decodeOp (slotA w) none, decodeOp (slotB w) none with
  | some i, some j =>
    if !(opLegal i && headerLegal env.uni env.leaf i && opLegal j && headerLegal env.uni env.leaf j) then .error .illegal
    else if isSolo i || isSolo j || isControl i then .error .pair
    else if joint && (opClass (opcode i).toNat == opClass (opcode j).toNat || !pairRules (useOf env i) (useOf env j)) then
      .error .pair
    else if !(regOk env i && regOk env j) then .error .regRange
    else .ok ⟨swOf w, !joint, i, some j⟩
  | _, _ => .error .illegal

/-- The checks of an issue word in the order of R151; the first that fails decides the cause. -/
def decodeWord (env : WordEnv) (w : IWord) : Except Cause Decoded :=
  if formOf w == 3 || w.getLsbD 92 then .error .illegal
  else if formOf w == 0 then decodeSingle env w
  else decodeDouble env w (formOf w == 1)

/-- The word of one well-formed instruction in form 00, SW clear: an op of class E or X carries its extension
(R144; class E with none is encoded with slot B zero, which reads back as extension 0, or in forms 01 and 10). -/
def encode (i : Instr) : IWord :=
  match i with
  | .illegalWord w => w
  | _ => wordOf 0 false (encodeOp i) ((extOf i).getD 0)

/-! ### Bytes and headers (00 R8, 06 R122, R123) -/

/-- A little-endian number of a list of bytes (00 R3). -/
def leNat : List Byte → Nat
  | [] => 0
  | b :: t => b.toNat + 256 * leNat t

/-- The `n` bytes of a number, least significant first (00 R3). -/
def leBytes : Nat → Nat → List Byte
  | 0, _ => []
  | n + 1, v => BitVec.ofNat 8 v :: leBytes n (v / 256)

/-- The issue word in the first 12 bytes of a list, and the rest; `none` where fewer stand (06 R122). -/
def wordOfBytes (l : List Byte) : Option (IWord × List Byte) :=
  if l.length < 12 then none else some (BitVec.ofNat 96 (leNat (l.take 12)), l.drop 12)

/-- Decoding on any bytes: the checked word and the rest, or the cause that refuses it; too few bytes are no word. -/
def decodeBytes (env : WordEnv) (l : List Byte) : Option (Except Cause Decoded × List Byte) :=
  (wordOfBytes l).map fun p => (decodeWord env p.1, p.2)

/-- A block header (06 R123). -/
structure Header where
  tag : BitVec 8
  len : BitVec 12
  livev : BitVec 8
  lives : BitVec 6
  recon : BitVec 16
  pfk : BitVec 2
  pflen : BitVec 6
  uni : Bool
  leaf : Bool
  zero : BitVec 4
  deriving DecidableEq, Repr

/-- The fields of a header word. -/
def decodeHeader (w : DWord) : Header :=
  ⟨w.extractLsb' 56 8, w.extractLsb' 44 12, w.extractLsb' 36 8, w.extractLsb' 30 6, w.extractLsb' 14 16,
    w.extractLsb' 12 2, w.extractLsb' 6 6, w.getLsbD 5, w.getLsbD 4, w.extractLsb' 0 4⟩

/-- The header word of its fields. -/
def encodeHeader (h : Header) : DWord :=
  h.tag ++ h.len ++ h.livev ++ h.lives ++ h.recon ++ h.pfk ++ h.pflen ++ BitVec.ofBool h.uni ++ BitVec.ofBool h.leaf ++ h.zero

/-- An address of the global space: below 2^48 (13 R267). -/
def globalAddr (a : DWord) : Bool := a.toNat < 2 ^ 48

/-- The reconvergence header RECON names, where it names one (R123). -/
def reconOf (hd : DWord) (h : Header) : Option DWord :=
  if h.recon == 0 then none else some (hd + (h.recon.signExtend 64 <<< 3))

/-- A valid header (R124): RECON is compared as an exact address, so one that runs below 0 is invalid. -/
def headerValid (hd : DWord) (h : Header) : Bool :=
  h.tag == 0xA5 && h.len != 0 && h.zero == 0 &&
  (h.recon == 0 || (0 ≤ (hd.toNat : Int) + 8 * h.recon.toInt && (hd.toNat : Int) + 8 * h.recon.toInt < 2 ^ 48))

/-- Bytes from the header to the end of the block (R122). -/
def blockBytes (h : Header) : Nat := 8 + 12 * h.len.toNat

/-- The fall-through header address (R122). -/
def fallThrough (hd : DWord) (h : Header) : DWord := hd + BitVec.ofNat 64 ((blockBytes h + 7) / 8 * 8)

/-- The environment of a word outside any block: nothing the header or launch restricts. -/
def freeEnv : WordEnv := ⟨false, false, 256, fun _ => (0, 0)⟩

/-- The host's question: the instruction the decoder reads from an instruction's bits, numbered from the least
significant bit of the issue word; bits above `nbits` are 0. Slot A's instruction answers for the word. -/
def decodeTableWord (nbits w : Nat) : Option Instr :=
  match decodeBytes freeEnv (leBytes 12 (w % 2 ^ nbits)) with
  | some (.ok d, _) => some d.a
  | _ => none

end Sys2Proof
end

