-- ==== Sys2Proof/Machine/Tbl.lean ====
section
/-! DEFINITION. Tables: sparse data by key as a list of pairs in one canonical form, keys rising and no entry equal to
what an unlisted key reads as. Every register file, cache and directory of State is one. -/
namespace Sys2Proof.Machine

/-- Sparse data by key. -/
abbrev Tbl (α : Type) := List (Nat × α)

/-- What a key reads as; `d` where it is not listed. -/
def tget {α : Type} (d : α) : Tbl α → Nat → α
  | [], _ => d
  | (k, v) :: t, n => if k = n then v else tget d t n

/-- A table without a key. -/
def terase {α : Type} : Tbl α → Nat → Tbl α
  | [], _ => []
  | (k, v) :: t, n => if k = n then terase t n else (k, v) :: terase t n

/-- A key put in its place. -/
def tins {α : Type} : Tbl α → Nat → α → Tbl α
  | [], n, v => [(n, v)]
  | (k, w) :: t, n, v => if n < k then (n, v) :: (k, w) :: t else (k, w) :: tins t n v

/-- A table with a key set; writing what an unlisted key reads as removes the entry. -/
def tput {α : Type} [DecidableEq α] (d : α) (t : Tbl α) (n : Nat) (v : α) : Tbl α :=
  if v = d then terase t n else tins (terase t n) n v

/-- The canonical form. -/
def twf {α : Type} [DecidableEq α] (d : α) : Tbl α → Bool
  | [] => true
  | (k, v) :: t => v != d && (t.head?.elim true fun p => decide (k < p.1)) && twf d t

/-- The keys a table lists. -/
def tkeys {α : Type} (t : Tbl α) : List Nat := t.map (·.1)

end Sys2Proof.Machine
end

