-- ==== Sys2Proof/Machine/State.lean ====
section
/-! DEFINITION. The state of the SC12 as plain data: cohorts, blocks, grids, cores, dies, home slices, queues, memory and
the registers of the host interface. INVENTORY.md lists each piece with the rule that names it. -/
namespace Sys2Proof.Machine

/-- Why the machine stops. -/
inductive Fault where
  /-- The package has no power or has met a package-fatal error: nothing issues until package reset (21 R421, R432).
  Raised by `step`; safe. -/
  | noPower
  deriving DecidableEq, Repr

/-- Why a step has no meaning. -/
inductive Refusal where
  /-- The row has no meaning in this model. Raised by an arm of `exec`; safe. -/
  | notModelled (mnemonic : String)
  deriving DecidableEq, Repr

/-! ### Cohorts -/

/-- A fetched block: its header and issue words as the architectural fetch read them (06 R128). -/
structure Block where
  hd : DWord
  words : List IWord
  deriving DecidableEq, Repr

/-- What a parked access waits for (13 R275): a page request, the lowest address that faulted, and that the access writes. -/
structure Parked where
  req : Nat
  addr : DWord
  write : Bool
  deriving DecidableEq, Repr

/-- Where a fragment stands: at a header it has come to, at a header it fetches whatever its parent's join header is (08 R163: after fusion or
a park), inside a block, parked at its parent's join header, or parked on a page request (13 R275). -/
inductive FragSt where
  | header | fetch | run | joined | parked (p : Parked)
  deriving DecidableEq, Repr

/-- Where control goes: a place in the program, with the block where it is fetched already (09 R194, R195). -/
structure Dest where
  hdr : DWord
  blk : Block
  widx : Nat
  st : FragSt
  deriving DecidableEq, Repr

/-- What a completed control op does once its word is complete (09 R194): a transfer, a split of the fragment into the
lanes of `mask` and the others (`recon` the join header, 08 R162), or the end of the fragment (09 R200). -/
inductive Xfer where
  | go (d : Dest)
  | split (mask : DWord) (recon : Option DWord) (taken other : Dest)
  | exit
  deriving DecidableEq, Repr

/-- A barrier op that waits holds its fragment alone (19 R382-R385): its barrier, none for `bar.cl` and `bar.die`, the phase it has
joined, and that it is a `bar.arv`, or another wait the watchdog does not count: an `exit` for the results of its lanes (09 R200). -/
structure BarWait where
  bar : Option Nat
  ph : Option Nat
  arv : Bool
  deriving DecidableEq, Repr

/-- An entry of the split table (08 R162): a join entry, or a fragment with its place in the program. `hdr` is the header
address of its block, `widx` the next or present word, `inWord` that the present word has begun, `runA` and `runB` its
slots still to run, `triedA` and `triedB` that a slot has trapped or parked in this pass, `park` the page request one
waits on, `wait` the barrier its op waits on, `xfer` the transfer a completed control op still owes. `stamp` numbers the present word of the
cohort's, `turn` says when the fragment last issued (08 R165). -/
structure Ent where
  id : Nat
  parent : Option Nat
  join : Option DWord
  mask : DWord
  hdr : DWord
  blk : Block
  widx : Nat
  st : FragSt
  inWord : Bool
  runA : Bool
  runB : Bool
  triedA : Bool
  triedB : Bool
  park : Option Parked
  wait : Option BarWait
  xfer : Option Xfer
  stamp : Nat
  turn : Nat
  deriving DecidableEq, Repr

/-- An index register (10 R221). -/
structure XReg where
  base : Nat
  bound : Nat
  deriving DecidableEq, Repr

/-- A J register (10 R216). -/
structure JReg where
  value : DWord
  seq : Word
  pois : Bool
  deriving DecidableEq, Repr

/-- A register a variable-latency result writes (08 R167). -/
inductive Dst where
  | s (n : Nat) | v (n lane : Nat)
  deriving DecidableEq, Repr

/-- One write of a result. -/
structure Wr where
  dst : Dst
  val : DWord
  deriving DecidableEq, Repr

/-- One unit a load reads: its place, size in bytes, extension and destination (14 R285, 09 R190). -/
structure LaneRd where
  key : Nat
  addr : DWord
  size : Nat
  sext : Bool
  dst : List Dst
  deriving DecidableEq, Repr

/-- What a variable-latency result waits for (08 R167); `need` lists the lines a load waits for, each with the number of the miss it shares; `coming` is
an answer of another die's home, on its way since a package time (15 R311). -/
inductive PendKind where
  | known
  | coming (t : DWord)
  | load (lanes : List LaneRd) (buf : Tbl Byte) (need : List (Nat × Nat))
  | atom (left : Nat) (pois : List DWord)
  | futGet (addr : DWord) (key : Nat) (sd : Nat) (retryAt : Option Nat) (delay : Nat)
  | jget (j vb : Nat) (want : Word) (sd : Nat)
  | matrix
  deriving DecidableEq, Repr

/-- Where a `fut.get` stands, for it may yet trap incomplete (19 R389, 20 R406): its word and slot, its fragment's issue stamp there, and
the transfer that word made. -/
structure Org where
  dest : Dest
  slotB : Bool
  stamp : Nat
  xfer : Option Xfer
  deriving DecidableEq, Repr

/-- A variable-latency result outstanding (08 R167-R171): `writes` are those known and not yet made; `sync` the scope of the
acquire it carries; `frag` and `lanes` its fragment and the lanes it had (08 R171); `flags` those it raises when it arrives (03 R70); `org` where a `fut.get` stands; `toks` the tokens the values read so
far carried (15 R309). -/
structure Pend where
  vid : Nat
  kind : PendKind
  writes : List Wr
  sync : Option (BitVec 3)
  frag : Nat
  lanes : DWord
  flags : BitVec 6
  org : Option Org
  toks : List Token
  deriving DecidableEq, Repr

/-- A reduction on its way to a J register (10 R217), of a fragment with these lanes (08 R171); `bad` that it read a register word a soft error
has lost (R218). -/
structure RedPend where
  vid : Nat
  j : Nat
  value : DWord
  bad : Bool
  lanes : DWord
  deriving DecidableEq, Repr

/-- A trap raised and not delivered (20 R406): the trapping fragment, whether `trap` raised it, whether it was raised while INH = 1
(R407), and the completed `jget` or `fut.get` that its `rett` executes again (10 R219, 19 R391); `word` the word that must complete first (07
R150), `late` that it waits for its fragment to issue next, another trap having come first (08 R166). -/
structure TrapInfo where
  frag : Nat
  cause : Cause
  info : DWord
  sw : Bool
  nest : Bool
  redo : Option Pend
  word : Option Nat
  late : Bool
  deriving DecidableEq, Repr

/-- What an op that waits for itself waits for (08 R167, 19 R396); `entry` is a `bar.ini` without a free entry, `fwd` a remote acquire whose line's
writers have been forwarded its read, and whether all have answered (17 R353), `travel` an op whose request has been on its way to a home on
another die since a package time, `answer` one whose read value has been on its way back since one (15 R311). -/
inductive WaitWhy where
  | entry (b : Nat) | bytes (b : Nat) | word (addr : DWord) (ext : Bool) | future (addr : DWord)
  | fwd (line : Nat) (answered : Bool) | travel (t : DWord) | answer (t : DWord) (v : Nat) (toks : List Token)
  | lease | release | room | results | other
  deriving DecidableEq, Repr

/-- Why a cohort does not issue. -/
inductive Wait where
  /-- A switch marker: these results must be written (08 R169). -/
  | switch (vids : List Nat)
  /-- The present op waits for itself and is issued again. -/
  | op (why : WaitWhy)
  /-- `yield`: ready again at this core cycle (09 R201). -/
  | yield (cyc : Nat)
  /-- An acquire waits for the load it rides on (13 R309, 16 R324), with the tokens the values read so far carried. -/
  | acquire (vid : Nat) (sc : BitVec 3) (toks : List Token)
  /-- An acquire waits for beacons to reach these marks (15 R309): source, home agent, mark. -/
  | tokens (marks : List (Nat × Nat × Nat))
  /-- A refused `fut.get` parks the cohort (19 R390). -/
  | nack (vid : Nat)
  /-- Stopped for the host (20 R408); `nested` refuses a resume, `halt` continues at the next word. -/
  | host (nested : Bool)
  /-- Control has not entered: the zero-fill and entry of its block are to come (05 R101). -/
  | entry
  deriving DecidableEq, Repr

/-- What is known of a lease slot of a cohort (18 R376, R377): `ended` is the status an `lsr` will report once over, `run` the fragment that took the
lease and how many words it has issued since, while they are a run of R334. -/
structure LeaseSlot where
  vline : DWord
  line : Nat
  ended : Option Nat
  run : Option (Nat × Nat)
  deriving DecidableEq, Repr

/-- The state of a matrix plane (12 R246). -/
inductive PlaneSt where
  | empty | loading | valid | failed
  deriving DecidableEq, Repr

/-- A matrix plane (12 R246): the index of the format slot that loaded it, its element codes k·N+n and scale codes b·N+n. -/
structure Plane where
  st : PlaneSt
  slot : Nat
  codes : List Nat
  scales : List Nat
  cause : Cause
  info : DWord
  deriving DecidableEq, Repr

/-- A self-test under way (22 R438, R439): its suite and unit, the free granules of the core it holds, when it began, and the value it will
write once it has ended. -/
structure Bist where
  suite : Nat
  unit : Nat
  held : List (Nat × Nat)
  since : DWord
  result : Option DWord
  deriving DecidableEq, Repr

/-- What a cohort slot holds. -/
inductive Kind where
  | vacant | grid | task | orphan
  deriving DecidableEq, Repr

/-- A cohort (08 R159): identity, registers, split table, and what it waits for. `vr` is keyed 64·n + lane; `bound` lists futures by
address and key (19 R391); `lastVid` and `lastToks` are its last read and the tokens it met, `relDue` the scope of a release fence that its
next write makes (17 R345). -/
structure Cohort where
  kind : Kind
  ctx : Nat
  priv : Bool
  gid : Nat
  blk : Nat
  part : Nat
  cidx : Nat
  w : Nat
  nreg : Nat
  sr : Tbl DWord
  vr : Tbl Word
  lost : Tbl Bool
  pr : Tbl DWord
  xr : Tbl XReg
  jr : Tbl JReg
  fstat : DWord
  fmode : DWord
  prio : BitVec 3
  lprio : BitVec 3
  tcause : DWord
  tinfo : DWord
  tpc : DWord
  sav0 : DWord
  sav1 : DWord
  ents : List Ent
  nextEnt : Nat
  handler : Option (Nat × Nat)
  live : DWord
  leases : List LeaseSlot
  bound : List (DWord × Nat)
  lastVid : Option Nat
  lastToks : List Token
  relDue : Option Nat
  act : Plane
  shd : Plane
  mused : DWord
  fslots : List (BitVec 128)
  noSlots : Bool
  ctab : DWord
  tabs : Option (List Word)
  dphase : Nat
  pend : List Pend
  reds : List RedPend
  again : Option Pend
  nextVid : Nat
  trap : Option TrapInfo
  dtraps : List TrapInfo
  waits : List Wait
  retry : Nat
  bist : Option Bist
  age : Nat
  stamp : Nat
  doomed : Bool
  deriving DecidableEq, Repr

/-- A plane with nothing loaded. -/
def Plane.zero : Plane := ⟨.empty, 0, [], [], .none0, 0⟩

/-- A vacant cohort slot: every register at its reset value (20 R403, 03 R69). -/
def Cohort.vacant : Cohort :=
  { kind := .vacant, ctx := 0, priv := false, gid := 0, blk := 0, part := 0, cidx := 0, w := 16, nreg := 8,
    sr := [], vr := [], lost := [], pr := [], xr := [], jr := [], fstat := 0, fmode := 0x20, prio := 0, lprio := 0,
    tcause := 0, tinfo := 0, tpc := 0, sav0 := 0, sav1 := 0, ents := [], nextEnt := 0, handler := none, live := 0,
    leases := [], bound := [], lastVid := none, lastToks := [], relDue := none, act := Plane.zero, shd := Plane.zero, mused := 0, fslots := [], noSlots := false,
    ctab := 0, tabs := none, dphase := 0, pend := [], reds := [], again := none, nextVid := 0, trap := none, dtraps := [],
    waits := [], retry := 0, bist := none, age := 0, stamp := 0, doomed := false }

/-! ### Blocks, grids, queues -/

/-- A named barrier (19 R379, 14 R294); one of arrival or byte mode. `arr` lists the threads that have arrived, `sc` is the
widest scope of the copies counted (14 R295). -/
structure Bar where
  sc : Nat
  byteMode : Bool
  all : Bool
  exp : Nat
  got : Nat
  arr : List Nat
  ph : Nat
  abt : Bool
  abta : DWord
  deriving DecidableEq, Repr

/-- A run of granules on a core (05 R100). -/
structure Run where
  core : Nat
  start : Nat
  len : Nat
  deriving DecidableEq, Repr

/-- A resident block, or a task's or orphan handler's own block of one cohort (05 R100, R108). `areas` has one run a part,
`regs` one a cohort; `idx` is a task's record's address; `done` the threads that have ended (19 R383). `option` is what pre-emption has chosen for it (20 R415: 0
nothing, 1 drain, 2 save, 3 flush), `askedBy` the grid that asked. -/
structure Blk where
  used : Bool
  gid : Nat
  ctx : Nat
  idx : Nat
  cluster : Nat
  j : Nat
  die : Nat
  cores : List Nat
  areas : List Run
  regs : List Run
  scratch : Option Run
  lapsed : List Nat
  scr : Nat
  cids : List Nat
  threads : Nat
  done : List Nat
  bars : Tbl (Option Bar)
  entered : Option DWord
  kind : Kind
  prio : BitVec 3
  order : Nat
  option : Nat
  askedBy : Nat
  deriving DecidableEq, Repr

/-- No block. -/
def Blk.none : Blk :=
  { used := false, gid := 0, ctx := 0, idx := 0, cluster := 0, j := 0, die := 0, cores := [], areas := [], regs := [],
    scratch := Option.none, lapsed := [], scr := 0, cids := [], threads := 0, done := [], bars := [], entered := Option.none,
    kind := .vacant, prio := 0, order := 0, option := 0, askedBy := 0 }

/-- A die slice (04 R91, 05 R110-R114): the clusters `next` to `stop` - 1 of a grid are still to place on the die, after those of
`redo`, which come back (a cluster and the blocks of it). `since` is when the next cluster began to wait, `stalled` that a
fragmentation stall is recorded for it, `reserved` that the slice reserves the die, `freed` the runs pre-emption has freed for
it, `tables` the compander tables once read. -/
structure Slice where
  die : Nat
  next : Nat
  stop : Nat
  redo : List (Nat × List Nat)
  since : Option DWord
  stalled : Bool
  reserved : Bool
  freed : List Run
  tables : Option (Option (List Word))
  span : Option Nat
  bar : Bar
  deriving DecidableEq, Repr

/-- An active grid (04 R89): its launch record's 32 words, its queue and index there, its place in dispatch order, its slices.
`gang` is that a die-gang grid is still to be placed, `left` the blocks not retired, `parked` the page request its completion
store waits on, `cbars` the cluster barriers, `ended` when only held `redo` requests were left (18 R372), `toks` the tokens its
waits took up. `sentAt` is when it was dispatched, `here` that its slices have reached their dies since, `retAt` when its last block retired (15
R311). -/
structure Grid where
  active : Bool
  rcd : List DWord
  q : Nat
  idx : DWord
  order : Nat
  slices : List Slice
  gang : Bool
  left : Nat
  parked : Option Nat
  cbars : Tbl (Option Bar)
  ended : Option DWord
  toks : List Token
  sentAt : DWord
  here : Bool
  retAt : DWord
  deriving DecidableEq, Repr

/-- No grid. -/
def Grid.none : Grid :=
  { active := false, rcd := [], q := 0, idx := 0, order := 0, slices := [], gang := false, left := 0, parked := Option.none,
    cbars := [], ended := Option.none, toks := [], sentAt := 0, here := false, retAt := 0 }

/-- A queue unit's view of one queue (04 R78, R83-R88): the control words as last read, the head record, the waits latched, when
it became ready in 1/16 I/O cycles and how often it has aged, the last dispatched record's grid, the page requests its waits have
made, the die each appended record was launched from, the tokens its acquires took up, the home die of the head's PARAM as it became ready (02
R41). -/
structure Queue where
  ctl : List DWord
  known : Bool
  head : Option (List DWord)
  latched : List Bool
  readyAt : Option Nat
  aged : Nat
  last : Option Nat
  waitReq : List (Option Nat)
  srcDie : Tbl Nat
  toks : List Token
  pdie : Option Nat
  deriving DecidableEq, Repr

/-- A queue nothing has named. -/
def Queue.zero : Queue := ⟨[], false, none, [], none, 0, none, [], [], [], none⟩

/-! ### Cores and dies -/

/-- A line held in a line cache region (16 R317): `writers` are the cohorts that stored its dirty bytes, `deps` those whose releases must order
them (17 R347), `rel` that a release narrower than the write-back stands among them (17 R353), `toks` the tokens of its bytes. -/
structure LcEnt where
  valid : LineMask
  dirty : LineMask
  bytes : LineData
  wbn : Option Nat
  fill : Nat
  dirtyAt : Nat
  selfInv : Bool
  writers : List Nat
  deps : List Nat
  rel : Bool
  toks : Toks
  deriving DecidableEq, Repr

/-- A line not held. -/
def LcEnt.none : LcEnt := ⟨0, 0, 0, Option.none, 0, 0, false, [], [], false, []⟩

/-- A write-back buffer (16 R319); `direct` that a store was sent home itself (R316). -/
structure WbBuf where
  line : Nat
  n : Nat
  mask : LineMask
  bytes : LineData
  writers : List Nat
  deps : List Nat
  direct : Bool
  deriving DecidableEq, Repr

/-- A line asked of its home (13 R282, 16 R322): its number, whether it is to be kept, whether it is self-invalidating, and that an acquire has
closed it to later accesses; `mask`, `bytes` and `toks` are the bytes of the line that have left the core since. -/
structure Miss where
  n : Nat
  line : Nat
  alloc : Bool
  selfInv : Bool
  closed : Bool
  mask : LineMask
  bytes : LineData
  toks : Toks
  deriving DecidableEq, Repr

/-- An atomic that waits at its core for an implicit lease (16 R339): its page's protocol, whether its line was present, and whether its LREQ
has waited at the home. -/
structure Near where
  r : AtomReq
  coh : BitVec 2
  hit : Bool
  waited : Bool
  deriving DecidableEq, Repr

/-- A lease at its core (16 R331-R333): `cid` none is nobody's, `imp` an implicit lease; `probes` queue, oldest first; `endAt` forces an
end at a cycle (R332). -/
structure Lease where
  line : Nat
  cid : Option Nat
  len : Nat
  start : Nat
  probes : List Instr
  endAt : Option Nat
  imp : Bool
  deriving DecidableEq, Repr

/-- An entry of a core's matrix queue (08 R179-R182, 12 R250-R258): the op, its active lanes, its charge U and cycles c, the
A codes and scale codes of its lanes read at issue, the plane it uses, the 8-byte units a load reads with their addresses,
the first cycle it was passed over, and that it has read or computed all it has to. Of a load's units `todo` are still to be read, `got` holds
those read, `bad` what could not be read, `toks` the tokens met (15 R309). -/
structure MatEnt where
  cid : Nat
  seq : Nat
  vid : Option Nat
  op : Instr
  lanes : List Nat
  u : Nat
  c : Nat
  rows : List (List Nat)
  scls : List (List Nat)
  plane : Plane
  units : List (Nat × DWord)
  todo : List Nat
  got : Tbl DWord
  bad : List (Cause × DWord)
  toks : List Token
  sp : BitVec 2
  since : Option Nat
  started : Bool
  done : Bool
  deriving DecidableEq, Repr

/-- The op the matrix unit runs, the core cycle at which it ends (08 R182), and the rows and flags it has computed. -/
structure MatRun where
  ent : MatEnt
  endAt : Nat
  writes : List Wr
  flags : BitVec 6
  deriving DecidableEq, Repr

/-- Per-core state (08 R179-R182, 16 R317-R339). `cred` counts 1/256 units, as of core cycle `credAt`. `lens` is the lease predictor as the log2 of L
over 32, keyed by line bits; an unlisted entry reads 32. `nears` are the atomics that wait for implicit leases, oldest first. `matPick` is the entry
the matrix unit has chosen, which waits for credit. -/
structure CoreSt where
  wbn : Nat
  wbufs : List WbBuf
  lens : Tbl Nat
  cont : Tbl Nat
  leases : List Lease
  cap : BitVec 16
  rate : BitVec 16
  cred : Int
  credAt : Nat
  leasecfg : BitVec 4
  matq : List MatEnt
  matRun : Option MatRun
  matPick : Option Nat
  seq : Nat
  lcb : Nat
  miss : List Miss
  nears : List Near
  deriving DecidableEq, Repr

/-- A core after reset: MBUDGET (08 R181), LEASECFG (16 R330), LCB (05 R104). -/
def CoreSt.reset : CoreSt :=
  { wbn := 0, wbufs := [], lens := [], cont := [], leases := [], cap := 0x40, rate := 0x100, cred := 0x40 * 256,
    credAt := 0, leasecfg := 4, matq := [], matRun := none, matPick := none, seq := 0, lcb := 4, miss := [], nears := [] }

/-- A runnable continuation record (19 R394): its address and space, the context that made it runnable, the scope of the release
that did, the tokens its resumption takes up, and since when it is runnable. -/
structure TaskRef where
  addr : DWord
  sp : BitVec 2
  ctx : Nat
  sc : Nat
  toks : List Token
  since : DWord
  deriving DecidableEq, Repr

/-- Per-die state. `rem` is the part of a core cycle elapsed, in 1/16,000 of it; `chains` the task chains of the die, one
per PRIO, oldest first (19 R394); `passDue` that its distributor is to make a pass (05 R111). -/
structure Die where
  cyc : DWord
  rem : Nat
  time : DWord
  fcur : BitVec 16
  fmax : BitVec 16
  fmin : BitVec 16
  fold : Option (BitVec 16 × BitVec 16 × DWord)
  lcb : BitVec 5
  lcbPend : Bool
  fstalls : Word
  relocs : Word
  dqent : Tbl DWord
  mcCtx : BitVec 16
  mcSize : BitVec 9
  mcPend : Bool
  rstCount : Word
  rstCause : BitVec 4
  rstBusy : Bool
  vmOfs : Int
  vmAct : Int
  vmAt : DWord
  acctBase : DWord
  handles : Tbl (DWord × DWord)
  chains : Tbl (List TaskRef)
  drained : Tbl (Nat × Nat)
  epoch : Nat
  orphans : List (Nat × Cause × DWord)
  stopped : Bool
  beaconAt : DWord
  passDue : Bool
  deriving DecidableEq, Repr

/-- A die after package reset: DCLK (15 R303), DCFG (05 R104) and the rest 0. -/
def Die.reset : Die :=
  { cyc := 0, rem := 0, time := 0, fcur := 1750, fmax := 1900, fmin := 800, fold := none, lcb := 4, lcbPend := false,
    fstalls := 0, relocs := 0, dqent := [], mcCtx := 0, mcSize := 0, mcPend := false, rstCount := 0, rstCause := 0,
    rstBusy := false, vmOfs := 0, vmAct := 0, vmAt := 0, acctBase := 0, handles := [], chains := [], drained := [], epoch := 0,
    orphans := [], stopped := false, beaconAt := 0, passDue := false }

/-! ### Home slices -/

/-- What completes once every acknowledgement of an invalidation has come (16 R322, R340); `wrote` that bytes a core gave up in answer to a
probe are performed. -/
inductive TxnDone where
  | wback (core n : Nat) | lend (core : Nat) | wrote (core : Nat) | claim (eng : Nat) | send (m : Instr) | victim | carve (die : Nat) | fwd (cid : Nat)
  deriving DecidableEq, Repr

/-- An invalidation or forward in progress at the home: the cores still to answer, and the write-backs still to merge. -/
structure Txn where
  n : Nat
  cores : List Nat
  wbs : List (Nat × Nat)
  done : TxnDone
  deriving DecidableEq, Repr

/-- A directory entry (16 R320): LSE is the core, the cohort (none for implicit) and the home cycle that bounds it. -/
structure DirEnt where
  hold : List Nat
  wrt : List Nat
  lse : Option (Nat × Option Nat × Nat)
  clm : List Nat
  recalled : Bool
  held : List Instr
  txns : List Txn
  deriving DecidableEq, Repr

/-- A line no core holds. -/
def DirEnt.none : DirEnt := ⟨[], [], Option.none, [], false, [], []⟩

/-- A request in a slice's deferral buffer (18 R371, 19 R390). -/
inductive Deferred where
  | get (cid vid : Nat) (key : Nat) (addr : DWord) (ctx : Nat)
  | redo (r : RedoReq)
  deriving DecidableEq, Repr

/-! ### Engines -/

/-- A copy-unit request (14 R288-R293). Unit u of 16 bytes moves from `src u` to `dst u` by row geometry; `todo` lists the
units not yet counted; `called` are the lines whose bytes it must write first (16 R337); `dead` that its cohort has ended. -/
structure CopyReq where
  id : Nat
  core : Nat
  cid : Nat
  blk : Nat
  ctx : Nat
  gid : Nat
  toNear : Bool
  nearSp : BitVec 2
  farSp : BitVec 2
  near : DWord
  far : DWord
  frag : Nat
  rowb : Nat
  stride : DWord
  todo : List Nat
  bar : Option Nat
  mark : Option (DWord × DWord)
  scope : BitVec 3
  ord : Bool
  started : Bool
  paused : Option Nat
  claims : List Nat
  called : List Nat
  markDue : Bool
  dead : Bool
  deriving DecidableEq, Repr

/-- An accepted `xdma` transfer (14 R297-R299), issued at TIME `issued`. `spans` are the byte ranges still to move, as offset and length; `called` as
for a copy request. -/
structure Xdma where
  id : Nat
  io : Nat
  core : Nat
  cid : Nat
  blk : Nat
  ctx : Nat
  gid : Nat
  src : DWord
  dst : DWord
  len : Nat
  caddr : DWord
  cval : DWord
  spans : List (Nat × Nat)
  paused : Option Nat
  abort : Bool
  claims : List Nat
  called : List Nat
  issued : DWord
  deriving DecidableEq, Repr

/-! ### Contexts, faults, services -/

/-- A page request outstanding (13 R275); `sent` that it is out with the host, not queued in its die's walker (R282). -/
structure PageReq where
  n : Nat
  ctx : Nat
  page : DWord
  write : Bool
  die : Nat
  sent : Bool
  deriving DecidableEq, Repr

/-- A translation held by a core (13 R276): the leaf entry and the range it maps. -/
structure TlbEnt where
  core : Nat
  ctx : Nat
  base : Nat
  size : Nat
  leaf : DWord
  deriving DecidableEq, Repr

/-- A block held in a core's code buffer (06 R129). -/
structure CodeEnt where
  core : Nat
  ctx : Nat
  hdr : DWord
  blk : Block
  deriving DecidableEq, Repr

/-- A granule of scratch or carve storage (05 R116-R118). -/
structure Gran where
  cls : BitVec 2
  tw : DWord
  deadline : DWord
  lapsed : Bool
  deriving DecidableEq, Repr

/-- A hold granule. -/
def Gran.hold : Gran := ⟨0, 0, 0, false⟩

/-- A saved block (20 R417, 05 R120): its block record, cohorts in order, scratch bytes by offset with the poisoned ones, granules by index, copy requests,
whose `cid` is the cohort's index here. `id` is the block's number; `image` the context image it belongs to, whose load it awaits (20 R412), none where pre-emption saved it. -/
structure Saved where
  id : Nat
  ctx : Nat
  image : Option Nat
  size : Nat
  blk : Blk
  cohorts : List Cohort
  bytes : List (Nat × Byte)
  pois : List Nat
  grans : List Gran
  copies : List CopyReq
  deriving DecidableEq, Repr

/-- A context image in memory (20 R412): its context, its bytes by the free value they were made from, and their number. -/
structure Image where
  id : Nat
  ctx : Nat
  seed : Nat
  size : Nat
  deriving DecidableEq, Repr

/-- Per-context system registers and services (20 R402-R409, 19 R395-R398, 18 R369). `fred` is FREDFLAGS by die,
`idleSince` when its cohorts were first seen all waiting, with the words each had issued, `entry` the context entry's words when its
registers started, `image` the image it is saved in, `saver` who is saving it: a cohort by block and index, or the host. -/
structure Ctx where
  started : Bool
  traphdr : DWord
  tskfmt : DWord
  wdogcfg : DWord
  wdogxw : DWord
  acctmode : DWord
  fred : Tbl DWord
  torn : Bool
  image : Option Nat
  records : List (List DWord)
  made : Nat
  idleSince : Option (DWord × List (Nat × Nat))
  entry : List DWord
  acct : Tbl Nat
  saver : Option Nat
  deriving DecidableEq, Repr

/-- The context registers at reset (20 R402: TRAPHDR, TSKFMT 0; 19 R398: WDOGCFG; R404). -/
def Ctx.reset : Ctx :=
  { started := false, traphdr := 0, tskfmt := 0, wdogcfg := 0x00320001, wdogxw := 0, acctmode := 0, fred := [],
    torn := false, image := none, records := [], made := 0, idleSince := none, entry := [], acct := [], saver := none }

/-- A monitor channel (22 R440): MONCTL, the fields of MONVAL, the HIST words, and the TIME of its last sample. -/
structure Mon where
  ctl : DWord
  max : BitVec 16
  min : BitVec 16
  last : BitVec 16
  bins : Tbl Word
  sampleAt : DWord
  deriving DecidableEq, Repr

/-- A monitor channel at reset (22 R440). -/
def Mon.reset : Mon := ⟨0x7FFF000000000010, 0x8000, 0x7FFF, 0, [], 0⟩

/-- A bridge's margining words (22 R437): BMCTL, BMRES, and the TIME its dwell began. -/
structure Bridge where
  ctl : DWord
  res : DWord
  dwellAt : DWord
  deriving DecidableEq, Repr

/-- A bridge at reset (22 R437). -/
def Bridge.reset : Bridge := ⟨0, 0, 0⟩

/-- The firmware (21 R431, R432): the image in the slot, where it verifies at all, the running image, the verified staged image,
FWSTAT and FWCMD, and the fused MINSVN. -/
structure Firmware where
  slot : Option (List Byte)
  running : Option (List Byte)
  staged : Option (List Byte)
  state : BitVec 4
  err : BitVec 8
  svn : BitVec 16
  minSvn : BitVec 16
  cmd : DWord
  deriving DecidableEq, Repr

/-- Firmware that runs: the slot and the running image are the empty image, of SVN 0, against a fused MINSVN of 0 (DESIGN CHOICE, log entry 3). -/
def Firmware.reset : Firmware := ⟨some [], some [], none, 1, 0, 0, 0, 0⟩

/-- A secure session (21 R434): its handshake is complete, how often its keys were updated in either direction, its transcript. -/
structure Sess where
  io : Nat
  id : Nat
  up : Bool
  reqKeys : Nat
  rspKeys : Nat
  trans : List Nat
  deriving DecidableEq, Repr

/-- An IDE key set (21 R434). -/
structure IdeKey where
  io : Nat
  stream : Nat
  key : BitVec 256
  active : Bool
  deriving DecidableEq, Repr

/-- A message the package sends outside. -/
inductive Out where
  /-- An MSI-X message: vector (04 R84). -/
  | msix (vec : Nat)
  /-- A page request (13 R275): PASID, page, write access wanted. -/
  | pageReq (n pasid : Nat) (page : DWord) (write : Bool)
  /-- An answer to a request on an I/O die's management channel (21 R433, R434): die, code, payload. -/
  | spdm (io code : Nat) (payload : List Nat)
  /-- Data returned to a host reader (21 R425): the I/O die, the bytes, and that they are not poisoned. -/
  | read (io : Nat) (bytes : List Byte) (ok : Bool)
  /-- The answer to a peer's request (21 R427): the old bytes of a read or atomic, its flags, and that it was performed. -/
  | peer (n : Nat) (bytes : List Byte) (flags : BitVec 6) (ok : Bool)
  /-- The value a register read returns. -/
  | reg (v : DWord)
  deriving DecidableEq, Repr

/-- Which agent moves next. -/
inductive Move where
  /-- A core issues (08 R176), or takes the next internal step of its chosen cohort. -/
  | core (c : Nat)
  /-- A waiting op is tried again: the cohort's, or the barrier op of a fragment. -/
  | wake (cid frag : Nat)
  /-- The k-th message in flight arrives. -/
  | deliver (k : Nat)
  /-- Another agent's step. -/
  | event (i : Instr)
  /-- `dt` units of TIME pass; `adj` are corrections of the dies' copies (15 R311, R312). -/
  | elapse (dt : Nat) (adj : List Int)
  /-- The host reads a register of BAR 0 through an I/O die (00 R4). -/
  | hostRead (io off : Nat)
  /-- The host, or a peer, writes bytes of its own memory (13 R461). -/
  | outside (key : Nat) (bytes : List Byte)
  deriving DecidableEq, Repr, Inhabited

/-- The issuing op's cohort, fragment and slot. -/
structure Cur where
  cid : Nat
  frag : Nat
  slotB : Bool
  deriving DecidableEq, Repr

/-- The state of the package. -/
structure State where
  powered : Bool
  fatal : Bool
  cur : Cur
  free : Nat
  sched : List Move
  net : List Instr
  sentAt : List DWord
  cohorts : Tbl Cohort
  blks : Tbl Blk
  grids : Tbl Grid
  queues : Tbl Queue
  cores : Tbl CoreSt
  dies : Tbl Die
  lines : Tbl LcEnt
  dir : Tbl DirEnt
  defer : Tbl (List Deferred)
  tokens : Tbl (List Token)
  chanSeq : Tbl Nat
  chanOpen : Tbl (List Nat)
  beacons : Tbl Nat
  nexts : List (Nat × Nat)
  mem : List Host.Cell
  pois : Tbl Bool
  sram : Tbl (List (Nat × Bool))
  msc : Tbl (List (Nat × Bool))
  grans : Tbl Gran
  tlb : List TlbEnt
  code : List CodeEnt
  preqs : List PageReq
  copies : List CopyReq
  xdmas : List Xdma
  saved : List Saved
  images : List Image
  ctxs : Tbl Ctx
  next : Nat
  ptime : DWord
  slew : Int
  slewRem : Nat
  ioCyc : Nat
  qtbase : DWord
  qdoorbell : Tbl DWord
  qappend : Tbl DWord
  pmap : BitVec 7
  tinv : DWord
  ctxtbase : DWord
  ctxcmd : DWord
  mcring : DWord
  mcidx : DWord
  evring : DWord
  evidx : DWord
  evseq : DWord
  terr : DWord
  ptpStamp : Tbl DWord
  links : Tbl Nat
  bar4 : Tbl DWord
  bridges : Tbl Bridge
  mons : Tbl Mon
  peers : Tbl DWord
  tries : List (Instr × Nat)
  sess : List Sess
  signed : Tbl (List Nat)
  ide : List IdeKey
  fw : Firmware
  out : List Out
  deriving DecidableEq, Repr

/-- The package right after package reset (21 R431): nothing resident, no memory byte listed, every register at the value
its field map gives. Both host ports have trained as PCI Express and are up, which link training decides (21 R423; DESIGN CHOICE, log entry 2). -/
def State.reset : State :=
  { powered := true, fatal := false, cur := ⟨0, 0, false⟩, free := 0, sched := [], net := [], sentAt := [], cohorts := [], blks := [],
    grids := [], queues := [], cores := [], dies := [], lines := [], dir := [], defer := [], tokens := [], chanSeq := [],
    chanOpen := [], beacons := [], nexts := [], mem := [], pois := [], sram := [], msc := [], grans := [], tlb := [], code := [], preqs := [], copies := [],
    xdmas := [], saved := [], images := [], ctxs := [], next := 0, ptime := 0, slew := 0, slewRem := 0, ioCyc := 0, qtbase := 0, qdoorbell := [], qappend := [],
    pmap := 0, tinv := 0, ctxtbase := 0, ctxcmd := 0, mcring := 0, mcidx := 0, evring := 0, evidx := 0, evseq := 0,
    terr := 0xFFFFFFFF, ptpStamp := [], links := [(0, 1), (1, 1)], bar4 := [], bridges := [], mons := [], peers := [], tries := [], sess := [], signed := [],
    ide := [], fw := Firmware.reset, out := [] }

end Sys2Proof.Machine
end

