-- ==== Sys2Proof/Machine/Ops.lean ====
section
/-! DEFINITION. The named operations over State: registers, split table, the end of a slot, a word and a fragment,
taking a trap and returning from one (08 R159-R171, 09 R194-R200, 20 R406-R411). -/
namespace Sys2Proof.Machine

/-! ### Numbers and masks -/

/-- Cores of a compute die (01 R13). -/
def coresPerDie : Nat := 88
/-- Cohort slots of a core (05 R102). -/
def slotsPerCore : Nat := 2048
/-- The core of a cohort key. -/
def coreOf (cid : Nat) : Nat := cid / slotsPerCore
/-- The die of a core. -/
def dieOfCore (core : Nat) : Nat := core / coresPerDie
/-- The die of a cohort. -/
def dieOf (cid : Nat) : Nat := dieOfCore (coreOf cid)
/-- All ones. -/
def allOnes : DWord := 0xFFFFFFFFFFFFFFFF
/-- Bits lo to lo+n-1 of a word, as a number. -/
def bits (v : DWord) (lo n : Nat) : Nat := v.toNat / 2 ^ lo % 2 ^ n
/-- A word with bits lo to lo+n-1 replaced. -/
def setBits (v : DWord) (lo n : Nat) (x : Nat) : DWord :=
  BitVec.ofNat 64 (v.toNat % 2 ^ lo + 2 ^ lo * (x % 2 ^ n) + v.toNat / 2 ^ (lo + n) * 2 ^ (lo + n))
/-- A number as a word. -/
def dw (n : Nat) : DWord := BitVec.ofNat 64 n
/-- The lanes of a mask below `w`, rising. -/
def lanesOf (m : DWord) (w : Nat) : List Nat := (List.range w).filter fun l => m.getLsbD l
/-- The mask of a list of lanes. -/
def maskOf (l : List Nat) : DWord := l.foldl (fun m n => m ||| (1#64 <<< n)) 0
/-- A sequence value s has reached m (02 R30, 15 R306, 19 R382). -/
def reached (s m : Word) : Bool := (s - m).toNat < 2 ^ 31
/-- The largest of a list, 0 when empty. -/
def maxOf (l : List Nat) : Nat := l.foldl max 0
/-- The smallest of a list by a key, where there is one; ties to the earlier. -/
def minBy {α : Type} (key : α → Nat) : List α → Option α
  | [] => none
  | a :: t => some (t.foldl (fun m b => if key b < key m then b else m) a)

/-- The code of a cause (20 R399). -/
def causeCode : Cause → Nat
  | .none0 => 0 | .illegal => 1 | .badTarget => 2 | .uniform => 3 | .splitDepth => 4 | .idxBound => 5 | .expired => 6
  | .poison => 7 | .xlate => 8 | .protect => 9 | .align => 10 | .futDouble => 11 | .futAbandon => 12 | .copyAbort => 13
  | .jPoison => 14 | .priv => 15 | .soft => 16 | .stalemate => 17 | .lease => 18 | .fpTrap => 19 | .fSlot => 20
  | .regRange => 21 | .pair => 22

/-- The causes in code order, 1 to 22. -/
def causes : List Cause :=
  [.illegal, .badTarget, .uniform, .splitDepth, .idxBound, .expired, .poison, .xlate, .protect, .align, .futDouble,
    .futAbandon, .copyAbort, .jPoison, .priv, .soft, .stalemate, .lease, .fpTrap, .fSlot, .regRange, .pair]

/-! ### Parts of State -/

def State.cohort (s : State) (cid : Nat) : Cohort := tget Cohort.vacant s.cohorts cid
def State.setCohort (s : State) (cid : Nat) (c : Cohort) : State := { s with cohorts := tput Cohort.vacant s.cohorts cid c }
/-- The cohort whose op executes. -/
def State.me (s : State) : Cohort := s.cohort s.cur.cid
def State.setMe (s : State) (c : Cohort) : State := s.setCohort s.cur.cid c
def State.blk (s : State) (b : Nat) : Blk := tget Blk.none s.blks b
def State.setBlk (s : State) (b : Nat) (x : Blk) : State := { s with blks := tput Blk.none s.blks b x }
def State.grid (s : State) (g : Nat) : Grid := tget Grid.none s.grids g
def State.setGrid (s : State) (g : Nat) (x : Grid) : State := { s with grids := tput Grid.none s.grids g x }
def State.core (s : State) (c : Nat) : CoreSt := tget CoreSt.reset s.cores c
def State.setCore (s : State) (c : Nat) (x : CoreSt) : State := { s with cores := tput CoreSt.reset s.cores c x }
def State.die (s : State) (d : Nat) : Die := tget Die.reset s.dies d
def State.setDie (s : State) (d : Nat) (x : Die) : State := { s with dies := tput Die.reset s.dies d x }
def State.ctx (s : State) (c : Nat) : Ctx := tget Ctx.reset s.ctxs c
def State.setCtx (s : State) (c : Nat) (x : Ctx) : State := { s with ctxs := tput Ctx.reset s.ctxs c x }
def State.dirEnt (s : State) (l : Nat) : DirEnt := tget DirEnt.none s.dir l
def State.setDir (s : State) (l : Nat) (x : DirEnt) : State := { s with dir := tput DirEnt.none s.dir l x }
/-- The key of a line in a core's line cache region. -/
def lineKey (core line : Nat) : Nat := core * 2 ^ 70 + line
def State.lc (s : State) (core line : Nat) : LcEnt := tget LcEnt.none s.lines (lineKey core line)
def State.setLc (s : State) (core line : Nat) (e : LcEnt) : State :=
  { s with lines := tput LcEnt.none s.lines (lineKey core line) e }
/-- The lines a core holds. -/
def State.linesOf (s : State) (core : Nat) : List Nat :=
  (tkeys s.lines).filterMap fun k => if k / 2 ^ 70 == core then some (k % 2 ^ 70) else none
/-- The present core cycle of a die (15 R305). -/
def State.cycOf (s : State) (d : Nat) : Nat := (s.die d).cyc.toNat
/-- The TIME copy of a die (15 R311). -/
def State.timeOf (s : State) (d : Nat) : DWord := (s.die d).time
/-- A message put on the fabric, with the package time at which it leaves. -/
def State.send (s : State) (m : Instr) : State := { s with net := s.net ++ [m], sentAt := s.sentAt ++ [s.ptime] }
/-- The k-th message in flight taken off the fabric. -/
def State.unsend (s : State) (k : Nat) : State := { s with net := s.net.eraseIdx k, sentAt := s.sentAt.eraseIdx k }
/-- A message sent outside the package. -/
def State.emit (s : State) (o : Out) : State := { s with out := s.out ++ [o] }
/-- The next number of the model's own numbering, and the state that has used it. -/
def State.fresh (s : State) : Nat × State := (s.next, { s with next := s.next + 1 })
/-- A choice among `n` outcomes the spec leaves open (00 R7), and the state that has used it. -/
def State.choose (s : State) (n : Nat) : Nat × State := (Config.choice s.free % n, { s with free := s.free + 1 })

/-- The package is in recovery: BAR 0 exposes only FWSTAT and FWCMD, and no grid is dispatched (21 R431). -/
def recovery (s : State) : Bool := s.fw.running.isNone
/-- A register of BAR 0 is written: in recovery it is not there. -/
def inService (s : State) (o : Host.Outcome State Fault Refusal) : Host.Outcome State Fault Refusal :=
  if recovery s then .next s else o

/-! ### Registers of a cohort (08 R159, 07 R142) -/

/-- A scalar register; s0 reads 0. -/
def srd (c : Cohort) (n : Nat) : DWord := if n = 0 then 0 else tget 0 c.sr n
/-- A write to a scalar register; s0 discards it. -/
def swr (c : Cohort) (n : Nat) (v : DWord) : Cohort := if n = 0 then c else { c with sr := tput 0 c.sr n v }
/-- The scalar register a field names. -/
def sreg (c : Cohort) (f : BitVec 8) : DWord := srd c f.toNat
/-- A lane's vector register. -/
def vrd (c : Cohort) (n lane : Nat) : Word := tget 0 c.vr (64 * n + lane)
/-- A write to a lane's vector register, which ends a soft error's loss (20 R413). -/
def vwr (c : Cohort) (n lane : Nat) (v : Word) : Cohort :=
  { c with vr := tput 0 c.vr (64 * n + lane) v, lost := tput false c.lost (64 * n + lane) false }
/-- A lane's even-odd pair. -/
def vrd2 (c : Cohort) (n lane : Nat) : DWord := vrd c (n + 1) lane ++ vrd c n lane
/-- A write to a lane's pair. -/
def vwr2 (c : Cohort) (n lane : Nat) (v : DWord) : Cohort :=
  vwr (vwr c n lane (v.extractLsb' 0 32)) (n + 1) lane (v.extractLsb' 32 32)
/-- A predicate bit; p0 reads true. -/
def prd (c : Cohort) (n lane : Nat) : Bool := n = 0 || (tget 0 c.pr n).getLsbD lane
/-- A write to a predicate bit; p0 discards it. -/
def pwr (c : Cohort) (n lane : Nat) (b : Bool) : Cohort :=
  if n = 0 then c
  else { c with pr := tput 0 c.pr n (setBits (tget 0 c.pr n) lane 1 (if b then 1 else 0)) }
/-- An index register. -/
def xrd (c : Cohort) (n : Nat) : XReg := tget ⟨0, 0⟩ c.xr n
/-- A J register. -/
def jrd (c : Cohort) (n : Nat) : JReg := tget ⟨0, 0, false⟩ c.jr n
/-- A write of a result to its register (08 R167). -/
def putWr (c : Cohort) (w : Wr) : Cohort :=
  match w.dst with
  | .s n => swr c n w.val
  | .v n l => vwr c n l (w.val.extractLsb' 0 32)
/-- The writes of a result. -/
def putWrs (c : Cohort) (l : List Wr) : Cohort := l.foldl putWr c

/-- No result and no reduction of the cohort is outstanding (08 R171, 10 R219). -/
def quiet (c : Cohort) : Bool := c.pend.isEmpty && c.reds.isEmpty

/-! ### The split table (08 R162) -/

/-- An entry nothing uses. -/
def Ent.none : Ent :=
  { id := 0, parent := Option.none, join := Option.none, mask := 0, hdr := 0, blk := ⟨0, []⟩, widx := 0, st := .header,
    inWord := false, runA := false, runB := false, triedA := false, triedB := false, park := Option.none,
    wait := Option.none, xfer := Option.none, stamp := 0, turn := 0 }

/-- The entry of a number. -/
def entOf (c : Cohort) (id : Nat) : Ent := (c.ents.find? (·.id == id)).getD Ent.none
/-- The cohort with an entry replaced. -/
def setEnt (c : Cohort) (e : Ent) : Cohort := { c with ents := c.ents.map fun x => if x.id == e.id then e else x }
/-- The cohort with an entry freed. -/
def dropEnt (c : Cohort) (id : Nat) : Cohort := { c with ents := c.ents.filter (·.id != id) }
/-- The fragment whose op executes. -/
def State.frag (s : State) : Ent := entOf s.me s.cur.frag
def State.setFrag (s : State) (e : Ent) : State := s.setMe (setEnt s.me e)
/-- The lanes of the issuing fragment (08 R160, guard uses Z and B). -/
def State.fragLanes (s : State) : List Nat := lanesOf s.frag.mask s.me.w
/-- The active lanes of an op of guard use L (08 R160, 07 R137). -/
def State.active (s : State) (g : Guard) : List Nat :=
  s.fragLanes.filter fun l => prd s.me g.pg.toNat l != g.pn
/-- The header of the block an entry stands in. -/
def Ent.header (e : Ent) : Header := decodeHeader e.blk.hd
/-- The join header an entry's next header is compared with (08 R163). -/
def joinHeader (c : Cohort) (e : Ent) : Option DWord := e.parent.bind fun p => (entOf c p).join
/-- A fragment comes to a header, nothing fetched. -/
def atHeader (hdr : DWord) : Dest := ⟨hdr, ⟨0, []⟩, 0, .header⟩
/-- A fragment stands at its parent's join header, where it parks (08 R163). -/
def atJoin (c : Cohort) (e : Ent) : Bool := e.st == .header && joinHeader c e == some e.hdr
/-- A result of the lanes of a mask is outstanding (08 R171). -/
def lanesBusy (c : Cohort) (m : DWord) : Bool :=
  c.pend.any (fun p => p.lanes &&& m != 0) || c.reds.any (fun p => p.lanes &&& m != 0)
/-- The place after word `widx` of a block: the next word or the fall-through header (06 R122, 09 R194). -/
def afterWord (e : Ent) : Dest :=
  if e.widx + 1 < e.blk.words.length then ⟨e.hdr, e.blk, e.widx + 1, .run⟩ else atHeader (fallThrough e.hdr e.header)
/-- An entry put at a place, between words. -/
def Ent.placeAt (e : Ent) (d : Dest) : Ent :=
  { e with hdr := d.hdr, blk := d.blk, widx := d.widx, st := d.st, inWord := false, runA := false, runB := false,
           triedA := false, triedB := false, park := Option.none, wait := Option.none, xfer := Option.none }

/-- The slot a fragment inside a word issues next in this pass: `false` slot A, `true` slot B (07 R149, R150). -/
def nextSlot (e : Ent) : Option Bool :=
  if e.inWord then
    if e.runA && !e.triedA then some false else if e.runB && !e.triedB then some true else none
  else none

/-! ### Fusion of fragments and the end of lanes (08 R163, R164, 19 R383) -/

/-- The test of R163 on entry `id`, repeated up the tree; `fuel` bounds the depth of the table. A join entry whose remaining
children are all parked at its join header becomes a fragment there; one with no child is freed. -/
def fuse : Nat → Cohort → Nat → Cohort
  | 0, c, _ => c
  | fuel + 1, c, id =>
    let e := entOf c id
    match e.join with
    | none => c
    | some h =>
      let kids := c.ents.filter (·.parent == some id)
      if kids.isEmpty then
        let c := dropEnt c id
        match e.parent with
        | some p => fuse fuel c p
        | none => c
      else if kids.all (fun k => k.join.isNone && k.st == .joined) then
        let c := { c with ents := c.ents.filter (·.parent != some id) }
        setEnt c { e.placeAt ⟨h, ⟨0, []⟩, 0, .fetch⟩ with
          join := none, mask := kids.foldl (fun m k => m ||| k.mask) 0, turn := c.stamp }
      else c

/-- The test of R163 on the parent of an entry. -/
def fuseParent (c : Cohort) (e : Ent) : Cohort :=
  match e.parent with
  | some p => fuse 65 c p
  | none => c

/-- A completed phase of an arrival barrier: GOT falls by EXP or ARR clears, PH rises (19 R379); `live` are the block's live
threads. One arrival may complete many phases. -/
def barTest (live : List Nat) (b : Bar) : Bar :=
  if b.byteMode then
    if 0 < b.exp && b.exp ≤ b.got then { b with got := b.got - b.exp, exp := 0, ph := (b.ph + 1) % 2 ^ 32 } else b
  else if b.all then
    if !b.arr.isEmpty && live.all b.arr.contains then { b with arr := [], ph := (b.ph + 1) % 2 ^ 32 } else b
  else if 0 < b.exp then { b with got := b.got % b.exp, ph := (b.ph + b.got / b.exp) % 2 ^ 32 } else b

/-- The live threads of a block: those not ended (19 R383). -/
def liveThreads (b : Blk) : List Nat := (List.range b.threads).filter fun t => !b.done.contains t

/-- The barrier test of every bound barrier of a block, after an end of threads. -/
def retestBars (b : Blk) : Blk :=
  { b with bars := b.bars.map fun p => (p.1, p.2.map (barTest (liveThreads b))) }

/-- The live threads of a group of resident blocks, each thread numbered 4,096·block + thread. -/
def groupLive (bs : List Blk) : List Nat := bs.flatMap fun b => (liveThreads b).map (4096 * b.idx + ·)

/-- The blocks of a grid that are resident, saved or still to place count for `bar.die` and `bar.cl`; a retired block's threads
count as ended (19 R384). The resident and saved blocks that meet a test. -/
def State.gridBlks (s : State) (g : Nat) (p : Blk → Bool) : List Blk :=
  (s.blks.filterMap fun x => if x.2.used && x.2.gid == g && x.2.kind == .grid && p x.2 then some x.2 else none) ++
  (s.saved.filterMap fun v => if v.blk.gid == g && v.blk.kind == .grid && p v.blk then some v.blk else none)

/-- The cluster and die-slice barriers of a grid tested again (19 R384). -/
def State.retestGrid (s : State) (g : Nat) : State :=
  let gr := s.grid g
  if gr.active then
    s.setGrid g { gr with
      cbars := gr.cbars.map fun p => (p.1, p.2.map (barTest (groupLive (s.gridBlks g (·.cluster == p.1))))),
      slices := gr.slices.map fun sl => { sl with bar := barTest (groupLive (s.gridBlks g (·.die == sl.die))) sl.bar } }
  else s

/-- A lease that ends by `lsr` with no probe queued during it doubles its predictor's length (16 R329). -/
def State.lengthen (s : State) (core : Nat) (l : Lease) : State :=
  let k := s.core core
  if l.probes.isEmpty then s.setCore core { k with lens := tput 0 k.lens (l.line % 512) (min 4 (tget 0 k.lens (l.line % 512) + 1)) } else s

/-- The leases of an ending cohort are nobody's and end at once, those that still last as by `lsr` (16 R333, 09 R200). -/
def State.expireLeases (s : State) (cid : Nat) : State :=
  let k := coreOf cid
  let now := s.cycOf (dieOf cid)
  let s := ((s.core k).leases.filter fun l => l.cid == some cid && now < l.start + l.len).foldl (fun s l => s.lengthen k l) s
  let c := s.core k
  s.setCore k { c with leases := c.leases.map fun l => if l.cid == some cid then { l with cid := none, endAt := some 0 } else l }

/-- A request or answer of an ended cohort. -/
def orphanMsg (cid : Nat) : Instr → Instr
  | .atom r => .atom (if r.cid == cid then { r with dead := true } else r)
  | .aresp r => .aresp (if r.cid == cid then { r with dead := true } else r)
  | .redoRequest r => .redoRequest (if r.cid == cid then { r with dead := true } else r)
  | .redoRetry r => .redoRetry (if r.cid == cid then { r with dead := true } else r)
  | m => m

/-- What an ended cohort left under way is known to be an ended cohort's: copy requests, atomics, ordered reductions. -/
def State.orphanWork (s : State) (cid : Nat) : State :=
  let k := s.core (coreOf cid)
  let s := s.setCore (coreOf cid) { k with nears := k.nears.map fun x => if x.r.cid == cid then { x with r := { x.r with dead := true } } else x }
  { s with
    copies := s.copies.map fun (r : CopyReq) => if r.cid == cid then { r with dead := true } else r,
    net := s.net.map (orphanMsg cid),
    dir := s.dir.map fun p => (p.1, { p.2 with held := p.2.held.map (orphanMsg cid) }),
    defer := s.defer.map fun p => (p.1, p.2.map fun d => match d with
      | .redo r => .redo (if r.cid == cid then { r with dead := true } else r)
      | d => d) }

/-- A die's distributor makes a pass soon: space or a cohort slot has become free there (05 R111). -/
def State.passSoon (s : State) (d : Nat) : State := s.setDie d { s.die d with passDue := true }

/-- The end of a cohort (09 R200, 19 R391): its leases end, each bound future gets an abandon request, its entries leave the matrix queue (12
R246), its slot is freed. -/
def State.endCohort (s : State) (cid : Nat) : State :=
  let c := s.cohort cid
  let s := s.expireLeases cid
  let s := c.bound.foldl (fun s f => s.send (.abandonRequest c.ctx f.2)) s
  let s := s.orphanWork cid
  let k := s.core (coreOf cid)
  let s := if k.matq.any (·.cid == cid) then s.setCore (coreOf cid) { k with matq := k.matq.filter (·.cid != cid) } else s
  (s.setCohort cid Cohort.vacant).passSoon (dieOf cid)

/-- Lanes of a cohort end: the live mask loses them, the threads count as ended at every barrier, and a cohort with no live
lane ends (08 R164, 19 R383). -/
def State.endLanes (s : State) (cid : Nat) (mask : DWord) : State :=
  let c := s.cohort cid
  let b := s.blk c.blk
  let b := retestBars { b with done := b.done ++ (lanesOf (mask &&& c.live) c.w).map (c.cidx * c.w + ·) }
  let s := (s.setBlk c.blk b).setCohort cid { c with live := c.live &&& ~~~mask }
  let s := if c.kind == .grid then s.retestGrid c.gid else s
  if c.live &&& ~~~mask == 0 then s.endCohort cid else s

/-- A fragment ends: its entry is freed, its parent tested, its lanes end (08 R164). -/
def State.endFragment (s : State) (cid id : Nat) : State :=
  let c := s.cohort cid
  let e := entOf c id
  (s.setCohort cid (fuseParent (dropEnt c id) e)).endLanes cid e.mask

/-! ### The end of a slot and of a word (07 R149, R150, 08 R169, 09 R194) -/

/-- What a meaning answers: the op completed, it trapped, it parked its fragment on a page request, it waits for itself, it holds
its fragment at a barrier, or it stays incomplete for a trap its cohort owes already. -/
inductive Res where
  | done (s : State)
  | trap (c : Cause) (info : DWord) (s : State)
  | park (p : Parked) (s : State)
  | wait (why : WaitWhy) (s : State)
  | hold (w : BarWait) (s : State)
  | stop (s : State)
  deriving DecidableEq, Repr

/-- The issue word a fragment stands at. -/
def Ent.word (e : Ent) : IWord := e.blk.words.getD e.widx 0

/-- The handler fragment ends and the trapping fragment with the others resumes: s60 and s61 from TRAPSAV0 and TRAPSAV1, INH
cleared (20 R411). -/
def leaveHandler (c : Cohort) : Cohort :=
  match c.handler with
  | none => c
  | some (h, _) =>
    let c := swr (swr (dropEnt c h) 60 c.sav0) 61 c.sav1
    { c with handler := none, tcause := setBits c.tcause 63 1 0 }

/-- An owed transfer takes effect (09 R194, 08 R162, R164): a transfer, a split, or the end of the fragment. An `exit` in the
handler ends the trapping fragment's lanes (20 R407). -/
def State.transfer (s : State) (cid : Nat) (e : Ent) (x : Xfer) : State :=
  let c := s.cohort cid
  match x with
  | .go d => s.setCohort cid (setEnt c (e.placeAt d))
  | .split mask recon t n =>
    let id := c.nextEnt
    match recon with
    | none =>
      let c := setEnt c { (e.placeAt t) with mask := mask }
      s.setCohort cid { c with nextEnt := id + 1, ents := c.ents ++ [{ (e.placeAt n) with id := id, mask := e.mask &&& ~~~mask }] }
    | some j =>
      let c := setEnt c { (e.placeAt t) with join := some j }
      s.setCohort cid { c with
        nextEnt := id + 2,
        ents := c.ents ++ [{ (e.placeAt t) with id := id, parent := some e.id, mask := mask },
                           { (e.placeAt n) with id := id + 1, parent := some e.id, mask := e.mask &&& ~~~mask }] }
  | .exit =>
    match c.handler with
    | some (h, f) =>
      if h == e.id then
        let s := s.setCohort cid (leaveHandler c)
        if c.kind == .orphan then s.endLanes cid c.live else s.endFragment cid f
      else s.endFragment cid e.id
    | none => s.endFragment cid e.id

/-- The end of a pass over a word's slots: with a slot left to issue the word goes on; with a slot incomplete the fragment keeps
the word, parked where one parked; else the word is complete, its switch marker acts and control moves on. -/
def State.endPass (s : State) (cid id : Nat) : State :=
  let c := s.cohort cid
  let e := entOf c id
  if (nextSlot e).isSome then s
  else if e.runA || e.runB then
    match e.park with
    | some n => s.setCohort cid (setEnt c { e with st := .parked n, park := none })
    | none => s
  else
    let c := { c with pend := c.pend.map fun p =>
      if p.frag == id then { p with org := p.org.map fun o => if o.stamp == e.stamp then { o with xfer := e.xfer } else o } else p }
    let c := if swOf e.word && !quiet c then { c with waits := c.waits ++ [.switch (c.pend.map (·.vid) ++ c.reds.map (·.vid))] } else c
    (s.setCohort cid c).transfer cid e (e.xfer.getD (.go (afterWord e)))

/-- The executing slot has completed; its fragment may be gone (`tsk.park`, 19 R393). -/
def State.slotDone (s : State) : State :=
  let c := s.me
  if c.ents.any (·.id == s.cur.frag) then
    let e := { s.frag with wait := none }
    let e := if s.cur.slotB then { e with runB := false, triedB := false } else { e with runA := false, triedA := false }
    let c := { c with waits := c.waits.filter fun w => match w with | .op _ => false | _ => true }
    (s.setMe (setEnt c e)).endPass s.cur.cid s.cur.frag
  else s

/-- The executing slot stays incomplete: in form 10 a failing slot A stops slot B (07 R150). -/
def State.slotFailed (s : State) (park : Option Parked) : State :=
  let e := s.frag
  let e := { e with park := if e.park.isSome then e.park else park, wait := none }
  let e := if s.cur.slotB then { e with triedB := true }
    else { e with triedA := true, triedB := e.triedB || formOf e.word == 2 }
  let c := s.me
  let c := { c with waits := c.waits.filter fun w => match w with | .op _ => false | _ => true }
  (s.setMe (setEnt c e)).endPass s.cur.cid s.cur.frag

/-- INH of TRAPCAUSE: the cohort is in its handler (20 R405). -/
def inHandler (c : Cohort) : Bool := bits c.tcause 63 1 == 1

/-- A trap of the executing slot is raised; when both slots of a word trap, slot A's stands (20 R406). -/
def State.raise (s : State) (cause : Cause) (info : DWord) : State :=
  let c := s.me
  match c.trap with
  | some _ => s
  | none => s.setMe { c with trap := some ⟨s.cur.frag, cause, info, false, inHandler c, none, none, false⟩ }

/-- What a meaning's answer does to its slot. -/
def settle : Res → State
  | .done s => s.slotDone
  | .trap cause info s => (s.raise cause info).slotFailed none
  | .park n s => s.slotFailed (some n)
  | .stop s => s.slotFailed none
  | .wait why s =>
    let c := s.me
    s.setMe { c with waits := c.waits.filter (fun w => match w with | .op _ => false | _ => true) ++ [.op why] }
  | .hold w s =>
    let c := s.me
    (s.setMe { c with waits := c.waits.filter (fun w => match w with | .op _ => false | _ => true) }).setFrag { s.frag with wait := some w }

/-- The end of an instruction: every answer leaves a next state. -/
def finish (r : Res) : Host.Outcome State Fault Refusal := .next (settle r)

/-- A deferred trap of a fragment (20 R406), taken before the cohort's next word, or once the word that raised it is complete (07 R150). -/
def deferTrap (c : Cohort) (frag : Nat) (cause : Cause) (info : DWord) (sw : Bool) (redo : Option Pend := none)
    (word : Option Nat := none) : Cohort :=
  { c with dtraps := c.dtraps ++ [⟨frag, cause, info, sw, inHandler c, redo, word, false⟩] }
/-- The word a fragment stands in. -/
def wordNo (c : Cohort) (frag : Nat) : Option Nat := some (entOf c frag).stamp

/-- Flags raised by an operation (03 R67, R70): ORed into FSTAT; an enabled one traps E_FPTRAP with the flags it raised. -/
def raiseFlags (c : Cohort) (frag : Nat) (fl : BitVec 6) (word : Option Nat := none) : Cohort :=
  let c := { c with fstat := c.fstat ||| fl.zeroExtend 64 }
  if fl.extractLsb' 0 5 &&& c.fmode.extractLsb' 0 5 == 0 then c else deferTrap c frag .fpTrap (fl.zeroExtend 64) false none word
/-- The flags of an op of fixed latency: the trap waits for the whole word (03 R70, 07 R150). -/
def opFlags (c : Cohort) (frag : Nat) (fl : BitVec 6) : Cohort := raiseFlags c frag fl (wordNo c frag)

/-- The first lost register word among those an op reads, register and lane, as register·2^8 + lane (20 R413). -/
def lostAt (c : Cohort) (l : List (Nat × Nat)) : Option DWord :=
  if c.lost.isEmpty then none
  else (l.find? fun p => tget false c.lost (64 * p.1 + p.2)).map fun p => dw (p.1 * 256 + p.2)

/-- The register words an op reads in its active lanes, register and lane. -/
def laneReads (i : Instr) (s : State) : List (Nat × Nat) :=
  let u := opRegs (fun n => ((xrd s.me n).base, (xrd s.me n).bound)) i
  let lanes := match guardOf i with | some g => s.active g | none => []
  (u.vr ++ u.vrun).flatMap fun r => lanes.map fun l => (r, l)

/-- A queued matrix op of the cohort has yet to read an accumulator register the op writes (12 R260). -/
def accHeld (i : Instr) (s : State) : Bool :=
  let u := opRegs (fun n => ((xrd s.me n).base, (xrd s.me n).bound)) i
  (s.core (coreOf s.cur.cid)).matq.any fun e =>
    e.cid == s.cur.cid && !e.started &&
    (match e.op with
     | .mmac o _ => (u.vw ++ u.wrun).any fun r => o.vd.toNat ≤ r && r < o.vd.toNat + 16
     | .mmacz o _ => (u.vw ++ u.wrun).any fun r => o.vd.toNat ≤ r && r < o.vd.toNat + 16
     | _ => false) &&
    (match i with | .mmac _ _ => false | .mmacz _ _ => false | _ => true)

/-- An instruction's own answer, unless it must wait for a matrix op's accumulator or reads a register word a soft error has
lost; `reads` names those it reads. -/
def opReading (i : Instr) (reads : List (Nat × Nat)) (s : State) (r : Res) : Host.Outcome State Fault Refusal :=
  if accHeld i s then finish (.wait .other s)
  else match lostAt s.me reads with
    | some info => finish (.trap .soft info s)
    | none => finish r

/-- The same, for an op that reads its named registers in its active lanes. -/
def op (i : Instr) (s : State) (r : Res) : Host.Outcome State Fault Refusal := opReading i (laneReads i s) s r

/-! ### Taking a trap (20 R406-R408) -/

/-- TRAPCAUSE as R405 lays it out, INH apart, from the resume point of a fragment (R406): an incomplete word with its slots, the
next word with both, or a header with neither. -/
def trapCause (e : Ent) (cause : Cause) (sw orph : Bool) : DWord :=
  let place := match e.st with
    | .header => (0xFFF, false, false)
    | .fetch => (0xFFF, false, false)
    | .joined => (0xFFF, false, false)
    | _ => if e.inWord then (e.widx, e.runA, e.runB) else if e.blk.words.isEmpty then (0xFFF, false, false) else (e.widx, true, true)
  let b (x : Bool) (n : Nat) : DWord := if x then 1#64 <<< n else 0
  b orph 62 ||| b sw 61 ||| b place.2.2 57 ||| b place.2.1 56 ||| (dw place.1 <<< 44) ||| dw (causeCode cause)

/-- INH of a TRAPCAUSE. -/
def inhBit : DWord := 1#64 <<< 63

/-- A host record (20 R408) appended to those waiting for the context's ring. -/
def State.hostRecord (s : State) (ctx : Nat) (cause info pc place : DWord) (time : DWord) (sa : DWord) : State :=
  let x := s.ctx ctx
  s.setCtx ctx { x with made := x.made + 1, records := x.records ++ [[cause, info, pc, place, time, dw (x.made + 1), sa, 0]] }

/-- Offset 0x18 of a host record: CTX, die, core, cohort slot. -/
def placeWord (ctx cid : Nat) : DWord :=
  (dw ctx <<< 48) ||| (dw (dieOf cid) <<< 39) ||| (dw (coreOf cid % coresPerDie) <<< 32) ||| dw (cid % slotsPerCore)

/-- A fragment could go on: it waits for nothing, and is not at its join header with results of its lanes outstanding (08 R163, R165). -/
def mayGo (c : Cohort) (e : Ent) : Bool :=
  e.join.isNone && e.wait.isNone && (e.st == .header || e.st == .fetch || e.st == .run) && !(atJoin c e && lanesBusy c e.mask)
/-- The order in which fragments issue: longest without issuing, ties to the one created earlier (08 R165). -/
def turnKey (e : Ent) : Nat := e.turn * 2 ^ 32 + e.id

/-- The next fragment to go on (08 R165): the handler alone while there is one; a fragment inside a word; else the one longest without
issuing. One held at a barrier does not go on. -/
def nextFrag (c : Cohort) : Option Ent :=
  match c.handler with
  | some (h, _) => (c.ents.find? (·.id == h)).filter (mayGo c)
  | none =>
    match c.ents.find? (fun e => (nextSlot e).isSome && e.st == .run && e.wait.isNone) with
    | some e => some e
    | none => minBy turnKey (c.ents.filter (mayGo c))

/-- The fragment a trap is of; where that has ended or fused since, the next one to issue. -/
def trapFrag (c : Cohort) (t : TrapInfo) : Nat :=
  if c.ents.any (fun e => e.id == t.frag && e.join.isNone) then t.frag
  else ((minBy turnKey (c.ents.filter (·.join.isNone))).map (·.id)).getD t.frag

/-- The word whose op raised a deferred trap is still incomplete (07 R150). -/
def wordOpen (c : Cohort) (t : TrapInfo) : Bool := t.word.any fun n => c.ents.any fun e => e.id == t.frag && e.inWord && e.stamp == n

/-- The trap a cohort takes between words (20 R406, R407): the one its op raised, else the first deferred one whose word is complete, or, another
trap having come first, whose fragment is to issue next (08 R166); in its handler only those raised there. -/
def dueTrap (c : Cohort) : Option TrapInfo :=
  match c.trap with
  | some t => some t
  | none => c.dtraps.find? fun t =>
    (t.nest || !inHandler c) && !wordOpen c t && (!t.late || (nextFrag c).any (·.id == trapFrag c t))

/-- The cohort as a trap finds it: a `fut.get` that met an abandoned future is incomplete, so its fragment stands again at the word that
holds it, with that slot to run (19 R389, R406). Where the fragment has split or ended since, and for a `jget`, the op is kept aside, to
be executed again by `rett`. -/
def trapPoint (c : Cohort) (t : TrapInfo) : Cohort :=
  match t.redo.bind (·.org) with
  | some o =>
    if c.ents.any fun x => x.id == t.frag && x.join.isNone then
      let e := entOf c t.frag
      let here := e.inWord && e.stamp == o.stamp
      let at' := if here then e else { e.placeAt o.dest with inWord := true, triedA := true, triedB := true, xfer := o.xfer, stamp := o.stamp }
      let at' := if o.slotB then { at' with runB := true, triedB := true } else { at' with runA := true, triedA := true }
      { setEnt c at' with again := none }
    else { c with again := t.redo }
  | none => { c with again := t.redo }

/-- Taking a trap of a cohort (20 R407): a nested one, or with TRAPHDR.EN = 0, goes to the host and stops the cohort; else
TRAPCAUSE, TRAPINFO and TRAPPC are written, s60 and s61 saved, INH set, and a handler fragment started at TRAPHDR.HDR with the
trapping fragment's mask. -/
def State.takeTrap (s : State) (cid : Nat) (t : TrapInfo) : State :=
  let c := trapPoint (s.cohort cid) t
  let f := trapFrag c t
  let e := entOf c f
  let orph := bits c.tcause 62 1 == 1
  let cause := trapCause e t.cause t.sw orph
  let hdr := (s.ctx c.ctx).traphdr
  if inHandler c then
    (s.setCohort cid { c with waits := [.host true] }).hostRecord c.ctx (cause ||| inhBit) t.info e.hdr (placeWord c.ctx cid)
      (s.timeOf (dieOf cid)) 0
  else if !hdr.getLsbD 0 then
    (s.setCohort cid { c with waits := [.host false] }).hostRecord c.ctx cause t.info e.hdr (placeWord c.ctx cid)
      (s.timeOf (dieOf cid)) 0
  else
    let h : Ent := { Ent.none with id := c.nextEnt, mask := e.mask, hdr := (hdr >>> 3) <<< 3, st := .header, turn := c.stamp }
    s.setCohort cid { c with
      tcause := cause ||| inhBit, tinfo := t.info, tpc := e.hdr, sav0 := srd c 60, sav1 := srd c 61, waits := [],
      nextEnt := c.nextEnt + 1, ents := c.ents ++ [h], handler := some (c.nextEnt, f) }

/-- The trap a cohort owes is taken, and no longer owed; any other waits for its fragment (08 R166). -/
def State.deliverTrap (s : State) (cid : Nat) : State :=
  let c := s.cohort cid
  match dueTrap c with
  | none => s
  | some t =>
    let rest := if c.trap.isSome then c.dtraps else c.dtraps.erase t
    (s.setCohort cid { c with trap := none, dtraps := rest.map fun x => { x with late := true } }).takeTrap cid t

/-- No word of the cohort has a slot still to attempt, but for one held at a barrier: traps act between words (07 R150). -/
def betweenWords (c : Cohort) : Bool := c.ents.all fun e => (nextSlot e).isNone || e.wait.isSome
/-- A cohort all of whose fragments that could go on are held at barriers. -/
def barHeld (c : Cohort) : Bool := c.ents.any (·.wait.isSome) && (nextFrag c).isNone

/-! ### Returning from a trap (20 R411) -/

/-- How a handler returns. -/
inductive Return where
  | again | skip | to (hdr : DWord)
  deriving DecidableEq, Repr

/-- The trapping fragment goes on: it runs its incomplete slots, counts the word complete, or goes to a header. -/
def State.resumeFrag (s : State) (cid f : Nat) (how : Return) : State :=
  let c := s.cohort cid
  let e := entOf c f
  match how with
  | .again => s
  | .to h => s.setCohort cid (setEnt c (e.placeAt (atHeader h)))
  | .skip => if e.st == .header || e.st == .fetch || e.st == .joined || e.blk.words.isEmpty then s else s.transfer cid e (e.xfer.getD (.go (afterWord e)))

/-- A `jget` of want `want` meets its J register (10 R219): E_ILLEGAL where no reduction issued can reach it, the register as it stands, or the
write to come. -/
def meetJ (c : Cohort) (p : Pend) (j vb : Nat) (want : Word) (sd : Nat) : Cohort :=
  let r := jrd c j
  if !reached (r.seq + BitVec.ofNat 32 (c.reds.filter (·.j == j)).length) want then deferTrap c p.frag .illegal (want.zeroExtend 64) false (some p)
  else if !reached r.seq want then { c with pend := c.pend ++ [{ p with kind := .jget j vb want sd }] }
  else if r.pois then deferTrap c p.frag .jPoison (dw (j * 2 ^ 32 + r.seq.toNat)) false (some p)
  else { c with pend := c.pend ++ [{ p with kind := .known, writes := [⟨.s sd, r.value⟩] }] }

/-- The completed `jget` or `fut.get` whose trap was taken is executed again (10 R219, 19 R391), with the registers as they stand (07 R150): the
request to a future goes out again. -/
def reissue (c : Cohort) (now : Nat) : Cohort :=
  match c.again with
  | none => c
  | some p =>
    let c := { c with again := none }
    let hold (c : Cohort) : Cohort := match p.sync with
      | some sc => { c with waits := c.waits ++ [.acquire p.vid sc []] }
      | none => c
    match p.kind with
    | .jget j vb _ sd => meetJ c p j vb ((srd c vb).extractLsb' 0 32) sd
    | .futGet a key sd _ _ =>
      hold { c with pend := c.pend ++ [{ p with kind := .futGet a key sd (some now) 256 }] }
    | _ => c

/-- `rett` and its variants, after their checks; an orphan handler's return ends its cohort as `exit` does, and a cohort whose state
area was lost ends (R413). -/
def State.returnTrap (s : State) (cid : Nat) (how : Return) : State :=
  let c := s.cohort cid
  match c.handler with
  | none => s
  | some (_, f) =>
    let s := s.setCohort cid (leaveHandler c)
    if bits c.tcause 62 1 == 1 || c.doomed then s.endLanes cid c.live
    else
      let s := s.setCohort cid
        (if how == .again then reissue (s.cohort cid) (s.cycOf (dieOf cid)) else { s.cohort cid with again := none })
      s.resumeFrag cid f how

end Sys2Proof.Machine
end

