-- ==== Sys2Proof/Machine/Mem.lean ====
section
/-! DEFINITION. Memory: the flat key of every byte the package can reach, its home, poison, granules, page tables and
translation, and the checks of an access (05 R98-R119, 13 R267-R277, R461, 14 R284). -/
namespace Sys2Proof.Machine

/-! ### Keys

A byte of HBM4E of die d at offset o has key d·2^36 + o, a carve byte 2^40 + d·2^30 + o, an operand-store byte
2^42 + core·2^25 + o, a byte of a peer page 2^53 + PA, a byte of host memory 2^64 + address. -/

def hbmKey (d o : Nat) : Nat := d * 2 ^ 36 + o
def carveKey (d o : Nat) : Nat := 2 ^ 40 + d * 2 ^ 30 + o
def scratchKey (core o : Nat) : Nat := 2 ^ 42 + core * 2 ^ 25 + o
def peerKey (pa : Nat) : Nat := 2 ^ 53 + pa
def hostKey (a : Nat) : Nat := 2 ^ 64 + a
def isHbm (k : Nat) : Bool := k < 2 ^ 40
def isCarve (k : Nat) : Bool := 2 ^ 40 ≤ k && k < 2 ^ 42
def isScratch (k : Nat) : Bool := 2 ^ 42 ≤ k && k < 2 ^ 53
def isPeer (k : Nat) : Bool := 2 ^ 53 ≤ k && k < 2 ^ 64
def isHost (k : Nat) : Bool := 2 ^ 64 ≤ k
/-- The line of a byte. -/
def lineOf (k : Nat) : Nat := k / 128
/-- The die that is home to a byte; agent 12 for host and peer bytes (13 R269, 15 R306). -/
def homeDie (k : Nat) : Nat :=
  if isHbm k then k / 2 ^ 36 else if isCarve k then (k - 2 ^ 40) / 2 ^ 30
  else if isScratch k then dieOfCore ((k - 2 ^ 42) / 2 ^ 25) else 12
/-- The die offset of a package byte. -/
def homeOff (k : Nat) : Nat := if isHbm k then k % 2 ^ 36 else (k - 2 ^ 40) % 2 ^ 30
/-- The home slice of a line, numbered 24·die + slice (13 R270). -/
def sliceOf (line : Nat) : Nat := homeDie (line * 128) * 24 + homeOff (line * 128) / 128 % 24
/-- The key of offset `a` of the interleaved space (13 R269). -/
def ilvKey (s : State) (a : Nat) : Nat :=
  hbmKey (a / 4096 % 12) ((64 - s.pmap.toNat) * 2 ^ 30 + a / 4096 / 12 * 4096 + a % 4096)
/-- Bytes of the interleaved space. -/
def ilvSize (s : State) : Nat := 12 * s.pmap.toNat * 2 ^ 30
/-- The key of a system physical address (13 R461): inside a BAR 4 window the interleaved space, else host memory. -/
def sysKey (s : State) (a : Nat) : Nat :=
  let win (io : Nat) : Option Nat :=
    let b := (tget 0 s.bar4 io).toNat
    if b != 0 && b ≤ a && a < b + ilvSize s then some (a - b) else none
  match win 0 with
  | some o => ilvKey s o
  | none => match win 1 with | some o => ilvKey s o | none => hostKey (a % 2 ^ 64)

/-! ### Bytes -/

/-- What one byte reads as at its home; a byte nothing has written reads 0. -/
def State.byte (s : State) (k : Nat) : Byte := tget 0 s.mem k
/-- One byte written at its home: a token that stood with the old value is gone (15 R308). -/
def State.setByte (s : State) (k : Nat) (b : Byte) : State := { s with mem := tput 0 s.mem k b, tokens := terase s.tokens k }
/-- Tokens kept with bytes just written at their home (15 R308). -/
def State.putToks (s : State) (l : Toks) : State := { s with tokens := l.foldl (fun t p => tput [] t p.1 p.2) s.tokens }
/-- `n` bytes from a key. -/
def State.bytes (s : State) (k n : Nat) : List Byte := (List.range n).map fun i => s.byte (k + i)
/-- Bytes written from a key. -/
def State.setBytes (s : State) (k : Nat) : List Byte → State
  | [] => s
  | b :: t => (s.setByte k b).setBytes (k + 1) t
/-- A line's 128 bytes. -/
def State.lineData (s : State) (line : Nat) : LineData := BitVec.ofNat 1024 (leNat (s.bytes (line * 128) 128))
/-- Byte i of line data. -/
def lineByte (d : LineData) (i : Nat) : Byte := d.extractLsb' (8 * i) 8
/-- Line data with byte i replaced. -/
def setLineByte (d : LineData) (i : Nat) (b : Byte) : LineData :=
  (d &&& ~~~(0xFF#1024 <<< (8 * i))) ||| (b.zeroExtend 1024 <<< (8 * i))
/-- The indexes of a line mask. -/
def maskBytes (m : LineMask) : List Nat := (List.range 128).filter fun i => m.getLsbD i
/-- A line mask of indexes. -/
def maskOfBytes (l : List Nat) : LineMask := l.foldl (fun m i => m ||| (1#128 <<< i)) 0
/-- A poisoned line. -/
def State.poisoned (s : State) (line : Nat) : Bool := tget false s.pois line
def State.setPoison (s : State) (line : Nat) (b : Bool) : State := { s with pois := tput false s.pois line b }
/-- A poisoned operand-store byte (20 R413, 14 R292). -/
def State.scratchPois (s : State) (k : Nat) : Bool := tget false s.pois (2 ^ 70 + k)
def State.setScratchPois (s : State) (k : Nat) (b : Bool) : State := { s with pois := tput false s.pois (2 ^ 70 + k) b }
/-- A masked write merged at the home of a line (16 R323, R327): a poisoned arrival poisons the line, a write of all 128
bytes clears it, any other leaves the poison as it is; the tokens it carries are kept with its bytes (15 R308). -/
def State.merge (s : State) (line : Nat) (m : LineMask) (d : LineData) (pois : Bool) (toks : Toks := []) : State :=
  let s := ((maskBytes m).foldl (fun s i => s.setByte (line * 128 + i) (lineByte d i)) s).putToks toks
  if pois then s.setPoison line true else if m == BitVec.allOnes 128 then s.setPoison line false else s

/-! ### System physical structures (13 R461) -/

/-- The link of an I/O die's host port is up (21 R423): 1 PCI Express, 2 CXL; 3 and 4 the same with the link down, 0 never trained. -/
def portUp (s : State) (io : Nat) : Bool := tget 0 s.links io == 1 || tget 0 s.links io == 2
/-- A port of the host carries accesses (21 R424). -/
def hostUp (s : State) : Bool := portUp s 0 || portUp s 1
/-- An 8-byte access of system physical memory succeeds. -/
def sysOk (s : State) (a : Nat) : Bool :=
  let k := sysKey s a
  if isHost k then hostUp s && !s.poisoned (lineOf k) else !s.poisoned (lineOf k)
/-- An aligned 8-byte read of system physical memory. -/
def sysWord (s : State) (a : Nat) : DWord := BitVec.ofNat 64 (leNat (s.bytes (sysKey s a) 8))
/-- The copies of a line that a write of the services has changed at its home are invalidated. -/
def State.dropCopies (s : State) (line : Nat) : State :=
  let e := s.dirEnt line
  if e.hold.isEmpty then s
  else
    let t := e.hold.foldl (fun s c => s.send (.inv c line s.next)) s
    { (t.setDir line { e with txns := e.txns ++ [⟨s.next, e.hold, [], .victim⟩] }) with next := s.next + 1 }
/-- The lines of a slice's SRAM, most recently used first, each with whether it is dirty there (13 R279). -/
def sramOf (s : State) (slice : Nat) : List (Nat × Bool) := tget [] s.sram slice
def State.setSram (s : State) (slice : Nat) (l : List (Nat × Bool)) : State := { s with sram := tput [] s.sram slice l }
/-- A level's list with a line used. -/
def usedLine (l : List (Nat × Bool)) (line : Nat) (dirty : Bool) : List (Nat × Bool) :=
  (line, dirty || ((l.find? (·.1 == line)).any (·.2))) :: l.filter (·.1 != line)
/-- A line that its slice's SRAM holds is written there. -/
def State.dirtySram (s : State) (line : Nat) : State :=
  let l := sramOf s (sliceOf line)
  if l.any (·.1 == line) then s.setSram (sliceOf line) (usedLine l line true) else s
/-- The cells of a line with held reductions, each with its NEXT: a service's write of the line has them tested again (18 R371). -/
def heldCells (s : State) (line : Nat) : List (Nat × Nat) :=
  (((tget [] s.defer (sliceOf line)).filterMap fun d => match d with
    | .redo r => if lineOf r.key == line then some r.key else none
    | _ => none).eraseDups).map fun k => (k, leNat (s.bytes (k + 8) 4))
/-- An aligned 8-byte write of system physical memory; one to the host is lost when no port carries it (21 R424). -/
def State.setSysWord (s : State) (a : Nat) (v : DWord) : State :=
  let k := sysKey s a
  if isHost k && !hostUp s then s else 
    State.dirtySram (({ s with nexts := s.nexts ++ heldCells s (lineOf k) }.setBytes k (leBytes 8 v.toNat)).dropCopies (lineOf k)) (lineOf k)

/-- A machine-check record (20 R414): WIDX advances for every record; one whose slot holds an unread record is not written. -/
def State.mcRecord (s : State) (ctx sev unit die index : Nat) (addr : DWord) : State :=
  let w := bits s.mcidx 0 32
  let lgn := bits s.mcring 0 5
  let s' := { s with mcidx := setBits s.mcidx 0 32 (w + 1) }
  if lgn < 4 || 16 < lgn || 2 ^ lgn ≤ (w + 2 ^ 32 - bits s.mcidx 32 32) % 2 ^ 32 then s'
  else
    let a := bits s.mcring 12 52 * 4096 + 32 * (w % 2 ^ lgn)
    let place := dw (ctx * 2 ^ 48 + sev * 2 ^ 44 + unit * 2 ^ 36 + die * 2 ^ 32 + index)
    let time := if die < 12 then (tget Die.reset s.dies die).time else s.ptime
    (((s'.setSysWord a (dw w)).setSysWord (a + 8) time).setSysWord (a + 16) place).setSysWord (a + 24) addr

/-- The address of a context entry (20 R400). -/
def ctxEntryAddr (s : State) (c : Nat) : Nat := bits s.ctxtbase 22 42 * 2 ^ 22 + 64 * c
/-- Word i of a context entry (20 R401). -/
def ctxWord (s : State) (c i : Nat) : DWord := sysWord s (ctxEntryAddr s c + 8 * i)
/-- A context entry can be read and is valid (20 R401). -/
def ctxValid (s : State) (c : Nat) : Bool :=
  (List.range 8).all (fun i => sysOk s (ctxEntryAddr s c + 8 * i)) &&
  (ctxWord s c 0).getLsbD 0 && bits (ctxWord s c 0) 2 10 == 0 && bits (ctxWord s c 1) 31 33 == 0 &&
  bits (ctxWord s c 2) 0 12 == 0 && bits (ctxWord s c 4) 5 7 == 0 && ctxWord s c 7 == 0 &&
  4 ≤ bits (ctxWord s c 4) 0 5 && bits (ctxWord s c 4) 0 5 ≤ 16
/-- PRIV of a context's entry. -/
def ctxPriv (s : State) (c : Nat) : Bool := (ctxWord s c 0).getLsbD 1

/-! ### Page tables (13 R271-R274) -/

/-- An access for translation. -/
inductive Acc where
  | read | write | exec
  deriving DecidableEq, Repr

/-- What a walk finds: a leaf with the size it maps, or an invalid entry's FLT. -/
inductive Walk where
  | leaf (e : DWord) (size : Nat)
  | none (flt : Bool)
  deriving DecidableEq, Repr

/-- The fields of a leaf entry. -/
def leafCoh (e : DWord) : BitVec 2 := e.extractLsb' 59 2
def leafLoc (e : DWord) : Nat := bits e 52 2
def leafPa (e : DWord) (size : Nat) : Nat := bits e 12 40 * 4096 / size * size

/-- A leaf entry is well formed (13 R271, R272). -/
def leafOk (s : State) (e : DWord) (level size : Nat) : Bool :=
  let hm := e.getLsbD 58
  let hdie := bits e 54 4
  let pa := bits e 12 40 * 4096
  let cont := e.getLsbD 4
  bits e 5 7 == 0 && !e.getLsbD 1 && leafCoh e != 3 && leafLoc e != 3 && hdie ≤ 11 && (!cont || level == 1) &&
  (cont || pa % size == 0) && (leafLoc e == 0 || (!hm && leafCoh e != 0)) && (hdie == 0 || (!hm && leafLoc e == 0)) &&
  (leafLoc e != 0 || leafPa e size + size ≤ (if hm then ilvSize s else (64 - s.pmap.toNat) * 2 ^ 30))

/-- Bytes a leaf of a level maps; 64 KiB with CONT. -/
def leafSize (e : DWord) (level : Nat) : Nat :=
  if level == 1 then (if e.getLsbD 4 then 2 ^ 16 else 2 ^ 12) else if level == 2 then 2 ^ 21 else 2 ^ 30

/-- The leaf a CONT group answers with: the entry itself, or, where the sixteen disagree, any one of them (13 R272). -/
def contLeaf (s : State) (tab idx : Nat) : DWord :=
  let ent (i : Nat) := sysWord s (tab + 8 * (idx / 16 * 16 + i))
  let e := ent (idx % 16)
  let same (a b : DWord) := setBits a 12 4 0 == setBits b 12 4 0
  if (List.range 16).all fun i => same e (ent i) then e else ent (Config.choice s.free % 16)

/-- The walk from a table at `level` (13 R271-R273): each entry one 8-byte read; a malformed or unreadable entry counts as
V = 0, FLT = 0. -/
def walkFrom (s : State) (va : Nat) : Nat → Nat → Walk
  | 0, _ => .none false
  | level + 1, tab =>
    let idx := va / 2 ^ (12 + 9 * level) % 512
    if !sysOk s (tab + 8 * idx) then .none false
    else
      let e := sysWord s (tab + 8 * idx)
      if !e.getLsbD 0 then .none (e.getLsbD 2)
      else if e.getLsbD 3 then
        if level == 3 then .none false
        else
          let e := if level == 0 && e.getLsbD 4 then contLeaf s tab idx else e
          let size := leafSize e (level + 1)
          if !e.getLsbD 0 then .none (e.getLsbD 2)
          else if e.getLsbD 3 && leafOk s e (level + 1) size then .leaf e size else .none false
      else if level == 0 || bits e 4 8 != 0 || e.getLsbD 1 || bits e 52 12 != 0 then .none false
      else walkFrom s va level (bits e 12 40 * 4096)

/-- The walk of a context's four-level table. -/
def walk (s : State) (ctx va : Nat) : Walk :=
  if ctxValid s ctx then walkFrom s va 4 (bits (ctxWord s ctx 0) 12 52 * 4096) else .none false

/-- The first entry a walk from a table at a level cannot read (13 R272, R461). -/
def unreadEntry (s : State) (va : Nat) : Nat → Nat → Option Nat
  | 0, _ => none
  | level + 1, tab =>
    let a := tab + 8 * (va / 2 ^ (12 + 9 * level) % 512)
    let e := sysWord s a
    if !sysOk s a then some a
    else if !e.getLsbD 0 || e.getLsbD 3 || level == 0 || bits e 4 8 != 0 || e.getLsbD 1 || bits e 52 12 != 0 then none
    else unreadEntry s va level (bits e 12 40 * 4096)

/-- The entry of a context's table that a walk to an address cannot read. -/
def walkBad (s : State) (ctx va : Nat) : Option Nat :=
  if ctxValid s ctx then unreadEntry s va 4 (bits (ctxWord s ctx 0) 12 52 * 4096) else none

/-- A core's translation cache entry for an address (13 R276). -/
def tlbHit (s : State) (core ctx va : Nat) : Option TlbEnt :=
  s.tlb.find? fun t => t.core == core && t.ctx == ctx && t.base ≤ va && va < t.base + t.size

/-- The cached entry, else the walk (13 R274). -/
def lookup (s : State) (core ctx va : Nat) : Walk :=
  match tlbHit s core ctx va with
  | some t => .leaf t.leaf t.size
  | none => walk s ctx va

/-- What translation answers (13 R274): the byte's key and protocol, a park, or a refusal; `outside` is the refusal of an
address outside its space, which is checked first. -/
inductive Tr where
  | ok (key : Nat) (coh : BitVec 2)
  | park | xlate | protect | outside
  deriving DecidableEq, Repr

/-- The key and protocol of a byte under a leaf; a peer page of an unusable peer does not translate (21 R427). -/
def leafKey (s : State) (e : DWord) (size va : Nat) : Tr :=
  let pa := leafPa e size + va % size
  match leafLoc e with
  | 0 => .ok (if e.getLsbD 58 then ilvKey s pa else hbmKey (bits e 54 4) pa) (leafCoh e)
  | 1 => .ok (hostKey pa) (leafCoh e)
  | _ => if (tget 0 s.peers (2 * (pa / 2 ^ 46))).getLsbD 63 then .ok (peerKey pa) (leafCoh e) else .xlate

/-- Translation of a global address. -/
def translateG (s : State) (core ctx : Nat) (a : DWord) (k : Acc) : Tr :=
  if !globalAddr a then .outside
  else
    match lookup s core ctx a.toNat with
    | .none flt => if flt then .park else .xlate
    | .leaf e size =>
      if k == .exec && !e.getLsbD 62 then .protect
      else if k == .write && !e.getLsbD 61 then (if e.getLsbD 2 then .park else .protect)
      else leafKey s e size a.toNat

/-- Translation of a carve address (13 R267, R277): directory-tracked storage of the one context the region names. -/
def translateM (s : State) (ctx : Nat) (a : DWord) : Tr :=
  let d := a.toNat / 2 ^ 30
  let o := a.toNat % 2 ^ 30
  let die := s.die d
  if 12 ≤ d || die.mcSize.toNat * 2 ^ 21 ≤ o then .outside
  else if die.mcPend || die.mcCtx.toNat != ctx then .protect
  else .ok (carveKey d o) 0

/-- The block an address of .s or .c names: block j of the cluster (05 R103). -/
def clusterBlk (s : State) (b : Blk) (j : Nat) : Option Blk :=
  (s.blks.find? fun x => x.2.used && x.2.kind == .grid && x.2.gid == b.gid && x.2.cluster == b.cluster && x.2.j == j).map (·.2)

/-- A byte of a block's scratch; its granule index is checked against the lapsed ones by `granDead`. -/
def scratchByte (b : Blk) (o : Nat) : Tr :=
  match b.scratch with
  | some r => if o < r.len * 4096 then .ok (scratchKey r.core (r.start * 4096 + o)) 2 else .outside
  | none => .outside

/-- Translation of a scratch or cluster-scratch address. -/
def translateS (s : State) (b : Blk) (cl : Bool) (a : DWord) : Tr :=
  if b.kind != .grid || a.toNat < 0x10000 then .outside
  else
    let o := a.toNat - 0x10000
    if !cl then scratchByte b o
    else match clusterBlk s b (o / 2 ^ 24) with
      | some x => scratchByte x (o % 2 ^ 24)
      | none => .outside

/-- Translation by R274 in the space SP names (07 R140). -/
def translate (s : State) (core ctx : Nat) (b : Blk) (sp : BitVec 2) (k : Acc) (a : DWord) : Tr :=
  match sp.toNat with
  | 0 => translateG s core ctx a k
  | 1 => translateS s b false a
  | 2 => translateS s b true a
  | _ => translateM s ctx a

/-- The translation of an address kept by its core (13 R276). -/
def State.fillTlb (s : State) (core ctx : Nat) (a : DWord) : State :=
  match tlbHit s core ctx a.toNat, walk s ctx a.toNat with
  | none, .leaf e size => { s with tlb := s.tlb ++ [⟨core, ctx, a.toNat / size * size, size, e⟩] }
  | _, _ => s

/-! ### Granules (05 R116-R119) -/

def State.gran (s : State) (k : Nat) : Gran := tget Gran.hold s.grans (k / 4096)
def State.setGran (s : State) (k : Nat) (g : Gran) : State := { s with grans := tput Gran.hold s.grans (k / 4096) g }
/-- The fade window, 1 ms of TIME (05 R117). -/
def fadeWindow : Nat := 16000000
/-- A granule's state at a TIME. -/
def granExpired (g : Gran) (now : DWord) : Bool := g.cls == 1 && !g.lapsed && fadeWindow ≤ (now - g.tw).toNat
/-- The granule of a byte keeps lifetime classes: scratch or carve storage. -/
def hasGran (k : Nat) : Bool := isScratch k || isCarve k
/-- A byte lies in an expired fade granule. -/
def State.expired (s : State) (now : DWord) (k : Nat) : Bool := hasGran k && granExpired (s.gran k) now
/-- An access through block `b` touches a lapsed granule (05 R118): of carve storage, or of the block's scratch addresses. -/
def State.lapsed (s : State) (k : Nat) (sp : BitVec 2) (b : Blk) (a : DWord) : Bool :=
  if isCarve k then (s.gran k).lapsed
  else if isScratch k then
    let o := a.toNat - 0x10000
    let x := if sp == 2 then (clusterBlk s b (o / 2 ^ 24)).getD b else b
    x.lapsed.contains (o % 2 ^ 24 / 4096)
  else false
/-- No line cache and no poison keeps anything older of a granule. -/
def State.forgetGran (s : State) (k : Nat) : State :=
  { s with
    lines := s.lines.filter fun p => p.1 % 2 ^ 70 / 32 != k / 4096,
    pois := s.pois.filter fun p => !(p.1 < 2 ^ 70 && p.1 / 32 == k / 4096) && !(2 ^ 70 ≤ p.1 && (p.1 - 2 ^ 70) / 4096 == k / 4096) }
/-- A granule zero-filled; no line cache keeps an older byte of it. -/
def State.zeroGran (s : State) (k : Nat) : State :=
  (s.setBytes (k / 4096 * 4096) (List.replicate 4096 0)).forgetGran k
/-- The zero-fill of an expired fade granule before a write, and its new tw (05 R117). -/
def State.touchGran (s : State) (now : DWord) (k : Nat) : State :=
  if !hasGran k then s
  else
    let g := s.gran k
    let s := if granExpired g now then s.zeroGran k else s
    if g.cls == 1 then s.setGran k { g with tw := now } else s
/-- The zero-fill of a store that traps on a lapsed granule, which it still makes for expired fade granules (05 R119); like any write of the granule
it sets tw (DESIGN CHOICE, log entry 10). -/
def State.zeroExpired (s : State) (now : DWord) (k : Nat) : State :=
  if s.expired now k then s.touchGran now k else s

/-- The block whose scratch holds a granule that has not lapsed from it, with the granule's index there. -/
def granOwner (s : State) (g : Nat) : Option (Nat × Nat) :=
  s.blks.findSome? fun x =>
    match x.2.scratch with
    | some r =>
      let base := scratchKey r.core (r.start * 4096) / 4096
      if x.2.used && base ≤ g && g < base + r.len && !x.2.lapsed.contains (g - base) then some (x.1, g - base) else none
    | none => none
/-- An until granule lapses (05 R118): carve storage stays reserved (13 R278), scratch storage leaves its block. -/
def State.lapseGran (s : State) (g : Nat) : State :=
  if isCarve (g * 4096) then
    s.setGran (g * 4096) { s.gran (g * 4096) with lapsed := true }
  else
    match granOwner s g with
    | some (b, i) =>
      let x := s.blk b
      ((s.setBlk b { x with lapsed := x.lapsed ++ [i] }).setGran (g * 4096) Gran.hold).passSoon x.die
    | none => s

/-! ### Page requests (13 R275) -/

/-- The page requests of a die that are out with the host (13 R282: at most 32). -/
def sentReqs (s : State) (die : Nat) : Nat := (s.preqs.filter fun p => p.die == die && p.sent).length
/-- A page request goes to the host. -/
def State.emitReq (s : State) (p : PageReq) : State := s.emit (.pageReq p.n (bits (ctxWord s p.ctx 1) 0 20) p.page p.write)

/-- The request for a page: joined where one for the page is outstanding, whatever it asks for, else sent, or queued in the walker of a
die that has 32 out (13 R275, R282); and the state that has made it. -/
def State.pageRequest (s : State) (ctx : Nat) (a : DWord) (write : Bool) (die : Nat) : Nat × State :=
  let page := (a >>> 12) <<< 12
  match s.preqs.find? fun p => p.ctx == ctx && p.page == page with
  | some p => (p.n, s)
  | none =>
    let n := s.next
    let r : PageReq := ⟨n, ctx, page, write, die, sentReqs s die < 32⟩
    let s := { s with next := n + 1, preqs := s.preqs ++ [r] }
    (n, if r.sent then s.emitReq r else s)

/-- The oldest queued request of a die goes out once it has fewer than 32 out. -/
def State.nextReq (s : State) (die : Nat) : State :=
  match s.preqs.find? fun p => p.die == die && !p.sent with
  | some p =>
    let out (x : PageReq) : PageReq := if x.n == p.n then { x with sent := true } else x
    if sentReqs s die < 32 then State.emitReq { s with preqs := s.preqs.map out } p else s
  | none => s

/-- An access parks its fragment on its page (13 R275). -/
def State.parkOn (s : State) (ctx : Nat) (a : DWord) (write : Bool) (die : Nat) : Res :=
  let p := s.pageRequest ctx a write die
  .park ⟨p.1, a, write⟩ p.2

/-! ### The checks of an access (14 R284, 09 R192, 18 R363) -/

/-- One unit an access touches: its lane, address and size in bytes. -/
structure Acs where
  lane : Nat
  addr : DWord
  size : Nat
  deriving DecidableEq, Repr

/-- The lowest address of a list of units, where there is one. -/
def lowest (l : List Acs) : Option DWord := (minBy (fun u => u.addr.toNat) l).map (·.addr)

/-- What the checks answer: each unit with its key and protocol, or how the op ends. -/
inductive Chk where
  | ok (l : List (Acs × Nat × BitVec 2)) (s : State)
  | bad (r : Res)
  deriving DecidableEq, Repr

/-- Each entry that walks to these addresses could not read is recorded once (13 R461). -/
def State.noteWalks (s : State) (core ctx : Nat) (l : List DWord) : State :=
  (l.filterMap fun a => if (tlbHit s core ctx a.toNat).isSome then none else walkBad s ctx a.toNat).eraseDups.foldl
    (fun s a => s.mcRecord ctx 1 10 (dieOfCore core) (core % coresPerDie) (dw a)) s

/-- Checks 1 to 5 in order, over all units at once: alignment, space, refusal, park, expiry. `fill` makes the zero-fills of a
plain store (05 R117, R119); an atomic, which reads, makes none. `no` are keys the op is refused at with check 2 (18 R363, 21 R424). -/
def checkAcs (s : State) (core ctx : Nat) (b : Blk) (sp : BitVec 2) (kind : Acc) (reads fill : Bool) (us : List Acs)
    (no : Nat → Bool := fun _ => false) : Chk :=
  match lowest (us.filter fun u => u.addr.toNat % u.size != 0) with
  | some a => .bad (.trap .align a s)
  | none =>
    let tr := us.map fun u => (u, translate s core ctx b sp kind u.addr)
    let at' (p : Tr → Bool) := lowest ((tr.filter fun x => p x.2).map (·.1))
    match at' (fun t => match t with | .outside => true | .ok k _ => no k | _ => false) with
    | some a => .bad (.trap .protect a s)
    | none =>
      match at' (fun t => t == .xlate || t == .protect) with
      | some a =>
        .bad (.trap (if (tr.any fun x => x.1.addr == a && x.2 == .xlate) then .xlate else .protect) a
          (if sp == 0 then s.noteWalks core ctx ((tr.filter (·.2 == .xlate)).map (·.1.addr)) else s))
      | none =>
        match at' (· == .park) with
        | some a => .bad (s.parkOn ctx a (kind == .write) (dieOfCore core))
        | none =>
          let l := tr.filterMap fun x => match x.2 with | .ok k c => some (x.1, k, c) | _ => none
          let now := s.timeOf (dieOfCore core)
          let dead (x : Acs × Nat × BitVec 2) := s.lapsed x.2.1 sp b x.1.addr
          let s' := if fill then l.foldl (fun s x => if dead x then s else s.zeroExpired now x.2.1) s else s
          match lowest ((l.filter fun x => dead x || (reads && s.expired now x.2.1)).map (·.1)) with
          | some a => .bad (.trap .expired a s')
          | none => .ok l (if sp == 0 then us.foldl (fun s u => s.fillTlb core ctx u.addr) s' else s')

end Sys2Proof.Machine
end

