-- ==== Sys2Proof/Machine/Levels.lean ====
section
/-! DEFINITION. The levels that hold global lines on their home die: home slice SRAM and memory-side cache, and the residency
handles that rule their allocation (13 R279-R281). -/
namespace Sys2Proof.Machine

/-- Lines one slice's SRAM holds: 2 MiB (01 R15). -/
def sramLines : Nat := 16384
/-- Lines the memory-side cache of a die holds: 1.5 GiB less its carve region (01 R15, 13 R277). -/
def mscLines (s : State) (d : Nat) : Nat := 12582912 - 16384 * (s.die d).mcSize.toNat

/-! ### The handle of a line (R280) -/

/-- The offset in the interleaved space of a byte of HBM4E, where it lies there (13 R269). -/
def ilvOff (s : State) (key : Nat) : Option Nat :=
  let lo := (64 - s.pmap.toNat) * 2 ^ 30
  let o := homeOff key
  if o < lo then none else some ((o - lo) / 4096 * 12 * 4096 + homeDie key * 4096 + o % 4096)
/-- The virtual address by which a cached translation reaches a byte of HBM4E. -/
def tlbVa (s : State) (t : TlbEnt) (key : Nat) : Option Nat :=
  let pa := leafPa t.leaf t.size
  let at' (p : Nat) : Option Nat := if pa ≤ p && p < pa + t.size then some (t.base + (p - pa)) else none
  if leafLoc t.leaf != 0 then none
  else if t.leaf.getLsbD 58 then (ilvOff s key).bind at'
  else if bits t.leaf 54 4 == homeDie key then at' (homeOff key) else none
/-- The range of a valid handle of a context holds an address. -/
def handleHas (h : DWord × DWord) (ctx va : Nat) : Bool :=
  h.2.getLsbD 63 && bits h.1 48 16 == ctx && bits h.1 12 36 ≤ va / 4096 && va / 4096 < bits h.1 12 36 + bits h.2 0 37
/-- PRIO of a handle. -/
def handlePrio (h : DWord × DWord) : Nat := bits h.2 60 3
/-- Residency handle h of a die. -/
def handleOf (s : State) (d h : Nat) : DWord × DWord := tget (0, 0) (s.die d).handles h
/-- The handle a line is of: the one with the higher PRIO, then the lower number, of those whose range reaches the line through a cached
translation (R280). -/
def lineHandle (s : State) (line : Nat) : Option Nat :=
  let d := homeDie (line * 128)
  let hs := (tkeys (s.die d).handles).filter fun h => (handleOf s d h).2.getLsbD 63
  if hs.isEmpty then none
  else
    let vas := s.tlb.filterMap fun t => (tlbVa s t (line * 128)).map fun va => (t.ctx, va)
    minBy (fun h => (7 - handlePrio (handleOf s d h)) * 256 + h) (hs.filter fun h => vas.any fun v => handleHas (handleOf s d h) v.1 v.2)
/-- PRIO of a line's handle, where it has one. -/
def linePrio (s : State) (line : Nat) : Option Nat :=
  (lineHandle s line).map fun h => handlePrio (handleOf s (homeDie (line * 128)) h)
/-- TIER of a handle of a die (R280). -/
def State.setTier (s : State) (d h : Nat) (t : Nat) : State :=
  let x := s.die d
  let v := handleOf s d h
  s.setDie d { x with handles := tput (0, 0) x.handles h (v.1, setBits v.2 58 2 t) }
/-- TIER of a line's handle rises when it is allocated (R281). -/
def State.raiseTier (s : State) (line : Nat) (t : Nat) : State :=
  let d := homeDie (line * 128)
  match lineHandle s line with
  | some h => if bits (handleOf s d h).2 58 2 < t then s.setTier d h t else s
  | none => s

/-! ### Victims (R281) -/

/-- What a level evicts for a new line: one line, or a whole handle. -/
inductive Victim where
  | line (l : Nat) | handle (h : Nat)
  deriving DecidableEq, Repr

/-- The victim of a new line at a level, whose lines stand most recently used first: a line of a PRIO 0 handle, then a line of no handle, then, for a
line of PRIO p, the whole handle of the lowest PRIO below p, the least recently touched. -/
def victimOf (s : State) (lvl : List Nat) (p : Option Nat) : Option Victim :=
  let old := lvl.reverse
  match old.find? fun l => linePrio s l == some 0 with
  | some l => some (.line l)
  | none =>
    match old.find? fun l => (lineHandle s l).isNone with
    | some l => some (.line l)
    | none =>
      let hs := (lvl.filterMap (lineHandle s)).eraseDups
      let d := (lvl.head?.map fun l => homeDie (l * 128)).getD 0
      let low := hs.reverse.filter fun h => handlePrio (handleOf s d h) < p.getD 0
      (minBy (fun h => handlePrio (handleOf s d h)) low).map .handle

/-! ### The levels -/

/-- The lines of a die's memory-side cache. -/
def mscOf (s : State) (d : Nat) : List (Nat × Bool) := tget [] s.msc d
def State.setMsc (s : State) (d : Nat) (l : List (Nat × Bool)) : State := { s with msc := tput [] s.msc d l }

/-- The lines of a handle leave the SRAM of its die's slices. -/
def State.dropFromSram (s : State) (d : Nat) (p : Nat → Bool) : State :=
  (List.range 24).foldl (fun s i =>
    let l := sramOf s (24 * d + i)
    if l.any fun x => p x.1 then s.setSram (24 * d + i) (l.filter fun x => !p x.1) else s) s

/-- A line enters or is used in its die's memory-side cache, where R281 admits it; a whole handle taken there is evicted. -/
def State.putMsc (s : State) (line : Nat) (dirty : Bool) : State :=
  let d := homeDie (line * 128)
  let l := mscOf s d
  let put (s : State) : State := (s.setMsc d (usedLine (mscOf s d) line dirty)).raiseTier line 1
  if l.any (·.1 == line) then s.setMsc d (usedLine l line dirty)
  else if l.length < mscLines s d then put s
  else match victimOf s (l.map (·.1)) (linePrio s line) with
    | none => s
    | some (.line v) => put (s.setMsc d (l.filter (·.1 != v)))
    | some (.handle h) =>
      let mine (x : Nat) : Bool := lineHandle s x == some h
      put (((s.setMsc d (l.filter fun x => !mine x.1)).dropFromSram d mine).setTier d h 0)

/-- The lines of a handle in the SRAM of a die's slices, with whether each is dirty. -/
def handleSram (s : State) (d h : Nat) : List (Nat × Bool) :=
  ((List.range 24).flatMap fun i => sramOf s (24 * d + i)).filter fun x => lineHandle s x.1 == some h

/-- A line enters or is used in its slice's SRAM, where R281 admits it; a dirty victim goes on to the memory-side cache, and a whole handle taken
is demoted there. -/
def State.putSram (s : State) (line : Nat) (dirty : Bool) : State :=
  let d := homeDie (line * 128)
  let sl := sliceOf line
  let l := sramOf s sl
  let put (s : State) : State := (s.setSram sl (usedLine (sramOf s sl) line dirty)).raiseTier line 2
  let p := linePrio s line
  if l.any (·.1 == line) then s.setSram sl (usedLine l line dirty)
  else if p.any fun p => 1 ≤ p && p ≤ 3 then s
  else if l.length < sramLines then put s
  else match victimOf s (l.map (·.1)) p with
    | none => s
    | some (.line v) =>
      let t := s.setSram sl (l.filter (·.1 != v))
      put (if l.any (· == (v, true)) then t.putMsc v true else t)
    | some (.handle h) =>
      let vs := handleSram s d h
      let t := (s.dropFromSram d fun x => lineHandle s x == some h).setTier d h 1
      put (vs.foldl (fun t v => t.putMsc v.1 v.2) t)

/-- A global line is read or written at its home: both levels take it, as R281 admits it; what is written is dirty in the highest that holds it
(R279). Carve lines stand in neither (R278). -/
def State.useLine (s : State) (line : Nat) (write : Bool) : State :=
  if !(isHbm (line * 128) && homeDie (line * 128) < 12) then s
  else
    let s := (s.putMsc line false).putSram line false
    if !write then s
    else
      let l := sramOf s (sliceOf line)
      if l.any (·.1 == line) then s.setSram (sliceOf line) (usedLine l line true)
      else
        let d := homeDie (line * 128)
        if (mscOf s d).any (·.1 == line) then s.setMsc d (usedLine (mscOf s d) line true) else s

/-- A masked write merged at a line's home, in the levels that hold it. -/
def State.mergeHome (s : State) (line : Nat) (m : LineMask) (d : LineData) (pois : Bool) (toks : Toks := []) : State :=
  (s.merge line m d pois toks).useLine line true

/-- A slice's SRAM is emptied, its dirty lines written back: to the memory-side cache where it holds them, else to HBM4E (22 R439). -/
def State.flushSram (s : State) (slice : Nat) : State :=
  let d := slice / 24
  ((sramOf s slice).foldl (fun (s : State) x =>
    if x.2 && (mscOf s d).any (·.1 == x.1) then s.setMsc d (usedLine (mscOf s d) x.1 true) else s) s).setSram slice []

/-- The memory-side cache of a die is brought within its capacity (13 R277). DESIGN CHOICE (log 13): the least recently used
lines leave; the spec does not say which. -/
def State.fitMsc (s : State) (d : Nat) : State := s.setMsc d ((mscOf s d).take (mscLines s d))

/-- The lines of a die's slices held dirty in their SRAM (16 R341). -/
def sramDirty (s : State) (d : Nat) : List Nat :=
  (List.range 24).flatMap fun i => ((sramOf s (24 * d + i)).filter (·.2)).map (·.1)
/-- The slices of a die hold no line. -/
def State.clearSram (s : State) (d : Nat) : State := (List.range 24).foldl (fun s i => s.setSram (24 * d + i) []) s

end Sys2Proof.Machine
end

