-- ==== Sys2Proof/Machine/Coh.lean ====
section
/-! DEFINITION. Coherence: line cache entries, write-backs, the home directory and its messages, leases, releases,
acquires, tokens and channels (13 R279, 15 R306-R310, 16 R315-R341). -/
namespace Sys2Proof.Machine

/-! ### Channels (15 R306, R307) -/

/-- Bridges between two compute dies (01 R12). -/
def bridges (a b : Nat) : Nat :=
  let d (x y : Nat) := (x - y) + (y - x)
  d (a % 6) (b % 6) + d (a / 6) (b / 6)
/-- Bridges from a compute die to an I/O die: along its own row, then the bridge to the I/O die. -/
def ioBridges (d io : Nat) : Nat := (if io == 0 then d % 6 else 5 - d % 6) + 1
/-- The I/O die an access leaves through (21 R424): the nearer, ties to I/O die 0, the other where its port is down. -/
def ioOf (s : State) (d : Nat) : Nat :=
  let near := if ioBridges d 0 ≤ ioBridges d 1 then 0 else 1
  if !portUp s near && portUp s (1 - near) then 1 - near else near
/-- The I/O die of the scale-out port a peer's pages leave through (21 R427, 15 R314: ports 0 to 3 on I/O die 0, 4 to 7 on I/O die 1). -/
def peerIo (s : State) (key : Nat) : Nat := bits (tget 0 s.peers (2 * ((key - 2 ^ 53) / 2 ^ 46))) 48 3 / 4
/-- The agent that is home to a line, as a die of R306. -/
def homeAgent (s : State) (line from' : Nat) : Nat :=
  let d := homeDie (line * 128)
  if d == 12 then 12 + (if isPeer (line * 128) then peerIo s (line * 128) else ioOf s from') else d
def chanKey (a b : Nat) : Nat := a * 16 + b
/-- The operations of a channel that have left and are not performed, in the order they left. -/
def chanOut (s : State) (a b : Nat) : List Nat := tget [] s.chanOpen (chanKey a b)
/-- The channel holds as many unapplied operations as it may (R306). -/
def chanFull (s : State) (a b : Nat) : Bool := a != b && 2 ^ 30 ≤ (chanOut s a b).length
/-- An operation of die `a` leaves for a home on agent `b` with the channel's next number (R306). -/
def State.carry (s : State) (a b : Nat) (toks : Toks) : Carry × State :=
  if a == b then (⟨b, 0, toks⟩, s)
  else
    let n := (tget 0 s.chanSeq (chanKey a b) + 1) % 2 ^ 32
    (⟨b, n, toks⟩, { s with
      chanSeq := tput 0 s.chanSeq (chanKey a b) n, chanOpen := tput [] s.chanOpen (chanKey a b) (chanOut s a b ++ [n]) })
/-- An operation that is performed as it leaves. -/
def State.chanStep (s : State) (a b : Nat) : State :=
  if a == b then s
  else { s with chanSeq := tput 0 s.chanSeq (chanKey a b) ((tget 0 s.chanSeq (chanKey a b) + 1) % 2 ^ 32) }
/-- An operation of die `a` has been performed at its home, or is lost. -/
def State.performed (s : State) (a : Nat) (c : Carry) : State :=
  if a == c.home then s else { s with chanOpen := tput [] s.chanOpen (chanKey a c.home) ((chanOut s a c.home).erase c.num) }
/-- APPLIED(a, b): the number up to which every operation of the channel has been performed (R306). -/
def appliedOf (s : State) (a b : Nat) : Nat :=
  match chanOut s a b with
  | [] => tget 0 s.chanSeq (chanKey a b)
  | n :: _ => (n + 2 ^ 32 - 1) % 2 ^ 32

/-- The core and line of a write that counts on a channel. -/
def writeOf : Instr → Option (Nat × Nat)
  | .wb core line _ _ _ _ => some (core, line)
  | .atom r => some (coreOf r.cid, lineOf r.key)
  | .redoRequest r => some (coreOf r.cid, lineOf r.key)
  | .redoRetry r => some (coreOf r.cid, lineOf r.key)
  | _ => none

/-- The requests held at any home. -/
def State.heldAll (s : State) : List Instr := s.dir.flatMap fun p => p.2.held

/-! ### Tokens (15 R308) -/

/-- The token of a release of die `a`, of system scope or not: its latest number on every channel. -/
def tokenOf (s : State) (a : Nat) (sys : Bool := false) : Token :=
  ⟨a, (s.die a).epoch, (List.range 14).filterMap fun b =>
    if b == a then none else
      let n := tget 0 s.chanSeq (chanKey a b)
      if n == 0 then none else some (b, (s.die b).epoch, n), sys⟩
/-- The tokens of a release at a scope that writes these bytes: only package and system scope have any. -/
def toksFor (s : State) (sc : Option Nat) (a : Nat) (keys : List Nat) : Toks :=
  if sc.any (4 ≤ ·) then keys.map fun k => (k, [tokenOf s a (sc.any (5 ≤ ·))]) else []
/-- The tokens kept at home with the bytes of a line. -/
def lineToks (s : State) (line : Nat) : Toks := s.tokens.filter fun p => lineOf p.1 == line
/-- The tokens of some bytes, once each. -/
def toksOf (l : Toks) (keys : List Nat) : List Token := ((l.filter fun p => keys.contains p.1).flatMap (·.2)).eraseDups
/-- Tokens without those of the bytes of a mask. -/
def toksLess (l : Toks) (m : LineMask) : Toks := l.filter fun p => !m.getLsbD (p.1 % 128)
/-- The tokens of the bytes of a mask. -/
def toksIn (l : Toks) (m : LineMask) : Toks := l.filter fun p => m.getLsbD (p.1 % 128)

/-- A write to a host or peer page leaves its port once every mark of the system-scope releases it carries has been applied (21 R425, R428). -/
def portReady (s : State) (key : Nat) (toks : Toks) : Bool :=
  !(isHost key || isPeer key) || toks.all fun p => p.2.all fun t =>
    !t.sys || t.epoch != (s.die t.src).epoch || t.marks.all fun m =>
      m.2.1 != (s.die m.1).epoch || reached (BitVec.ofNat 32 (appliedOf s t.src m.1)) (BitVec.ofNat 32 m.2.2)

/-! ### Line cache (16 R317-R319, R326) -/

/-- Line data with the bytes of a mask replaced. -/
def overBytes (m : LineMask) (new old : LineData) : LineData :=
  (maskBytes m).foldl (fun b i => setLineByte b i (lineByte new i)) old

/-- A clean self-invalidating entry has expired (16 R326); not while a lease on it is held. -/
def lcExpired (s : State) (core line : Nat) : Bool :=
  let e := s.lc core line
  e.selfInv && e.dirty == 0 && e.valid != 0 && !((s.core core).leases.any (·.line == line)) &&
  e.fill + 2048 ≤ s.cycOf (dieOfCore core)

/-- The byte a core's line cache holds. -/
def lcByte (s : State) (core key : Nat) : Option Byte :=
  let e := s.lc core (lineOf key)
  let i := key % 128
  if e.valid.getLsbD i && !lcExpired s core (lineOf key) then some (lineByte e.bytes i) else none

/-- Bytes of a line that leave a core are kept for the loads that wait for the line: the home answers those without them (16 R318). -/
def State.giveUp (s : State) (core line : Nat) (m : LineMask) (d : LineData) (toks : Toks) : State :=
  let c := s.core core
  if m == 0 || !(c.miss.any (·.line == line)) then s
  else s.setCore core { c with miss := c.miss.map fun x =>
    if x.line == line then { x with mask := x.mask ||| m, bytes := overBytes m d x.bytes, toks := toksLess x.toks m ++ toks } else x }

/-- The lines of a core with dirty bytes, but one. -/
def dirtyLines (s : State) (core : Nat) (but : Option Nat) : List Nat :=
  (s.linesOf core).filter fun l => (s.lc core l).dirty != 0 && some l != but

/-- A core sends no message with bytes of a release before the bytes it orders are home (17 R353): none of its other lines is dirty or on
its way. -/
def mayLeave (s : State) (core line : Nat) : Bool :=
  !(s.lc core line).rel || ((dirtyLines s core (some line)).isEmpty && !((s.core core).wbufs.any (·.line != line)))

/-- The dirty bytes of an entry leave as a WB (16 R319). -/
def State.sendDirty (s : State) (core line : Nat) (pois : Bool := false) : State :=
  let e := s.lc core line
  let c := s.core core
  let a := dieOfCore core
  let toks := toksIn e.toks e.dirty
  let s := s.setCore core { c with
    wbn := (c.wbn + 1) % 2 ^ 32, wbufs := c.wbufs ++ [⟨line, c.wbn, e.dirty, e.bytes, e.writers, e.deps, false⟩] }
  let s := s.setLc core line { e with dirty := 0, wbn := some c.wbn, writers := [], deps := [], rel := false }
  let p := (s.giveUp core line e.dirty e.bytes toks).carry a (homeAgent s line a) toks
  p.2.send (.wb core line e.dirty e.bytes pois ⟨c.wbn, p.1⟩)

/-- A write-back of a dirty entry (16 R319), unless one of the line is in flight; bytes of a release begin with those they order (17 R353). -/
def State.writeBack (s : State) (core line : Nat) : State :=
  let may (s : State) (l : Nat) : Bool :=
    let e := s.lc core l
    e.dirty != 0 && e.wbn.isNone && !chanFull s (dieOfCore core) (homeAgent s l (dieOfCore core))
  if mayLeave s core line then (if may s line then s.sendDirty core line else s)
  else (dirtyLines s core (some line)).foldl (fun s l => if may s l && !(s.lc core l).rel then s.sendDirty core l else s) s

/-- A masked write sent to the home at once (16 R316). -/
def State.sendWrite (s : State) (core cid line : Nat) (m : LineMask) (d : LineData) (pois : Bool) (toks : Toks) : State :=
  let c := s.core core
  let a := dieOfCore core
  let s := s.setCore core { c with
    wbn := (c.wbn + 1) % 2 ^ 32, wbufs := c.wbufs ++ [⟨line, c.wbn, m, d, [cid], [cid], true⟩] }
  let p := (s.giveUp core line m d toks).carry a (homeAgent s line a) toks
  p.2.send (.wb core line m d pois ⟨c.wbn, p.1⟩)

/-- A lease on the line is held at the core. -/
def leased (s : State) (core line : Nat) : Option Lease := (s.core core).leases.find? (·.line == line)

/-- Lines a core's region holds: 2,048 a bay of 256 KiB (05 R104). -/
def lcLines (s : State) (core : Nat) : Nat := 2048 * (s.core core).lcb
/-- The core has asked for a lease on the line that it has not got yet. -/
def leaseAsked (s : State) (core line : Nat) : Bool :=
  (s.net ++ s.heldAll).any fun m => match m with
    | .lreq c l _ _ => coreOf c == core && l == line
    | .lgrant c l _ _ _ => coreOf c == core && l == line
    | _ => false
/-- Room for one more line: a line the hardware chooses is evicted, its dirty bytes written back (16 R319, R320). -/
def State.makeRoom (s : State) (core line : Nat) : State :=
  if (s.lc core line).valid != 0 || (s.linesOf core).length < lcLines s core then s
  else
    let vs := (s.linesOf core).filter fun l => (leased s core l).isNone && (s.lc core l).wbn.isNone && !(s.lc core l).rel
    let p := s.choose vs.length
    match vs[p.1]? with
    | none => s
    | some v => (p.2.writeBack core v).setLc core v LcEnt.none

/-- Stored bytes enter the line cache (16 R318): valid and dirty, WI announced on a tracked line when the entry becomes
dirty. An expired entry keeps none of its old bytes (R326). -/
def State.lcStore (s : State) (core cid line : Nat) (m : LineMask) (d : LineData) (selfInv rel : Bool) (toks : Toks) : State :=
  let s := s.makeRoom core line
  let e := if lcExpired s core line then LcEnt.none else s.lc core line
  let now := s.cycOf (dieOfCore core)
  let e' : LcEnt := { e with
    valid := e.valid ||| m, dirty := e.dirty ||| m, bytes := overBytes m d e.bytes,
    fill := if e.valid == 0 then now else e.fill, dirtyAt := if e.dirty == 0 then now else e.dirtyAt,
    selfInv := selfInv, writers := if e.writers.contains cid then e.writers else e.writers ++ [cid],
    deps := if e.deps.contains cid then e.deps else e.deps ++ [cid], rel := e.rel || rel, toks := toksLess e.toks m ++ toks }
  let s' := s.setLc core line e'
  if !selfInv && e.dirty == 0 then s'.send (.wi core line) else s'

/-- A read of a line asked of its home, or one under way that a later access may share, and its number (13 R282, 16 R322). -/
def State.miss (s : State) (core line : Nat) (alloc selfInv : Bool) : Nat × State :=
  let c := s.core core
  match c.miss.find? fun m => m.line == line && m.alloc == alloc && m.selfInv == selfInv && !m.closed with
  | some m => (m.n, s)
  | none =>
    let t := s.setCore core { c with miss := c.miss ++ [⟨s.next, line, alloc, selfInv, false, 0, 0, []⟩] }
    (s.next, State.send { t with next := s.next + 1 } (.rd core line (alloc && !selfInv)))

/-- Line misses a core holds: one a line asked for, one a write it sends home itself, and one a refused reduction (13 R282, 18 R371). -/
def missUse (s : State) (core : Nat) : Nat :=
  let retry (m : Instr) : Bool := match m with | .redoRetry r => coreOf r.cid == core | _ => false
  (s.core core).miss.length + ((s.core core).wbufs.filter (·.direct)).length + (s.net.filter retry).length

/-! ### Results of loads (08 R167) -/

/-- Tokens met by a result, and by the acquire and the last read that stand on it (15 R309). -/
def noteToks (c : Cohort) (vid : Nat) (l : List Token) : Cohort :=
  if l.isEmpty then c
  else { c with
    waits := c.waits.map fun w => match w with
      | .acquire v sc ts => if v == vid then .acquire v sc (ts ++ l) else w
      | w => w
    lastToks := if c.lastVid == some vid then c.lastToks ++ l else c.lastToks }

/-- A load takes the bytes of a line that has arrived for miss `n`: all of the line's bytes it reads at once. -/
def feedLoad (line n : Nat) (byteAt : Nat → Byte) (p : Pend) : Pend :=
  match p.kind with
  | .load lanes buf need =>
    if need.contains (line, n) then
      let keys := (lanes.flatMap fun r => (List.range r.size).map (r.key + ·)).filter fun k => lineOf k == line
      let buf := keys.foldl (fun b k => tput 0 (terase b k) k (byteAt k)) buf
      { p with kind := .load lanes buf (need.filter (· != (line, n))) }
    else p
  | _ => p

/-- The bytes of a unit, from what a load has gathered. -/
def unitVal (buf : Tbl Byte) (r : LaneRd) : Nat := leNat ((List.range r.size).map fun i => tget 0 buf (r.key + i))
/-- The value a unit's bytes give its register: sign- or zero-extended (14 R285). -/
def extendVal (r : LaneRd) (v : Nat) : DWord :=
  if r.sext then (BitVec.ofNat (8 * r.size) v).signExtend 64 else dw v
/-- The writes of a load whose bytes have all come: a pair takes the low word first. -/
def loadWrites (lanes : List LaneRd) (buf : Tbl Byte) : List Wr :=
  lanes.flatMap fun r =>
    let v := extendVal r (unitVal buf r)
    match r.dst with
    | [a, b] => [⟨a, v⟩, ⟨b, v >>> 32⟩]
    | [a] => [⟨a, v⟩]
    | _ => []

/-- A result has come: its writes can be made. -/
def pendReady (c : Cohort) (p : Pend) : Option (List Wr) :=
  match p.kind with
  | .known => some p.writes
  | .coming _ => none
  | .load lanes buf [] => some (loadWrites lanes buf)
  | .load _ _ _ => none
  | .atom 0 _ => some p.writes
  | .atom _ _ => none
  | .futGet _ _ _ _ _ => none
  | .jget j _ want sd =>
    let r := jrd c j
    if reached r.seq want then some [⟨.s sd, r.value⟩] else none
  | .matrix => none

/-- A load waits for miss `n` of a line. -/
def waitsFor (line n : Nat) (p : Pend) : Bool :=
  match p.kind with | .load _ _ need => need.contains (line, n) | _ => false

/-- Every cohort of a core with a load that waits for miss `n` of the line takes its bytes and their tokens; poisoned data ends the load with a
deferred E_POISON at the lowest address known to be poisoned (14 R284, 16 R327, 20 R413). -/
def State.feedCore (s : State) (core line n : Nat) (byteAt : Nat → Byte) (toks : Toks) (pois : Bool) : State :=
  { s with cohorts := s.cohorts.map fun x =>
      if coreOf x.1 != core || !(x.2.pend.any (waitsFor line n)) then x
      else if pois then
        let hit (p : Pend) : Option (Nat × DWord) := match p.kind with
          | .load lanes _ need =>
            if need.contains (line, n) then
              let bad (r : LaneRd) : Bool :=
                lineOf r.key == line || ((need.any (·.1 == lineOf r.key)) && s.poisoned (lineOf r.key))
              some (p.frag, (minBy (·.toNat) ((lanes.filter bad).map (·.addr))).getD 0) else none
          | _ => none
        let c := x.2
        let bad := c.pend.filterMap hit
        let c := { c with pend := c.pend.filter fun p => (hit p).isNone }
        (x.1, bad.foldl (fun c b => deferTrap c b.1 .poison b.2 false) c)
      else
        let keysOf (p : Pend) : List Nat := match p.kind with
          | .load lanes _ _ => (lanes.flatMap fun r => (List.range r.size).map (r.key + ·)).filter fun k => lineOf k == line
          | _ => []
        let c := x.2.pend.foldl (fun c p => if waitsFor line n p then noteToks c p.vid (toksOf toks (keysOf p)) else c) x.2
        (x.1, { c with pend := c.pend.map (feedLoad line n byteAt) }) }

/-- DATA reaches a core (16 R318): it answers the core's oldest miss of the line. An allocating miss fills the bytes that are not dirty; waiting
loads take the merged bytes under the core's own newer ones: those dirty, and those that have left it since. -/
def State.dataIn (s : State) (core line : Nat) (d : LineData) (pois : Bool) (toks : Toks) : State :=
  let c := s.core core
  match c.miss.find? (·.line == line) with
  | none => s
  | some x =>
    let s := s.setCore core { c with miss := c.miss.filter (·.n != x.n) }
    let e := s.lc core line
    let m := e.dirty ||| x.mask
    let bytes := overBytes e.dirty e.bytes (overBytes x.mask x.bytes d)
    let toks := toksLess toks m ++ toksLess x.toks e.dirty ++ toksIn e.toks e.dirty
    let s := s.feedCore core line x.n (fun k => lineByte bytes (k % 128)) toks pois
    if x.alloc && !pois then
      let s := s.makeRoom core line
      s.setLc core line { e with
        valid := BitVec.allOnes 128, fill := s.cycOf (dieOfCore core), selfInv := x.selfInv, bytes := bytes, toks := toks }
    else s

/-! ### The home (16 R320-R323) -/

/-- A core joins HOLD; once more where an invalidation it has still to answer will take it out again (16 R320: HOLD is kept exactly). -/
def joinHold (e : DirEnt) (core : Nat) : List Nat :=
  if e.hold.contains core && (e.hold.filter (· == core)).length > (e.txns.filter (·.cores.contains core)).length then e.hold
  else e.hold ++ [core]

/-- INV to cores, awaited by a transaction. -/
def State.sendInv (s : State) (line : Nat) (cs : List Nat) (t : TxnDone) : State :=
  let e := s.dirEnt line
  let s' := cs.foldl (fun s c => s.send (.inv c line s.next)) s
  { (s'.setDir line { e with txns := e.txns ++ [⟨s.next, cs, [], t⟩] }) with next := s.next + 1 }

/-- What completes when an invalidation or forward has every answer. -/
def State.txnDone (s : State) (line : Nat) (t : TxnDone) : State :=
  let e := s.dirEnt line
  match t with
  | .wback core n => s.send (.wback core line n)
  | .lend _ => s.setDir line { e with lse := none }
  | .wrote _ => s
  | .claim eng =>
    if e.hold.isEmpty then s.setDir line { e with clm := e.clm ++ [eng], recalled := e.recalled && !e.clm.isEmpty }
    else s.sendInv line e.hold.eraseDups (.claim eng)
  | .send m => s.send m
  | .victim => s
  | .carve _ => s
  | .fwd cid =>
    let c := s.cohort cid
    s.setCohort cid { c with waits := c.waits.map fun w => if w == .op (.fwd line false) then .op (.fwd line true) else w }

/-- INV to every holder but `but`; with none the invalidation completes at once (16 R322). -/
def State.invalidate (s : State) (line : Nat) (but : Option Nat) (t : TxnDone) : State :=
  let cs := ((s.dirEnt line).hold.filter fun c => some c != but).eraseDups
  if cs.isEmpty then s.txnDone line t else s.sendInv line cs t

/-- The invalidations of a line with nothing left to wait for complete. -/
def State.settleTxns (s : State) (line : Nat) : State :=
  let e := s.dirEnt line
  let ready := e.txns.filter fun t => t.cores.isEmpty && t.wbs.isEmpty
  ready.foldl (fun s t => s.txnDone line t.done)
    (s.setDir line { e with txns := e.txns.filter fun t => !(t.cores.isEmpty && t.wbs.isEmpty) })

/-- An answer to transaction `n` from a core; `wb` the write-back it names, waited for only while unmerged (16 R340). -/
def State.txnAck (s : State) (line core n : Nat) (wb : Option Nat) : State :=
  let unmerged (k : Nat) : Bool := (s.net ++ (s.dirEnt line).held).any fun m => match m with
    | .wb c l _ _ _ ⟨j, _⟩ => c == core && l == line && j == k
    | _ => false
  let e := s.dirEnt line
  let s := s.setDir line { e with txns := e.txns.map fun t =>
    if t.n == n then { t with
      cores := t.cores.filter (· != core),
      wbs := match wb with | some k => if unmerged k then t.wbs ++ [(core, k)] else t.wbs | none => t.wbs } else t }
  s.settleTxns line

/-- A request that no other may overtake at a home but reads, write-backs and answers (16 R322: served in the order they arrive). -/
def inOrder : Instr → Bool
  | .lreq _ _ _ _ => true
  | .claim _ _ => true
  | .atom _ => true
  | .redoRequest _ => true
  | .redoRetry _ => true
  | _ => false

/-- A request waits at the home (16 R322), with the requests `ahead` of it held there: an RD behind claims, the bytes of a core behind another
core's lease or claims, LREQ, ATOM and their like behind any lease or claim, CLAIM behind a lease. A claim whose invalidations are under way
is ahead of what comes after it (R336), and a lease is granted once no answer is out (R350). Bytes that an ending lease's invalidations
draw are merged first (R340). -/
def homeBlocked (e : DirEnt) (ahead : List Instr) (m : Instr) : Bool :=
  let ending := e.txns.any fun t => match t.done with | .lend _ => true | _ => false
  let claiming := e.txns.any fun t => match t.done with | .claim _ => true | _ => false
  let behind := ahead.any inOrder
  let bytesOf (core : Nat) : Bool := ((match e.lse with | some (c, _) => c != core | none => false) && !ending) || !e.clm.isEmpty
  match m with
  | .rd _ _ _ => !e.clm.isEmpty || claiming
  | .wb core _ _ _ _ _ => bytesOf core
  | .iackData core _ _ _ _ _ => bytesOf core
  | .fack core _ _ _ _ _ => bytesOf core
  | .claim _ _ => e.lse.isSome || claiming || behind
  | .lreq _ _ _ _ => e.lse.isSome || !e.clm.isEmpty || !e.txns.isEmpty || behind
  | _ => e.lse.isSome || !e.clm.isEmpty || claiming || behind

/-- The engine at the head of CLM is recalled at the first request a claim holds (16 R337). -/
def State.recallHead (s : State) (line : Nat) : State :=
  let e := s.dirEnt line
  match e.clm with
  | eng :: _ => if e.recalled then s else (s.setDir line { e with recalled := true }).send (.recall eng line)
  | [] => s

/-- The bytes a home sends a core: the merged line, under the core's own bytes that the home holds back (16 R322). -/
def homeData (s : State) (core line : Nat) : LineData :=
  (s.dirEnt line).held.foldl (fun d m => match m with
    | .wb c l w b _ _ => if c == core && l == line then overBytes w b d else d
    | .iackData c l _ w b _ => if c == core && l == line then overBytes w b d else d
    | .fack c l _ w b _ => if c == core && l == line then overBytes w b d else d
    | _ => d) (s.lineData line)

/-- RD at the home. A poisoned line answers as poisoned (16 R327). -/
def State.homeRd (s : State) (core line : Nat) (alloc : Bool) : State :=
  let e := s.dirEnt line
  let s := if alloc then s.setDir line { e with hold := joinHold e core } else s
  let s := s.useLine line false
  s.send (.data core line (homeData s core line) ⟨(s.poisoned line), (lineToks s line)⟩)

/-- WB at the home: merged, then every other holder invalidated, then WBACK. A forward to the core is satisfied (16 R340). -/
def State.homeWb (s : State) (core line : Nat) (m : LineMask) (d : LineData) (pois : Bool) (n : Nat) (car : Carry) : State :=
  let s := s.mergeHome line m d pois car.toks
  let e := s.dirEnt line
  let s := s.setDir line { e with
    wrt := e.wrt.filter (· != core),
    txns := e.txns.map fun t => { t with
      wbs := t.wbs.filter (· != (core, n)),
      cores := match t.done with | .fwd _ => t.cores.filter (· != core) | _ => t.cores } }
  ((s.settleTxns line).invalidate line (some core) (.wback core n)).performed (dieOfCore core) car

/-- IACK DATA at the home: merged as a WB, and every other holder invalidated; the core leaves HOLD and WRT. -/
def State.homeIackData (s : State) (core line txn : Nat) (m : LineMask) (d : LineData) (pois : Bool) (car : Carry) : State :=
  let s := s.mergeHome line m d pois car.toks
  let e := s.dirEnt line
  let s := s.setDir line { e with hold := e.hold.erase core, wrt := e.wrt.filter (· != core) }
  ((s.invalidate line (some core) (.wrote core)).performed (dieOfCore core) car).txnAck line core txn none

/-- FACK at the home: the forwarded bytes merge as a WB, with their tokens; the writer is clean (16 R325, 17 R353). -/
def State.homeFack (s : State) (core line txn : Nat) (m : LineMask) (d : LineData) (pois : Bool) (car : Carry) : State :=
  let s := s.mergeHome line m d pois car.toks
  let e := s.dirEnt line
  let s := s.setDir line { e with wrt := e.wrt.filter (· != core) }
  let s := if m == 0 then s else s.invalidate line (some core) (.wrote core)
  (s.performed (dieOfCore core) car).txnAck line core txn none

/-- FMAX and FMIN of a die as conversions take them: the union with the old range for 2 µs after a write (15 R303). -/
def dieRange (x : Die) : Nat × Nat :=
  match x.fold with
  | some (hi, lo, t) =>
    if (x.time - t).toNat < 32000 then (max hi.toNat x.fmax.toNat, min lo.toNat x.fmin.toNat) else (x.fmax.toNat, x.fmin.toNat)
  | none => (x.fmax.toNat, x.fmin.toNat)

/-- The home's bound on a lease of `len` core cycles (16 R331, 15 R304). -/
def leaseBound (s : State) (core line len : Nat) : Nat :=
  let h := homeDie (line * 128)
  let c := dieOfCore core
  if h == c then len + 64 else (len * (dieRange (s.die h)).1 + (dieRange (s.die c)).2 - 1) / (dieRange (s.die c)).2 + 64

/-- The contention predictor's index of a line (16 R339). -/
def contIdx (line : Nat) : Nat := line % 512
/-- A core's contention counter changed by one, within 0 to 3 (16 R339). -/
def State.contend (s : State) (core line : Nat) (up : Bool) : State :=
  let c := s.core core
  let n := tget 0 c.cont (contIdx line)
  s.setCore core { c with cont := tput 0 c.cont (contIdx line) (if up then min 3 (n + 1) else n - 1) }

/-- LREQ at the home: LSE set, LGRANT with the merged bytes. A line poisoned meanwhile is not granted: the waiting `lsa` finds the
poison when it is tried again, the atomics that wait for an implicit lease are answered as poisoned (R327, 18 R363, R375). -/
def State.homeLreq (s : State) (cid line len : Nat) (si imp : Bool) : State :=
  let core := coreOf cid
  if s.poisoned line then
    if imp then
      let c := s.core core
      let mine := c.nears.filter fun x => lineOf x.r.key == line
      mine.foldl (fun s x => s.send (.aresp ⟨x.r.cid, x.r.vid, x.r.frag, x.r.lane, x.r.rd, x.r.addr, x.r.key, x.r.size, 0, 0, true, x.r.ctx,
        x.r.ret, x.r.dead, []⟩)) (s.setCore core { c with nears := c.nears.filter fun x => lineOf x.r.key != line })
    else s
  else
    let e := s.dirEnt line
    let h := homeDie (line * 128)
    let s := (s.useLine line false).setDir line { e with
      lse := some (core, if imp then none else some cid, s.cycOf h + leaseBound s core line len),
      hold := if si then e.hold else joinHold e core }
    s.send (.lgrant cid line len (homeData s core line) ⟨si, imp, (lineToks s line)⟩)

/-- CLAIM at the home: every copy is drawn in first. -/
def State.homeClaim (s : State) (eng line : Nat) : State := s.invalidate line none (.claim eng)

/-- Messages that must arrive in order: the same direction, core and line, but that a WB and a probe's answer may pass each
other (16 R321). -/
inductive Way where
  | toHome (core line : Nat) (ans : Bool) | toCore (core line : Nat) | eng (eng line : Nat)
  | beacon (src dst : Nat) | free
  deriving DecidableEq, Repr

/-- The way a message travels. -/
def wayOf : Instr → Way
  | .rd c l _ => .toHome c l false
  | .wi c l => .toHome c l false
  | .wb c l _ _ _ _ => .toHome c l false
  | .iackClean c l _ => .toHome c l true
  | .iackData c l _ _ _ _ => .toHome c l true
  | .iackWbif c l _ _ => .toHome c l true
  | .fack c l _ _ _ _ => .toHome c l true
  | .retry c l _ _ => .toHome c l true
  | .lend c l _ _ _ => .toHome c l false
  | .lreq cid l _ _ => .toHome (coreOf cid) l false
  | .atom r => .toHome (coreOf r.cid) (lineOf r.key) false
  | .redoRequest r => .toHome (coreOf r.cid) (lineOf r.key) false
  | .data c l _ _ => .toCore c l
  | .wback c l _ => .toCore c l
  | .inv c l _ => .toCore c l
  | .fwd c l _ => .toCore c l
  | .lgrant cid l _ _ _ => .toCore (coreOf cid) l
  | .aresp r => .toCore (coreOf r.cid) (lineOf r.key)
  | .claim e l => .eng e l
  | .crel e l => .eng e l
  | .completionBeacon a b _ _ => .beacon a b
  | _ => .free

/-- The core that issued an engine's request, where it is a copy unit's; else the agent of its I/O die (14 R291, R299). -/
def engCore (s : State) (eng : Nat) : Option Nat := (s.copies.find? (·.id == eng)).map (·.core)
/-- The die of an engine. -/
def engDie (s : State) (eng : Nat) : Nat :=
  match engCore s eng with
  | some c => dieOfCore c
  | none => 12 + (((s.xdmas.find? (·.id == eng)).map (·.io)).getD 0)

/-- The core, key and kind of a request that may leave the package: that it only reads. -/
def outReq : Instr → Option (Nat × Nat × Bool)
  | .rd c l _ => some (c, l * 128, true)
  | .wb c l _ _ _ _ => some (c, l * 128, false)
  | .lend c l _ _ _ => some (c, l * 128, false)
  | .atom r => some (coreOf r.cid, r.key, false)
  | _ => none
/-- Writes of one die through one host port leave in order, and requests of one die to one peer are performed in order (21 R425, R428). -/
def portOrder (s : State) (earlier m : Instr) : Bool :=
  match outReq earlier, outReq m with
  | some (c, k, rd), some (c', k', rd') =>
    dieOfCore c == dieOfCore c' &&
    ((isPeer k && isPeer k' && (k - 2 ^ 53) / 2 ^ 46 == (k' - 2 ^ 53) / 2 ^ 46) ||
     (isHost k && isHost k' && !rd && !rd' &&
      homeAgent s (lineOf k) (dieOfCore c) == homeAgent s (lineOf k') (dieOfCore c')))
  | _, _ => false

/-- `earlier` must arrive before `m`: of one core and line, but that a WB and a later answer to a probe may pass each other (16 R321); a claim
behind what its cohort sent for the line before (17 R354); a beacon behind every invalidation, response and recall of its die (15 R307); what leaves the package in its port's order. -/
def mustPrecede (s : State) (earlier m : Instr) : Bool :=
  portOrder s earlier m ||
  match wayOf m, wayOf earlier with
  | .toHome c l a, .toHome c' l' _ =>
    c == c' && l == l' && !(a && (match earlier with | .wb _ _ _ _ _ _ => true | _ => false))
  | .toCore c l, .toCore c' l' => c == c' && l == l'
  | .eng e l, .eng e' l' => e == e' && l == l'
  | .eng e l, .toHome c l' _ => l == l' && engCore s e == some c
  | .beacon a b, .toCore c l => homeAgent s l (dieOfCore c) == a && dieOfCore c == b
  | .beacon a b, .beacon a' b' => a == a' && b == b'
  | .beacon a b, _ => match earlier with | .recall e l => homeAgent s l b == a && engDie s e == b | _ => false
  | _, _ => false

/-- The die, or I/O die as agent 12 or 13, that a message leaves and the one it is bound for, where it travels between cores, engines and
homes. -/
def msgEnds (s : State) (m : Instr) : Option (Nat × Nat) :=
  match wayOf m with
  | .toHome c l _ => some (dieOfCore c, homeAgent s l (dieOfCore c))
  | .toCore c l => some (homeAgent s l (dieOfCore c), dieOfCore c)
  | .eng e l => some (engDie s e, homeAgent s l (engDie s e))
  | .beacon a b => some (a, b)
  | .free => match m with
    | .recall e l => some (homeAgent s l (engDie s e), engDie s e)
    | .redoRetry r => some (dieOf r.cid, homeAgent s (lineOf r.key) (dieOf r.cid))
    | .beaconRequest a b => some (a, b)
    | _ => none

/-- The k-th message in flight has travelled long enough: at least 10 ns from one die to another (15 R311). -/
def arrived (s : State) (k : Nat) : Bool :=
  match s.net[k]?, s.sentAt[k]? with
  | some m, some t => match msgEnds s m with
    | some (a, b) => a == b || 160 ≤ (s.ptime - t).toNat
    | none => true
  | _, _ => true

/-! ### Probes at a core (16 R325, R332, R340) -/

/-- A probed line is given up: the answer its state calls for, and the entry dropped; bytes dirtied behind a write-back in flight
stay in a new entry that is announced again. -/
def State.answerInv (s : State) (core line n : Nat) : State :=
  let e := s.lc core line
  let inFlight := ((s.core core).wbufs.find? (·.line == line)).map (·.n)
  match inFlight with
  | some k =>
    let s := s.send (.iackWbif core line n k)
    if e.dirty == 0 then s.setLc core line LcEnt.none
    else (s.setLc core line { e with valid := e.dirty, wbn := none, toks := toksIn e.toks e.dirty }).send (.wi core line)
  | none =>
    if e.dirty == 0 then (s.setLc core line LcEnt.none).send (.iackClean core line n)
    else
      let a := dieOfCore core
      let toks := toksIn e.toks e.dirty
      let p := ((s.setLc core line LcEnt.none).giveUp core line e.dirty e.bytes toks).carry a (homeAgent s line a) toks
      p.2.send (.iackData core line n e.dirty e.bytes ⟨false, p.1⟩)

/-- A forward is answered with the dirty bytes of the entry and its buffers, and a token of what its core has stored; the entry stays, clean
(16 R325, 17 R353). -/
def State.answerFwd (s : State) (core line n : Nat) : State :=
  let e := s.lc core line
  let bufs := (s.core core).wbufs.filter (·.line == line)
  let m := bufs.foldl (fun m b => m ||| b.mask) e.dirty
  let d := overBytes e.dirty e.bytes (bufs.foldl (fun d b => overBytes b.mask b.bytes d) 0)
  let a := dieOfCore core
  let toks : Toks := (maskBytes m).map fun i => (line * 128 + i, [tokenOf s a])
  let s := (s.setLc core line { e with dirty := 0, writers := [], deps := [], rel := false }).giveUp core line e.dirty e.bytes toks
  let p := s.carry a (homeAgent s line a) toks
  p.2.send (.fack core line n m d ⟨false, p.1⟩)

/-- An INV or FWD arriving resets the line's lease length to 32 (16 R329). -/
def State.resetLen (s : State) (core line : Nat) : State :=
  let c := s.core core
  s.setCore core { c with lens := terase c.lens (line % 512) }

/-- A lease ends (16 R333): LEND with the line's dirty bytes, FILL at the end, its probes answered in order, its slot told how. A probe queued
behind an implicit lease raises the contention counter (R339). -/
def State.endLease (s : State) (core : Nat) (l : Lease) (how : Nat) : State :=
  let c := s.core core
  let s := s.setCore core { c with leases := c.leases.filter fun x => !(x.line == l.line && x.cid == l.cid) }
  let s := if l.imp && !l.probes.isEmpty then s.contend core l.line true else s
  let e := s.lc core l.line
  let a := dieOfCore core
  let toks := toksIn e.toks e.dirty
  let s := (s.setLc core l.line { e with
    dirty := 0, writers := [], deps := [], rel := false, fill := s.cycOf a }).giveUp core l.line e.dirty e.bytes toks
  let p := if e.dirty == 0 then (Carry.none, s) else s.carry a (homeAgent s l.line a) toks
  let s := p.2.send (.lend core l.line e.dirty e.bytes ⟨false, p.1⟩)
  let s := match l.cid with
    | none => s
    | some cid =>
      let h := s.cohort cid
      s.setCohort cid { h with leases := h.leases.map fun x =>
        if x.line == l.line && x.ended.isNone then { x with ended := some how } else x }
  l.probes.foldl (fun s m => match m with
    | .inv _ line n => s.answerInv core line n
    | .fwd _ line ⟨n, _⟩ => s.answerFwd core line n
    | m => s.send m) s

/-! ### Release and acquire (16 R324, 17 R344) -/

/-- The line cache covers a scope (16 R324): cohort scope, and block scope of a block on one core. -/
def lcCovers (b : Blk) (sc : Nat) : Bool := sc == 0 || (sc == 1 && b.cores.length ≤ 1)

/-- Messages of a core that carry bytes home in answer to a probe, or at a lease's end. -/
def carriesFrom (core : Nat) : Instr → Bool
  | .iackData c _ _ _ _ _ => c == core
  | .fack c _ _ _ _ _ => c == core
  | .lend c _ m _ _ => c == core && m != 0
  | _ => false

/-- Every byte a release of the cohort must order is home, and every invalidation that caused is acknowledged: those it stored, and those stored
before by cohorts of its core whose releases it has taken up (16 R324, 17 R347). -/
def storesHome (s : State) (cid : Nat) : Bool :=
  let core := coreOf cid
  ((s.linesOf core).all fun l => (s.lc core l).dirty == 0 || !(s.lc core l).deps.contains cid) &&
  ((s.core core).wbufs.all fun b => !b.deps.contains cid) &&
  !((s.net ++ s.heldAll).any (carriesFrom core)) &&
  s.dir.all (fun p => p.2.txns.all fun t => match t.done with | .lend c => c != core | .wrote c => c != core | _ => true)

/-- The atomics of the package that are under way, where a test of the cohort and line holds: on their way, held at a home, waiting for an
implicit lease, or applied with invalidations still to be acknowledged. -/
def atomsMoving (s : State) (core : Nat) (p : Nat → Bool → Nat → Bool) : Bool :=
  ((s.net ++ s.heldAll).any fun m => match m with
    | .atom r => p r.cid r.dead r.key
    | .aresp r => p r.cid r.dead r.key
    | .redoRequest r => p r.cid r.dead r.key
    | .redoRetry r => p r.cid r.dead r.key
    | _ => false) ||
  (s.core core).nears.any (fun x => p x.r.cid x.r.dead x.r.key) ||
  s.dir.any fun e => e.2.txns.any fun t => match t.done with | .send (.aresp r) => p r.cid r.dead r.key | _ => false
/-- Those that are not over: under way, or held in a deferral buffer. -/
def atomsLive (s : State) (core : Nat) (p : Nat → Bool → Nat → Bool) : Bool :=
  atomsMoving s core p ||
  s.defer.any (fun e => e.2.any fun d => match d with | .redo r => p r.cid r.dead r.key | _ => false)

/-- An atomic of the cohort is still to be performed everywhere; a release of package or system scope covers those bound for other dies by its
marks (15 R308). -/
def atomsOut (s : State) (cid : Nat) (wide : Bool := false) : Bool :=
  atomsLive s (coreOf cid) fun c dead k => c == cid && !dead && (!wide || homeAgent s (lineOf k) (dieOf cid) == dieOf cid)

/-- Two runs of bytes overlap. -/
def overlap (a n b m : Nat) : Bool := a < b + m && b < a + n

/-- A copy request's unit `u` of 16 bytes: its near address, or its far one (14 R289). -/
def CopyReq.nearAddr (r : CopyReq) (u : Nat) : DWord := r.near + dw (16 * u)
def CopyReq.farAddr (r : CopyReq) (u : Nat) : DWord := r.far + dw (16 * u / r.rowb) * r.stride + dw (16 * u % r.rowb)
def CopyReq.srcAddr (r : CopyReq) (u : Nat) : DWord := if r.toNear then r.farAddr u else r.nearAddr u
def CopyReq.dstAddr (r : CopyReq) (u : Nat) : DWord := if r.toNear then r.nearAddr u else r.farAddr u
/-- Translation of a request's near side or far side. -/
def CopyReq.trans (r : CopyReq) (s : State) (near : Bool) (k : Acc) (a : DWord) : Tr :=
  translate s r.core r.ctx (s.blk r.blk) (if near then r.nearSp else r.farSp) k a
/-- The source keys of a request's units still to move. -/
def CopyReq.srcKeys (r : CopyReq) (s : State) : List Nat :=
  r.todo.filterMap fun u => match r.trans s (!r.toNear) .read (r.srcAddr u) with | .ok k _ => some k | _ => none
/-- The destination keys of a request's units still to move. -/
def CopyReq.dstKeys (r : CopyReq) (s : State) : List Nat :=
  r.todo.filterMap fun u => match r.trans s r.toNear .write (r.dstAddr u) with | .ok k _ => some k | _ => none

/-- The units a plane load has still to read. -/
def MatEnt.left (e : MatEnt) : List (Nat × DWord) := e.todo.filterMap (e.units[·]?)
/-- A plane load of the cohort has still to read one of these bytes. -/
def planeLate (s : State) (cid : Nat) (ks : List (Nat × Nat)) : Bool :=
  (s.core (coreOf cid)).matq.any fun e => e.cid == cid && e.left.any fun u => ks.any fun x => overlap u.1 8 x.1 x.2

/-- A load of the cohort, a plane load among them, has still to read memory. -/
def loadsOut (s : State) (cid : Nat) : Bool :=
  ((s.cohort cid).pend.any fun p => match p.kind with
    | .load _ _ need => !need.isEmpty
    | .atom left _ => left != 0
    | _ => false) ||
  (s.core (coreOf cid)).matq.any fun e => e.cid == cid && !e.todo.isEmpty

/-- The cohort's own loads and copy requests have still to read one of these bytes: a write to them waits (14 R286, R291). -/
def readLate (s : State) (cid : Nat) (ks : List (Nat × Nat)) : Bool :=
  let hit (k n : Nat) : Bool := ks.any fun x => overlap k n x.1 x.2
  ((s.cohort cid).pend.any fun p => match p.kind with
    | .load lanes _ need => lanes.any fun r => need.any (·.1 == lineOf r.key) && hit r.key r.size
    | _ => false) ||
  planeLate s cid ks ||
  s.copies.any fun r => r.cid == cid && !r.dead && (r.srcKeys s).any fun k => hit k 16

/-- An atomic or ordered reduction of the cohort on one of these bytes is still to be performed: an access to them waits for it
(18 R363, R365). -/
def atomLate (s : State) (cid : Nat) (ks : List (Nat × Nat)) : Bool :=
  atomsLive s (coreOf cid) fun c dead k => c == cid && !dead && ks.any fun x => overlap (k / 16 * 16) 16 x.1 x.2

/-- The bytes of checked units. -/
def unitKeys (l : List (Acs × Nat × BitVec 2)) : List (Nat × Nat) := l.map fun x => (x.2.1, x.1.size)

/-- A release at a scope (16 R324): begins the write-backs it needs and answers whether the earlier accesses are performed. `leaves` that the
value it writes leaves its core at once (17 R353): then what it orders must be home even at a scope the line cache covers. -/
def State.release (s : State) (cid : Nat) (sc : Nat) (leaves : Bool := false) : Bool × State :=
  let near := lcCovers (s.blk (s.cohort cid).blk) sc
  if sc == 0 && !leaves then (true, s)
  else if loadsOut s cid || (sc != 0 && atomsOut s cid (4 ≤ sc)) then (false, s)
  else if (near && !leaves) || storesHome s cid then (true, s)
  else
    let core := coreOf cid
    (false, (s.linesOf core).foldl (fun s l => if (s.lc core l).deps.contains cid then s.writeBack core l else s) s)

/-- An op that is a release runs once its release is made; until then it waits for itself. -/
def afterRelease (s : State) (rel : Bool) (sc : Nat) (k : State → Res) (leaves : Bool := false) : Res :=
  if rel then
    match s.release s.cur.cid sc leaves with
    | (true, s) => k s
    | (false, s) => .wait .release s
  else k s

/-- The scope of the release a write of the executing cohort is: its own, or that of a release fence it is the first write after
(17 R345). -/
def relScope (s : State) (rel : Bool) (sc : Nat) : Option Nat :=
  match s.me.relDue with
  | some d => some (if rel then max d sc else d)
  | none => if rel then some sc else none
/-- A release fence has been made by the write after it. -/
def State.relMade (s : State) : State := let c := s.me; if c.relDue.isNone then s else s.setMe { c with relDue := none }
/-- A release that is no write, of a release fence before it too (17 R345). -/
def releaseOp (s : State) (sc : Nat) (k : State → Res) : Res :=
  afterRelease s true ((relScope s true sc).getD sc) fun s => k s.relMade

/-- A mark has been reached at die c (15 R309, R310): by the beacon of its home agent, or die c's own count, or because its
epoch is over. -/
def markReached (s : State) (c : Nat) (m : Nat × Nat × Nat) : Bool :=
  let k := if m.2.1 == c then appliedOf s m.1 c else tget 0 s.beacons (c * 256 + chanKey m.1 m.2.1)
  reached (BitVec.ofNat 32 k) (BitVec.ofNat 32 m.2.2)

/-- The marks of tokens that die c has still to see reached; those of an old epoch count as reached (15 R310). -/
def marksOfToks (s : State) (c : Nat) (ts : List Token) : List (Nat × Nat × Nat) :=
  ((ts.flatMap fun t =>
    if t.epoch != (s.die t.src).epoch then []
    else (t.marks.filter fun m => m.2.1 == (s.die m.1).epoch).map fun m => (t.src, m.1, m.2.2)).filter fun m => !markReached s c m).eraseDups

/-- Every self-invalidating entry of a core is dropped, its dirty bytes written back first, and what is on its way to the core serves no later
access (16 R324): bytes dirtied behind a write-back in flight stay, alone. -/
def State.dropSelfInv (s : State) (core : Nat) : State :=
  let s := (s.linesOf core).foldl (fun s l =>
    let e := s.lc core l
    if e.selfInv && (leased s core l).isNone then
      let s := s.writeBack core l
      let e := s.lc core l
      if e.dirty == 0 then s.setLc core l LcEnt.none
      else s.setLc core l { e with valid := e.dirty, toks := toksIn e.toks e.dirty }
    else s) s
  let c := s.core core
  if c.miss.isEmpty then s
  else s.setCore core { c with miss := c.miss.map fun m => if m.selfInv || !m.alloc then { m with closed := true } else m }

/-- What stands dirty in a core or is on its way home is ordered by the releases of a cohort that acquires (17 R347). -/
def State.joinDeps (s : State) (cid : Nat) : State :=
  let core := coreOf cid
  let add (l : List Nat) : List Nat := if l.contains cid then l else l ++ [cid]
  let s := (s.linesOf core).foldl (fun s l =>
    let e := s.lc core l
    if e.dirty == 0 then s else s.setLc core l { e with deps := add e.deps }) s
  let c := s.core core
  if c.wbufs.isEmpty then s else s.setCore core { c with wbufs := c.wbufs.map fun b => { b with deps := add b.deps } }

/-- An acquire at a scope of a value that carried these tokens (16 R324, 15 R309): while marks are not reached the cohort waits, and the agents
they are of are asked for a beacon (R307). -/
def State.acquire (s : State) (cid : Nat) (sc : Nat) (toks : List Token) : State :=
  let core := coreOf cid
  if sc == 0 then s
  else
    let s := s.joinDeps cid
    if lcCovers (s.blk (s.cohort cid).blk) sc then s
    else
      let s := s.dropSelfInv core
      let die := dieOfCore core
      let marks := if 4 ≤ sc then marksOfToks s die toks else []
      if marks.isEmpty then s
      else
        let s := ((marks.map (·.2.1)).eraseDups.filter (· != die)).foldl (fun s b => s.send (.beaconRequest die b)) s
        let c := s.cohort cid
        s.setCohort cid { c with waits := c.waits ++ [.tokens marks] }

/-! ### Reading and writing for an op -/

/-- The line may be held in the line cache region by this access (13 R279). -/
def mayCache (coh : BitVec 2) (ca : Bool) (key : Nat) : Bool := coh != 2 && ca && !isScratch key

/-- A self-test holds the line cache region of a core: accesses are performed at the home (22 R439). -/
def lcTested (s : State) (core : Nat) : Bool :=
  s.cohorts.any fun p => coreOf p.1 == core && p.2.bist.any fun b => b.suite == 3 && b.result.isNone

/-- A lease on a unit's line held at the core by another cohort, or an implicit one: the access waits (18 R376). -/
def leaseHolds (s : State) (core cid : Nat) (l : List (Acs × Nat × BitVec 2)) : Bool :=
  l.any fun x => (s.core core).leases.any fun e => e.line == lineOf x.2.1 && e.cid != some cid

/-- A store goes to the line cache: the line may be held, stands there, or is leased (16 R315, R316). -/
def goesToLc (s : State) (core key : Nat) (coh : BitVec 2) (ca : Bool) : Bool :=
  (leased s core (lineOf key)).isSome ||
  (coh != 2 && ((mayCache coh ca key && !lcTested s core) || (s.lc core (lineOf key)).valid != 0))

/-- No line cache holds a line that a page maps uncached (16 R315): a copy a core has through another page is written back and dropped.
Answers whether it is gone. -/
def State.uncache (s : State) (core line : Nat) : Bool × State :=
  if (s.lc core line).valid == 0 || (leased s core line).isSome then (true, s)
  else
    let s := s.writeBack core line
    if (s.lc core line).dirty == 0 then (true, s.setLc core line LcEnt.none) else (false, s)
/-- The same for every uncached unit of an access. -/
def State.uncacheAll (s : State) (core : Nat) (l : List (Acs × Nat × BitVec 2)) : Bool × State :=
  l.foldl (fun p x => if x.2.2 == 2 && !isScratch x.2.1 then
    let q := p.2.uncache core (lineOf x.2.1)
    (p.1 && q.1, q.2) else p) (true, s)

/-- Bytes stored by a cohort at a key (14 R285, 16 R318), released at a scope or not: to the operand store at once; to the line cache, where `mark`
says that what the release orders may still be there; else home at once. A package poison is left to the merge. -/
def State.storeAt (s : State) (cid key : Nat) (va : DWord) (coh : BitVec 2) (ca : Bool) (rel : Option Nat) (mark : Bool) (bs : List Byte) : State :=
  let core := coreOf cid
  let now := s.timeOf (dieOfCore core)
  let s := s.touchGran now key
  let toks := toksFor s rel (dieOfCore core) ((List.range bs.length).map (key + ·))
  if isScratch key then
    ((List.range bs.length).foldl (fun s i => s.setScratchPois (key + i) false) (s.setBytes key bs)).putToks toks
  else
    let line := lineOf key
    let m := maskOfBytes ((List.range bs.length).map (key % 128 + ·))
    let d : LineData := BitVec.ofNat 1024 (leNat bs) <<< (8 * (key % 128))
    if goesToLc s core key coh ca then
      let narrow := rel.any fun sc => lcCovers (s.blk (s.cohort cid).blk) sc
      s.lcStore core cid line m d (coh == 1) (narrow && mark) toks
    else if isHost key && !hostUp s then
      s.setCohort cid (deferTrap (s.cohort cid) s.cur.frag .poison va false none (wordNo (s.cohort cid) s.cur.frag))
    else s.sendWrite core cid line m d false toks

/-- The loaded bytes known at issue, with the tokens they carry, and the lines still to come: a line of which a byte is missing gives none yet, so
that each unit is read at one moment (14 R285). -/
def State.loadNow (s : State) (core : Nat) (lanes : List LaneRd) : Tbl Byte × List Token × List Nat :=
  let keys := lanes.flatMap fun r => (List.range r.size).map (r.key + ·)
  let gone := ((keys.filter fun k => !isScratch k && (lcByte s core k).isNone).map lineOf).eraseDups
  let have' := keys.filter fun k => !gone.contains (lineOf k)
  (have'.foldl (fun b k => tput 0 (terase b k) k (if isScratch k then s.byte k else (lcByte s core k).getD 0)) [],
    (have'.flatMap fun k => toksOf (if isScratch k then s.tokens else (s.lc core (lineOf k)).toks) [k]).eraseDups, gone)

/-- A unit a load would read is poisoned (16 R327): of the operand store, or of its line. -/
def unitPoisoned (s : State) (key size : Nat) : Bool :=
  if isScratch key then (List.range size).any fun i => s.scratchPois (key + i) else s.poisoned (lineOf key)

/-- A host access with both ports down reads as poison (21 R424). -/
def unitDown (s : State) (key : Nat) : Bool := isHost key && !hostUp s

/-- A variable-latency result joins those of the executing cohort. -/
def State.addPend (s : State) (kind : PendKind) (writes : List Wr) (sync : Option (BitVec 3)) (flags : BitVec 6 := 0)
    (toks : List Token := []) : State :=
  let c := s.me
  let e := s.frag
  let org : Option Org := match kind with
    | .futGet _ _ _ _ _ => some ⟨⟨e.hdr, e.blk, e.widx, .run⟩, s.cur.slotB, e.stamp, none⟩
    | _ => none
  s.setMe { c with nextVid := c.nextVid + 1, pend := c.pend ++ [⟨c.nextVid, kind, writes, sync, s.cur.frag, e.mask, flags, org, toks⟩] }

/-- The bytes of a line that are on their way from a core to its home, newest last. -/
def flying (s : State) (core line : Nat) : List (LineMask × LineData) :=
  ((s.dirEnt line).held ++ s.net).filterMap fun m => match m with
    | .wb c l w d _ _ => if c == core && l == line then some (w, d) else none
    | .iackData c l _ w d _ => if c == core && l == line then some (w, d) else none
    | .fack c l _ w d _ => if c == core && l == line then some (w, d) else none
    | .lend c l w d _ => if c == core && l == line then some (w, d) else none
    | _ => none

/-- The bytes a core holds newer than their home: dirty, or on their way. -/
def ownByte (s : State) (core key : Nat) : Option Byte :=
  let e := s.lc core (lineOf key)
  let i := key % 128
  if e.dirty.getLsbD i then some (lineByte e.bytes i)
  else ((flying s core (lineOf key)).reverse.find? fun b => b.1.getLsbD i).map fun b => lineByte b.2 i

/-- A core holds a byte of a unit newer than its home. -/
def ownDirty (s : State) (core key size : Nat) : Bool := (List.range size).any fun i => (ownByte s core (key + i)).isSome

/-- No lease and no claim stands on a line, and no earlier request for one is being served (16 R322). -/
def homeFree (s : State) (line : Nat) : Bool :=
  let e := s.dirEnt line
  e.lse.isNone && e.clm.isEmpty && !(e.held.any inOrder) && e.txns.all fun t => match t.done with | .claim _ => false | _ => true

/-- A load issues (14 R285, R286): bytes at hand are taken, missing lines asked for, the result left outstanding; an acquire
holds the cohort until it is made. -/
def State.issueLoad (s : State) (lanes : List LaneRd) (cohs : Tbl Nat) (ca : Bool) (acq : Option (BitVec 3)) : State :=
  let core := coreOf s.cur.cid
  let p := s.loadNow core lanes
  let q := p.2.2.foldl (fun (q : List (Nat × Nat) × State) l =>
    let coh := tget 0 cohs l
    let r := q.2.miss core l (mayCache (BitVec.ofNat 2 coh) ca (l * 128) && !lcTested s core) (coh == 1)
    (q.1 ++ [(l, r.1)], r.2)) ([], s)
  let s := q.2
  let vid := s.me.nextVid
  let s := s.addPend (.load lanes p.1 q.1) [] acq 0 p.2.1
  let s := s.setMe { s.me with lastVid := some vid, lastToks := p.2.1 }
  match acq with
  | none => s
  | some sc => let c := s.me; s.setMe { c with waits := c.waits ++ [.acquire vid sc p.2.1] }

end Sys2Proof.Machine
end

