-- ==== Sys2Proof/Machine/Flags.lean ====
section
/-! DEFINITION. The exception flags and the rounding mode: FSTAT's positions, FMODE's fields, and the rounding an op uses
(03 R58, R63, R67-R70, R75). -/
namespace Sys2Proof.Machine

/-- Flags in FSTAT's positions (03 R68). -/
abbrev Flags := BitVec 6
def fINV : Flags := 1
def fDZ : Flags := 2
def fOVF : Flags := 4
def fUNF : Flags := 8
def fINX : Flags := 16
def fIOV : Flags := 32

/-- A rounding: the mode as MOD codes it (1 RNE, 2 RZ, 3 RU, 4 RD, 5 RNA, 6 checker dither), and the dither's index. -/
structure Rnd where
  mode : Nat
  pos : Nat
  phase : Nat
  deriving DecidableEq, Repr
/-- Round to nearest, ties to even. -/
def rne : Rnd := ⟨1, 0, 0⟩
/-- FMODE.DPH (03 R69). -/
def dphOf (c : Cohort) : Nat := bits c.fmode 8 5
/-- The rounding of an op: its RM, or FMODE.RM where it encodes 000, at a dither position (03 R63, R75). -/
def rndOf (c : Cohort) (rm pos : Nat) : Rnd := ⟨if rm == 0 then bits c.fmode 5 3 else rm, pos % 32, dphOf c⟩
/-- FMODE.DPH advanced by 1 modulo 32 (03 R63). -/
def advanceDph (c : Cohort) : Cohort := { c with fmode := setBits c.fmode 8 5 (dphOf c + 1) }
/-- The flags of a list of results, ORed (03 R67). -/
def orFlags (l : List Flags) : Flags := l.foldl (· ||| ·) 0

end Sys2Proof.Machine
end

