-- ==== Sys2Proof/Machine/Operands.lean ====
section
/-! DEFINITION. Operand forms: integer values by type, scalar sources and results, lane values and their elements
(07 R138, 09 R184, 10 R205). -/
namespace Sys2Proof.Machine

/-- The value of a w-bit pattern under a type. -/
def tyVal (t : IntTy) (p : Nat) : Int :=
  let p := p % 2 ^ t.w
  if t.signed && 2 ^ (t.w - 1) ≤ p then (p : Int) - 2 ^ t.w else p
/-- The least value of a type. -/
def tyMin (t : IntTy) : Int := if t.signed then -(2 ^ (t.w - 1)) else 0
/-- The greatest value of a type. -/
def tyMax (t : IntTy) : Int := if t.signed then 2 ^ (t.w - 1) - 1 else 2 ^ t.w - 1
/-- The w-bit pattern of an exact result: clamped when SAT, then modulo 2^w (09 R185). -/
def fitTy (t : IntTy) (sat : Bool) (r : Int) : Nat :=
  let r := if sat then max (tyMin t) (min (tyMax t) r) else r
  (r % 2 ^ t.w).toNat

/-! ### Scalars (09 R184) -/

/-- A scalar source read as TY states. -/
def sVal (ty : BitVec 3) (v : DWord) : Int := tyVal (intTy ty) v.toNat
/-- A w-bit pattern extended to 64 bits by TY. -/
def sExt (ty : BitVec 3) (p : Nat) : DWord := BitVec.ofInt 64 (tyVal (intTy ty) p)
/-- `fit` of R185. -/
def sFit (ty : BitVec 3) (sat : Bool) (r : Int) : DWord := sExt ty (fitTy (intTy ty) sat r)
/-- A result written to a scalar register of the executing cohort. -/
def State.setS (s : State) (n : Nat) (v : DWord) : State := s.setMe (swr s.me n v)

/-! ### Lane values (10 R205) -/

/-- A lane's value of a type: 32 bits, or a pair's 64. -/
def laneVal (c : Cohort) (two : Bool) (n l : Nat) : Nat := if two then (vrd2 c n l).toNat else (vrd c n l).toNat
/-- A lane's value written: 32 bits, or a pair's 64. -/
def laneSet (c : Cohort) (two : Bool) (n l : Nat) (v : Nat) : Cohort :=
  if two then vwr2 c n l (dw v) else vwr c n l (BitVec.ofNat 32 v)
/-- Elements of a value of a type. -/
def elemsOf (t : IntTy) : Nat := if t.w ≤ 32 then 32 / t.w else 1
/-- Element i of a value, as its w-bit pattern. -/
def elem (t : IntTy) (v i : Nat) : Nat := v / 2 ^ (t.w * i) % 2 ^ t.w
/-- A value from a function of each element's index. -/
def packElems (t : IntTy) (f : Nat → Nat) : Nat :=
  (List.range (elemsOf t)).foldl (fun acc i => acc + f i % 2 ^ t.w * 2 ^ (t.w * i)) 0
/-- A value computed element by element from two. -/
def map2 (t : IntTy) (f : Nat → Nat → Nat) (a b : Nat) : Nat := packElems t fun i => f (elem t a i) (elem t b i)
/-- A value computed element by element from one. -/
def map1 (t : IntTy) (f : Nat → Nat) (a : Nat) : Nat := packElems t fun i => f (elem t a i)
/-- Every active lane of an op changes the cohort by a function of its own lane; sources are read from the cohort before any
lane is written (08 R160). -/
def forLanes (lanes : List Nat) (f : Cohort → Cohort → Nat → Cohort) (c : Cohort) : Cohort :=
  lanes.foldl (fun acc l => f c acc l) c

/-- Comparison conditions, FN 0000 to 0101 (09 R186, 10 R211). -/
def cmpFn (fn : Nat) (a b : Int) : Bool :=
  match fn with
  | 0 => a == b | 1 => a != b | 2 => a < b | 3 => b ≤ a | 4 => b < a | _ => a ≤ b

/-! ### Bit operations (09 R186, 10 R206) -/

/-- The number of 1 bits below `w`. -/
def popcount (w p : Nat) : Nat := ((List.range w).filter fun i => p.testBit i).length
/-- Leading zeros in `w` bits. -/
def clz (w p : Nat) : Nat := ((List.range w).find? fun i => p.testBit (w - 1 - i)).getD w
/-- Trailing zeros in `w` bits. -/
def ctz (w p : Nat) : Nat := ((List.range w).find? fun i => p.testBit i).getD w
/-- `w` bits reversed. -/
def revBits (w p : Nat) : Nat := (List.range w).foldl (fun acc i => acc + (if p.testBit i then 2 ^ (w - 1 - i) else 0)) 0
/-- The w/8 bytes reversed. -/
def revBytes (w p : Nat) : Nat :=
  (List.range (w / 8)).foldl (fun acc i => acc + p / 2 ^ (8 * i) % 256 * 2 ^ (w - 8 - 8 * i)) 0

end Sys2Proof.Machine
end

