-- ==== Sys2Proof/Machine/Num.lean ====
section
/-! DEFINITION. Number formats and arithmetic (03 R47-R75): element codes and their exact values, rounding, the NaN rule,
companding, block scales, quantising and the matrix sums. -/
namespace Sys2Proof.Machine

/-! ### Formats and values (R47-R55) -/

/-- An element format; `sc` of the integer formats is a slot with BS = 16 or 32 (R50). -/
inductive Fmt where
  | f64 | f32 | f16 | bf16 | e5m2 | e4m3 | e2m1
  | int8 (sc : Bool) | int4 (sc : Bool)
  | dbl
  deriving DecidableEq, Repr

/-- A value: a NaN with its sign and fraction, high-order aligned in 52 bits (bit 51 is quiet); an infinity; or a finite
(−1)^neg · n/d. -/
inductive FV where
  | nan (neg : Bool) (frac : Nat)
  | inf (neg : Bool)
  | fin (neg : Bool) (n d : Nat)
  deriving DecidableEq, Repr

/-- Exponent bits, fraction bits and bias of a floating format (R47). -/
def fmtEF : Fmt → Nat × Nat × Nat
  | .f64 => (11, 52, 1023)
  | .f32 => (8, 23, 127)
  | .f16 => (5, 10, 15)
  | .bf16 => (8, 7, 127)
  | .e5m2 => (5, 2, 15)
  | .e4m3 => (4, 3, 7)
  | .e2m1 => (2, 1, 1)
  | _ => (0, 0, 0)
/-- Width of a code in bits. -/
def fmtBits : Fmt → Nat
  | .f64 => 64 | .f32 => 32 | .f16 => 16 | .bf16 => 16 | .e2m1 => 4 | .int4 _ => 4 | _ => 8
/-- The format is not an integer or doublet format. -/
def isFloatFmt : Fmt → Bool
  | .int8 _ => false | .int4 _ => false | .dbl => false | _ => true
/-- The format has infinities and NaNs as IEEE 754 lays them out. -/
def isIeee : Fmt → Bool
  | .f64 => true | .f32 => true | .f16 => true | .bf16 => true | .e5m2 => true | _ => false
/-- The code of the largest finite value, sign apart. -/
def maxCode (f : Fmt) : Nat :=
  match f with
  | .e4m3 => 0x7E
  | .e2m1 => 7
  | _ => (2 ^ (fmtEF f).1 - 1) * 2 ^ (fmtEF f).2.1 - 1
/-- The sign bit as a number. -/
def signCode (f : Fmt) (neg : Bool) : Nat := if neg then 2 ^ (fmtBits f - 1) else 0
/-- 2^e times m, as a fraction. -/
def scale2 (m : Nat) (e : Int) : Nat × Nat := if 0 ≤ e then (m * 2 ^ e.toNat, 1) else (m, 2 ^ (-e).toNat)

/-- The value of a code of a floating format (R47). -/
def decodeFloat (f : Fmt) (code : Nat) : FV :=
  let p := fmtEF f
  let neg := code.testBit (fmtBits f - 1)
  let e := code / 2 ^ p.2.1 % 2 ^ p.1
  let fr := code % 2 ^ p.2.1
  if isIeee f && e == 2 ^ p.1 - 1 then
    if fr == 0 then .inf neg else .nan neg (fr * 2 ^ (52 - p.2.1))
  else if f == .e4m3 && e == 15 && fr == 7 then .nan neg (7 * 2 ^ 49)
  else
    let m := if e == 0 then fr else 2 ^ p.2.1 + fr
    let x := scale2 m ((max e 1 : Nat) - (p.2.2 : Int) - (p.2.1 : Int))
    .fin neg x.1 x.2

/-- A finite value from a signed numerator. -/
def finOf (i : Int) (d : Nat) : FV := .fin (i < 0) i.natAbs d

/-- A doublet term in 64ths (R54). -/
def dblTerm (neg : Bool) (k : Nat) : Int := if k == 7 then 0 else if neg then -((64 / 2 ^ k : Nat) : Int) else (64 / 2 ^ k : Nat)
/-- A doublet's value in 64ths (R54). -/
def dblVal (code : Nat) : Int := dblTerm (code.testBit 7) (code / 16 % 8) + dblTerm (code.testBit 3) (code % 8)

/-- decode (R74): the exact value of an element code. -/
def decodeElem (f : Fmt) (code : Nat) : FV :=
  match f with
  | .int8 sc => finOf (tyVal ⟨8, true⟩ code) (if sc then 64 else 1)
  | .int4 sc => finOf (tyVal ⟨4, true⟩ code) (if sc then 4 else 1)
  | .dbl => finOf (dblVal code) 64
  | f => decodeFloat f (code % 2 ^ fmtBits f)

/-- The canonical code of a non-negative doublet value in 64ths, where it has one (R55). -/
def dblCanon (v : Nat) : Option Nat :=
  if v == 0 then some 0x77
  else if v == 128 then some 0x00
  else
    match (List.range 7).find? fun k => 64 / 2 ^ k == v with
    | some k => some (16 * k + 7)
    | none =>
      let two := (List.range 7).flatMap fun k1 => (List.range 7).flatMap fun k2 =>
        if k1 < k2 then [(k1, 0, k2), (k1, 8, k2)] else []
      (two.find? fun t => dblVal (16 * t.1 + t.2.1 + t.2.2) == (v : Int)).map fun t => 16 * t.1 + t.2.1 + t.2.2
/-- Non-zero terms of a canonical code. -/
def dblTerms (code : Nat) : Nat := (if code / 16 % 8 == 7 then 0 else 1) + (if code % 8 == 7 then 0 else 1)
/-- The negative of a canonical code: each non-zero term's sign is flipped. -/
def dblNeg (code : Nat) : Nat :=
  code ^^^ ((if code / 16 % 8 == 7 then 0 else 128) + (if code % 8 == 7 then 0 else 8))

/-- The zero code of a sign (R58, R61). -/
def zeroCode (f : Fmt) (neg : Bool) : Nat :=
  if isFloatFmt f then signCode f neg else if f == .dbl then 0x77 else 0
/-- The code of the largest magnitude of a sign (R59). -/
def maxOfSign (f : Fmt) (neg : Bool) : Nat :=
  match f with
  | .int8 _ => if neg then 0x80 else 0x7F
  | .int4 _ => if neg then 8 else 7
  | .dbl => if neg then 0x88 else 0
  | f => signCode f neg + maxCode f

/-! ### NaNs (R48, R56, R57) -/

def isNan : FV → Bool
  | .nan _ _ => true | _ => false
def isSnan : FV → Bool
  | .nan _ fr => !fr.testBit 51 | _ => false
/-- A NaN converted to a format (R57). -/
def nanTo (f : Fmt) (neg : Bool) (fr : Nat) : Nat × Flags :=
  let snan : Flags := if fr.testBit 51 then 0 else fINV
  if isIeee f then
    let p := fmtEF f
    (signCode f neg + (2 ^ p.1 - 1) * 2 ^ p.2.1 + (fr / 2 ^ (52 - p.2.1) ||| 2 ^ (p.2.1 - 1)), snan)
  else if f == .e4m3 then (signCode f neg + 0x7F, snan)
  else (zeroCode f false, fINV)
/-- default_nan (R48). -/
def defaultNan (f : Fmt) : Nat := (nanTo f false (2 ^ 51)).1
/-- nan_select over the operands in order (R56), where one is a NaN. -/
def nanSelect (f : Fmt) (ops : List FV) : Option (Nat × Flags) :=
  match ops.find? isNan with
  | some (.nan neg fr) =>
    some ((nanTo f neg (fr ||| 2 ^ 51)).1, if ops.any isSnan then fINV else 0)
  | _ => none

/-! ### Rounding (R58-R63) -/

/-- The numerator of D[i] over 64 (R62). -/
def ditherNum (i : Nat) : Nat := 2 * revBits 5 (i % 32) + 1
/-- Whether the higher neighbour is chosen, for a value rem/den of the way up from the lower, 0 < rem < den. -/
def roundsUp (r : Rnd) (neg tieUp : Bool) (rem den : Nat) : Bool :=
  match r.mode with
  | 1 => den < 2 * rem || (2 * rem == den && tieUp)
  | 3 => !neg
  | 4 => neg
  | 5 => den ≤ 2 * rem
  | 6 => 64 * den ≤ 64 * rem + ditherNum (r.pos + r.phase) * den
  | _ => false
/-- floor(log2(n/d)) of a positive value. -/
def floorLog2 (n d : Nat) : Int :=
  let e : Int := (Nat.log2 n : Int) - Nat.log2 d
  let s := scale2 1 e
  if d * s.1 ≤ n * s.2 then e else e - 1
/-- n/d over 2^q: its whole part and what is left over a denominator. -/
def inUnits (n d : Nat) (q : Int) : Nat × Nat × Nat :=
  let x := if 0 ≤ q then (n, d * 2 ^ q.toNat) else (n * 2 ^ (-q).toNat, d)
  (x.1 / x.2, x.1 % x.2, x.2)
/-- A magnitude rounded on the grid of step 2^q. -/
def onGrid (r : Rnd) (neg : Bool) (n d : Nat) (q : Int) : Nat × Bool :=
  let k := inUnits n d q
  (if k.2.1 != 0 && roundsUp r neg (k.1 % 2 == 1) k.2.1 k.2.2 then k.1 + 1 else k.1, k.2.1 != 0)

/-- What an overflow delivers (R59). -/
def overflowCode (f : Fmt) (r : Rnd) (sat neg : Bool) : Nat :=
  let top := if isIeee f || f == .e4m3 then signCode f neg + maxCode f + 1 else maxOfSign f neg
  if sat then maxOfSign f neg
  else match r.mode with
    | 2 => maxOfSign f neg
    | 3 => if neg then maxOfSign f neg else top
    | 4 => if neg then top else maxOfSign f neg
    | _ => top

/-- Rounding of a positive magnitude to a floating format (R58-R60). -/
def roundFloat (f : Fmt) (r : Rnd) (sat neg : Bool) (n d : Nat) : Nat × Flags :=
  let p := fmtEF f
  let emin : Int := 1 - (p.2.2 : Int)
  let e0 := floorLog2 n d
  let e := max e0 emin
  let g := onGrid r neg n d (e - p.2.1)
  let code := (e - emin).toNat * 2 ^ p.2.1 + g.1
  if maxCode f < code then (overflowCode f r sat neg, fOVF ||| fINX)
  else
    let tiny := e0 < emin && !(e0 + 1 == emin && (onGrid r neg n d (e0 - p.2.1)).1 == 2 ^ (p.2.1 + 1))
    (signCode f neg + code, (if g.2 then fINX else 0) ||| (if g.2 && tiny then fUNF else 0))

/-- Rounding of a magnitude to an integer format of `w` bits in steps of 1/unit (R61). -/
def roundInt (w unit : Nat) (r : Rnd) (neg : Bool) (n d : Nat) : Nat × Flags :=
  let g := onGrid r neg (n * unit) d 0
  let top := if neg then 2 ^ (w - 1) else 2 ^ (w - 1) - 1
  let k := min g.1 top
  (if neg then (2 ^ w - k) % 2 ^ w else k, if top < g.1 then fOVF ||| fINX else if g.2 then fINX else 0)

/-- The neighbours of a magnitude in 64ths among the doublet magnitudes, continued in steps of 1/2 above 2 (R61). -/
def dblLo (v : Nat) : Nat :=
  if 128 ≤ v then v / 32 * 32 else ((List.range (v + 1)).reverse.find? fun m => (dblCanon m).isSome).getD 0
def dblHi (v : Nat) : Nat :=
  if 128 ≤ v then v / 32 * 32 + 32 else ((List.range 129).find? fun m => v < m && (dblCanon m).isSome).getD 128
/-- Rounding of a magnitude to a doublet (R61). -/
def roundDbl (r : Rnd) (neg : Bool) (n d : Nat) : Nat × Flags :=
  let lo := dblLo (n * 64 / d)
  let hi := dblHi (n * 64 / d)
  let rem := n * 64 - lo * d
  let terms (m : Nat) : Nat := match dblCanon m with | some c => dblTerms c | none => 3
  let up := rem != 0 && roundsUp r neg (terms hi < terms lo) rem ((hi - lo) * d)
  let m := if up then hi else lo
  match (if m ≤ 128 then dblCanon m else none) with
  | some c => (if neg then dblNeg c else c, if rem != 0 then fINX else 0)
  | none => (maxOfSign .dbl neg, fOVF ||| fINX)

/-- An infinite input (R59). DESIGN CHOICE (log 5): the E4M3 NaN of an infinite input keeps the input's sign; R59 names no sign. -/
def infTo (f : Fmt) (sat neg : Bool) : Nat × Flags :=
  if sat then (maxOfSign f neg, 0)
  else if isIeee f then (signCode f neg + maxCode f + 1, 0)
  else if f == .e4m3 then (signCode f neg + 0x7F, fINV)
  else (maxOfSign f neg, fINV)

/-- round (R74): an exact value into a format. -/
def roundTo (f : Fmt) (r : Rnd) (sat : Bool) (v : FV) : Nat × Flags :=
  match v with
  | .nan neg fr => nanTo f neg fr
  | .inf neg => infTo f sat neg
  | .fin neg n d =>
    if n == 0 then (zeroCode f neg, 0)
    else match f with
      | .int8 sc => roundInt 8 (if sc then 64 else 1) r neg n d
      | .int4 sc => roundInt 4 (if sc then 4 else 1) r neg n d
      | .dbl => roundDbl r neg n d
      | f => roundFloat f r sat neg n d

/-! ### Exact arithmetic on values -/

/-- The sign of a value. -/
def signOf : FV → Bool
  | .nan s _ => s | .inf s => s | .fin s _ _ => s
/-- A value with its sign flipped (R139, R226). -/
def negV (x : FV) : FV := match x with | .nan s p => .nan (!s) p | .inf s => .inf (!s) | .fin s n d => .fin (!s) n d
/-- A value with its sign cleared. -/
def absV (x : FV) : FV := match x with | .nan _ p => .nan false p | .inf _ => .inf false | .fin _ n d => .fin false n d
/-- Modifiers: absolute value, then negation (R226). -/
def modV (neg abs : Bool) (x : FV) : FV :=
  let y := if abs then absV x else x
  if neg then negV y else y
def isZero : FV → Bool
  | .fin _ n _ => n == 0 | _ => false
def isInf : FV → Bool
  | .inf _ => true | _ => false
/-- The exact sum of two values that are not NaN; none when invalid. `rd` is round-down, for an exact zero (R226). -/
def addV (rd : Bool) (a b : FV) : Option FV :=
  match a, b with
  | .inf s, .inf t => if s == t then some (.inf s) else none
  | .inf s, _ => some (.inf s)
  | _, .inf t => some (.inf t)
  | .fin s n d, .fin t m e =>
    let x : Int := (if s then -1 else 1) * ((n * e : Nat) : Int) + (if t then -1 else 1) * ((m * d : Nat) : Int)
    if x == 0 then some (.fin (if n == 0 && m == 0 && s == t then s else rd) 0 1)
    else some (.fin (x < 0) x.natAbs (d * e))
  | _, _ => none
/-- The exact product of two values that are not NaN; none when invalid. -/
def mulV (a b : FV) : Option FV :=
  match a, b with
  | .inf s, .inf t => some (.inf (s != t))
  | .inf s, .fin t n _ => if n == 0 then none else some (.inf (s != t))
  | .fin s n _, .inf t => if n == 0 then none else some (.inf (s != t))
  | .fin s n d, .fin t m e => some (.fin (s != t) (n * m) (d * e))
  | _, _ => none
/-- An operation's result: a NaN operand by R56, default_nan where the exact result is invalid, else rounded. -/
def opRes (f : Fmt) (r : Rnd) (ops : List FV) (x : Option FV) : Nat × Flags :=
  match nanSelect f ops with
  | some n => n
  | none => match x with | some v => roundTo f r false v | none => (defaultNan f, fINV)
/-- fma (R74): a·b + c rounded once; 0 × ∞ + NaN is invalid (R56). -/
def fmaRes (f : Fmt) (r : Rnd) (a b c : FV) : Nat × Flags :=
  let bad := (isZero a && isInf b) || (isInf a && isZero b)
  let x := opRes f r [a, b, c] ((mulV a b).bind fun p => addV (r.mode == 4) p c)
  if bad then (x.1, x.2 ||| fINV) else x
/-- Total order of two values that are not NaN; −0 equals +0. -/
def ltV (a b : FV) : Bool :=
  let key : FV → Int × Nat := fun x => match x with
    | .inf s => (if s then -1 else 1, 0)
    | .fin s n d => (if s then -(n : Int) else n, d)
    | .nan _ _ => (0, 1)
  match a, b with
  | .inf s, .inf t => s && !t
  | .inf s, _ => s
  | _, .inf t => !t
  | a, b => (key a).1 * (key b).2 < (key b).1 * (key a).2
def eqV (a b : FV) : Bool := !isNan a && !isNan b && !ltV a b && !ltV b a

/-- isqrt by bits: `r` grows by 2^i where its square stays within `n`. -/
def isqrtAux : Nat → Nat → Nat → Nat
  | 0, _, r => r
  | i + 1, n, r => let t := r + 2 ^ i; isqrtAux i n (if t * t ≤ n then t else r)
/-- floor(√n). -/
def isqrt (n : Nat) : Nat := isqrtAux (Nat.log2 n / 2 + 1) n 0
/-- A value that rounds in every mode and format as √(n/d) does: exact, or an odd count of 1/2^(k+1) that lies between the
same two 2^-k steps, far below any format's grid and any entry of the dither table. -/
def sqrtQ (n d : Nat) : Nat × Nat :=
  let k := ((160 - floorLog2 n d) / 2).toNat
  let m := n * 4 ^ k
  let s := isqrt (m / d)
  if s * s * d == m then (s, 2 ^ k) else (2 * s + 1, 2 ^ (k + 1))

/-! ### Format slots and companders (02 R34-R40, R64) -/

/-- The fields of a format slot (02 R34). -/
structure Slot where
  elem : Fmt
  bs : Nat
  sf : Nat
  rnd : Nat
  sat : Bool
  cen : Bool
  cidx : Nat
  deriving DecidableEq, Repr

/-- The element format of a code (02 R35), scaled when BS is not 1. -/
def elemFmt (code : Nat) (sc : Bool) : Option Fmt :=
  match code with
  | 0 => some .f64 | 1 => some .f32 | 2 => some .f16 | 3 => some .bf16 | 4 => some .e4m3 | 5 => some .e5m2
  | 6 => some .e2m1 | 7 => some (.int8 sc) | 8 => some (.int4 sc) | 9 => some .dbl | _ => none

/-- The fields of a slot word that passes the first three conditions of R37: reserved bits, codes, and R36. -/
def slotFields (w : BitVec 128) : Option Slot :=
  let n := w.toNat
  let bs := n / 32 % 4
  let sf := n / 128 % 4
  let cen := n.testBit 12
  match elemFmt (n % 32) (bs != 0) with
  | none => none
  | some el =>
    let wide := el == .f64 || el == .f32 || el == .f16 || el == .bf16
    if 2 ^ 16 ≤ n || bs == 3 || sf == 3 || (bs == 0) != (sf == 0) || (wide && (bs != 0 || cen)) ||
       (el == .dbl && (bs == 1 || cen)) then none
    else some ⟨el, if bs == 0 then 1 else 16 * bs, sf, match n / 512 % 4 with | 0 => 1 | 1 => 2 | 2 => 5 | _ => 6,
               n.testBit 11, cen, n / 8192 % 8⟩

/-- A compander table: sixteen breakpoints (X, Y) as fractions (02 R38). -/
abbrev Comp := List ((Nat × Nat) × (Nat × Nat))
/-- A positive finite normal FP16 code as a fraction (02 R39). -/
def normal16 (code : Nat) : Option (Nat × Nat) :=
  match decodeFloat .f16 code with
  | .fin false n d => if code / 1024 % 32 == 0 then none else some (n, d)
  | _ => none
/-- Table t of the array, when it obeys R39. -/
def compTable (words : List Word) (t : Nat) : Option Comp :=
  let l := (List.range 16).map fun i => (words.getD (16 * t + i) 0).toNat
  let rise (f : Nat → Nat) : Bool := (List.range 15).all fun i => f (l.getD i 0) < f (l.getD (i + 1) 0)
  let c := l.filterMap fun w => match normal16 (w % 65536), normal16 (w / 65536) with
    | some x, some y => some (x, y)
    | _, _ => none
  if c.length == 16 && rise (· % 65536) && rise (· / 65536) then some c else none

def qlt (a b : Nat × Nat) : Bool := a.1 * b.2 < b.1 * a.2
def qsub (a b : Nat × Nat) : Nat × Nat := (a.1 * b.2 - b.1 * a.2, a.2 * b.2)
def qadd (a b : Nat × Nat) : Nat × Nat := (a.1 * b.2 + b.1 * a.2, a.2 * b.2)
def qmul (a b : Nat × Nat) : Nat × Nat := (a.1 * b.1, a.2 * b.2)
def qdiv (a b : Nat × Nat) : Nat × Nat := (a.1 * b.2, a.2 * b.1)
/-- compand, exact, of a positive magnitude (R64). -/
def compand (m : Nat × Nat) (t : Comp) : Nat × Nat :=
  let i := ((List.range 16).find? fun i => !qlt (t.getD i ((0, 1), (0, 1))).1 m).getD 15
  let p := t.getD i ((0, 1), (0, 1))
  let q := if i == 0 then ((0, 1), (0, 1)) else t.getD (i - 1) ((0, 1), (0, 1))
  qadd q.2 (qdiv (qmul (qsub m q.1) (qsub p.2 q.2)) (qsub p.1 q.1))
/-- expand: the roles of X and Y exchanged, rounded once to FP32 (R64). -/
def expand (m : Nat × Nat) (t : Comp) : Nat × Flags :=
  let x := compand m (t.map fun p => (p.2, p.1))
  roundTo .f32 rne false (.fin false x.1 x.2)

/-! ### Block scales and quantising (R52, R53, R65, R66) -/

/-- The value of a scale code; none is a NaN scale. `sf` is 0 none, 1 E8M0, 2 E4M3 (R52). -/
def scaleVal (sf code : Nat) : Option (Nat × Nat) :=
  match sf with
  | 0 => some (1, 1)
  | 1 => if code == 0xFF then none else some (scale2 1 ((code : Int) - 127))
  | _ => if 0x7F ≤ code then none else match decodeFloat .e4m3 code with | .fin _ n d => some (n, d) | _ => none
/-- emax and maxv of an element format (R65). -/
def emaxOf : Fmt → Int
  | .e4m3 => 8 | .e5m2 => 15 | .e2m1 => 2 | .dbl => 1 | _ => 0
def maxvOf : Fmt → Nat × Nat
  | .e4m3 => (448, 1) | .e5m2 => (57344, 1) | .e2m1 => (6, 1) | .dbl => (2, 1) | .int4 _ => (7, 4) | _ => (127, 64)
/-- derive_scale (R65). -/
def deriveScale (block : List FV) (el : Fmt) (sf : Nat) : Nat :=
  if block.any fun v => isNan v || isInf v then (if sf == 1 then 0xFF else 0x7F)
  else
    let amax := block.foldl (fun m v => match v with | .fin _ n d => if qlt m (n, d) then (n, d) else m | _ => m) (0, 1)
    if amax.1 == 0 then 0
    else if sf == 1 then (max 0 (min 254 (floorLog2 amax.1 amax.2 - emaxOf el + 127))).toNat
    else
      let q := qdiv amax (maxvOf el)
      let c := (roundTo .e4m3 ⟨3, 0, 0⟩ true (.fin false q.1 q.2)).1
      if c == 0 then 1 else c
/-- The code and flags of a value under a NaN scale (R242). -/
def nanScaled (f : Fmt) (v : FV) : Nat × Flags :=
  match v with
  | .nan neg fr => nanTo f neg fr
  | v => (if isIeee f || f == .e4m3 then (nanTo f (signOf v) (2 ^ 51)).1 else zeroCode f false, 0)
/-- quantise (R66): one element under a slot and its compander table. -/
def quantise (v : FV) (sl : Slot) (tab : Comp) (scale pos phase : Nat) : Nat × Flags :=
  match scaleVal sl.sf scale with
  | none => nanScaled sl.elem v
  | some sc =>
    match v with
    | .nan neg fr => nanTo sl.elem neg fr
    | .inf neg => infTo sl.elem sl.sat neg
    | .fin neg n d =>
      if n == 0 then (zeroCode sl.elem neg, 0)
      else if sc.1 == 0 then
        (zeroCode sl.elem neg, fINX ||| (if isFloatFmt sl.elem then fUNF else 0))
      else
        let m := qdiv (n, d) sc
        let m := if sl.cen then compand m tab else m
        roundTo sl.elem ⟨sl.rnd, pos, phase⟩ sl.sat (.fin neg m.1 m.2)
/-- fetch (12 R258, 11 R243): an operand of a slot, exact, with the flags expand or a zero scale raises. -/
def fetchElem (sl : Slot) (tab : Comp) (code scale : Nat) : FV × Flags :=
  match scaleVal sl.sf scale with
  | none => (.nan false (2 ^ 51), 0)
  | some sc =>
    match decodeElem sl.elem code with
    | .nan neg fr => (.nan neg fr, 0)
    | .inf neg => if sc.1 == 0 then (.nan false (2 ^ 51), fINV) else (.inf neg, 0)
    | .fin neg n d =>
      if sl.cen && n != 0 then
        let x := expand (n, d) tab
        match decodeFloat .f32 x.1 with
        | .fin _ n d => (.fin neg (n * sc.1) (d * sc.2), x.2)
        | .inf _ => (.inf neg, x.2)
        | v => (v, x.2)
      else (.fin neg (n * sc.1) (d * sc.2), 0)

/-! ### Matrix sums (R71-R73) -/

/-- The finite terms of a sum, as sign and magnitude. -/
def finTerms (l : List FV) : List (Bool × Nat × Nat) :=
  l.filterMap fun v => match v with | .fin s n d => if n == 0 then none else some (s, n, d) | _ => none
/-- The greatest floor(log2) among terms. -/
def topExp : List (Bool × Nat × Nat) → Option Int
  | [] => none
  | t :: r => match topExp r with
    | some e => some (max (floorLog2 t.2.1 t.2.2) e)
    | none => some (floorLog2 t.2.1 t.2.2)
/-- Underflow of an inexact FP32 result below the minimum normal (R60). -/
def underFlag (code : Nat) : Flags := if code % 2147483648 < 8388608 then fUNF else 0
/-- window_sum into FP32 (R72): each term truncated at u, the sum exact, the sticky breaking a tie away from zero. DESIGN CHOICE (log 6): the
windowed sum s, not the sum of the terms, is judged for tininess, so s = 0 with the sticky set raises inexact alone. -/
def windowSum (terms : List (Bool × Nat × Nat)) : Nat × Flags :=
  match topExp terms with
  | none => (0, 0)
  | some e =>
    let u := e - 63
    let st := terms.foldl (fun (a : Int × Bool) t =>
      let k := inUnits t.2.1 t.2.2 u
      (a.1 + (if t.1 then -(k.1 : Int) else k.1), a.2 || k.2.1 != 0)) (0, false)
    if st.1 == 0 then (0, if st.2 then fINX else 0)
    else
      let m := st.1.natAbs
      let q := scale2 m u
      let r : Nat × Flags := roundTo .f32 rne false (.fin (st.1 < 0) q.1 q.2)
      if r.2 == 0 then (r.1, if st.2 then fINX ||| underFlag r.1 else 0)
      else
        let q := scale2 (2 * m + (if st.2 then 1 else 0)) (u - 1)
        roundTo .f32 rne false (.fin (st.1 < 0) q.1 q.2)
/-- One element of a matrix op on a floating accumulator (R71, R72). -/
def matSum (a b : List FV) (c : FV) : Nat × Flags :=
  match nanSelect .f32 (a ++ b ++ [c]) with
  | some n => n
  | none =>
    let ps := (a.zip b).map fun p => mulV p.1 p.2
    if ps.any (·.isNone) then (defaultNan .f32, fINV)
    else
      let ts := ps.filterMap id ++ [c]
      let infs := ts.filter isInf
      if infs.any signOf && infs.any (!signOf ·) then (defaultNan .f32, fINV)
      else match infs with
        | v :: _ => ((infTo .f32 false (signOf v)).1, 0)
        | [] => if ts.all isZero then (if ts.all signOf then 2 ^ 31 else 0, 0) else windowSum (finTerms ts)
/-- The FP64 chain (R73). -/
def matChain : List FV → List FV → Nat → Flags → Nat × Flags
  | a :: as, b :: bs, c, fl =>
    let r := fmaRes .f64 rne a b (decodeFloat .f64 c)
    matChain as bs r.1 (fl ||| r.2)
  | _, _, c, fl => (c, fl)
/-- The INT32 sum (R73). -/
def matInt (a b : List Int) (c : Nat) : Nat × Flags :=
  let s := (a.zip b).foldl (fun acc p => acc + p.1 * p.2) (tyVal ⟨32, true⟩ c)
  (fitTy ⟨32, true⟩ false s, if s < tyMin ⟨32, true⟩ || tyMax ⟨32, true⟩ < s then fIOV else 0)

end Sys2Proof.Machine
end

