-- ==== Sys2Proof/Machine/Float.lean ====
section
/-! DEFINITION. The vector floating-point, conversion and quantising instructions (11), the special functions apart. -/
namespace Sys2Proof.Machine

/-! ### Elements of a lane (R224, R225) -/

/-- The floating type of TY or T2: f32, f64, f16x2, bf16x2 (07 R138). -/
def fltFmt (ty : Nat) : Fmt := match ty with | 0 => .f32 | 1 => .f64 | 2 => .f16 | _ => .bf16
/-- Elements a lane register holds of a floating type. -/
def fltElems (f : Fmt) : Nat := if f == .f16 || f == .bf16 then 2 else 1
/-- The code of element h of a lane. -/
def fltCode (c : Cohort) (f : Fmt) (n l h : Nat) : Nat :=
  if f == .f64 then (vrd2 c n l).toNat
  else if f == .f32 then (vrd c n l).toNat else (vrd c n l).toNat / 65536 ^ h % 65536
/-- The value of element h of a lane. -/
def fltVal (c : Cohort) (f : Fmt) (n l h : Nat) : FV := decodeFloat f (fltCode c f n l h)
/-- The lane value of a list of element codes. -/
def fltPack (f : Fmt) (codes : List Nat) : Nat :=
  if fltElems f == 2 then codes.getD 0 0 + 65536 * codes.getD 1 0 else codes.getD 0 0
/-- NA and AA applied to a source a (R226). -/
def srcA (m : BitVec 7) (v : FV) : FV := modV (m.getLsbD 6) (m.getLsbD 4) v
/-- NB and AB applied to a source b. -/
def srcB (m : BitVec 7) (v : FV) : FV := modV (m.getLsbD 5) (m.getLsbD 3) v

/-- The elements of a lane: each code with its flags. -/
def laneRes (f : Fmt) (g : Nat → Nat × Flags) : Nat × Flags :=
  let l := (List.range (fltElems f)).map g
  (fltPack f (l.map (·.1)), orFlags (l.map (·.2)))
/-- Each active lane's value written to vD and the flags of them all raised (R224). -/
def writeLanes (c : Cohort) (frag : Nat) (two : Bool) (vd : Nat) (rs : List (Nat × Nat × Flags)) : Cohort :=
  opFlags (rs.foldl (fun acc r => laneSet acc two vd r.1 r.2.1) c) frag (orFlags (rs.map (·.2.2)))
/-- A fixed-latency op: element h of lane l of a result of format f, from the cohort as it stands. -/
def fltOp (i : Instr) (g : Guard) (f : Fmt) (vd : BitVec 8) (s : State) (e : Cohort → Nat → Nat → Nat × Flags) :
    Host.Outcome State Fault Refusal :=
  let c := s.me
  op i s (.done (s.setMe (writeLanes c s.cur.frag (f == .f64) vd.toNat
    ((s.active g).map fun l => (l, laneRes f (e c l))))))
/-- A variable-latency op: the results and flags come later (08 R167, 03 R70). -/
def fltLater (i : Instr) (g : Guard) (f : Fmt) (vd : BitVec 8) (s : State) (e : Cohort → Nat → Nat → Nat × Flags) :
    Host.Outcome State Fault Refusal :=
  let c := s.me
  let rs := (s.active g).map fun l => (l, laneRes f (e c l))
  let ws := rs.flatMap fun r =>
    if f == .f64 then [⟨.v vd.toNat r.1, dw r.2.1⟩, ⟨.v (vd.toNat + 1) r.1, dw (r.2.1 / 2 ^ 32)⟩]
    else [(⟨.v vd.toNat r.1, dw r.2.1⟩ : Wr)]
  op i s (.done (s.addPend .known ws none (orFlags (rs.map (·.2.2)))))
/-- The rounding of an op's element (R226). -/
def elemRnd (c : Cohort) (f : Fmt) (rm l h : Nat) : Rnd := rndOf c rm (l * fltElems f + h)

/-! ### Arithmetic (R227, R228) -/

/-- A two-source op that rounds an exact result. -/
def flt2 (i : Instr) (o : G3) (s : State) (x : Bool → FV → FV → Option FV) : Host.Outcome State Fault Refusal :=
  let f := fltFmt o.ty.toNat
  fltOp i o.g f o.vd s fun c l h =>
    let a := srcA o.mod (fltVal c f o.va.toNat l h)
    let b := srcB o.mod (fltVal c f o.vb.toNat l h)
    let r := elemRnd c f (rmOf o.mod) l h
    opRes f r [a, b] (x (r.mode == 4) a b)

/-- VFADD (R227). -/
def execVfadd (o : G3) (s : State) := flt2 (.vfadd o) o s addV
/-- VFSUB (R227). -/
def execVfsub (o : G3) (s : State) := flt2 (.vfsub o) o s fun rd a b => addV rd a (negV b)
/-- VFMUL (R227). -/
def execVfmul (o : G3) (s : State) := flt2 (.vfmul o) o s fun _ a b => mulV a b

/-- The fused multiply-adds: `na` and `nc` negate a and c after the extension's modifiers (R228). -/
def fltFma (i : Instr) (o : G4) (x : Ext) (s : State) (na nc : Bool) : Host.Outcome State Fault Refusal :=
  let f := fltFmt o.t2.toNat
  let e := x.getD 0
  fltOp i o.g f o.vd s fun c l h =>
    let a := modV na false (modV (e.getLsbD 8) (e.getLsbD 5) (fltVal c f o.va.toNat l h))
    let b := modV (e.getLsbD 7) (e.getLsbD 4) (fltVal c f o.vb.toNat l h)
    let d := modV nc false (modV (e.getLsbD 6) (e.getLsbD 3) (fltVal c f o.vc.toNat l h))
    fmaRes f (elemRnd c f (e.toNat % 8) l h) a b d

/-- VFMA (R228). -/
def execVfma (o : G4) (x : Ext) (s : State) := fltFma (.vfma o x) o x s false false
/-- VFMS (R228). -/
def execVfms (o : G4) (x : Ext) (s : State) := fltFma (.vfms o x) o x s false true
/-- VFNMA (R228). -/
def execVfnma (o : G4) (x : Ext) (s : State) := fltFma (.vfnma o x) o x s true true
/-- VFNMS (R228). -/
def execVfnms (o : G4) (x : Ext) (s : State) := fltFma (.vfnms o x) o x s true false

/-! ### Minimum, maximum, compare, classify (R229-R231) -/

/-- −0 below +0, else the order of values. -/
def below (a b : FV) : Bool := ltV a b || (!ltV b a && signOf a && !signOf b)
/-- The result of `vfmin` (max false) or `vfmax`: an operand bit for bit, NaNs by SEL (R229). -/
def minMax (f : Fmt) (max nanSel : Bool) (a b : FV) : Nat × Flags :=
  let fl : Flags := if isSnan a || isSnan b then fINV else 0
  let code (v : FV) : Nat := (roundTo f rne false v).1
  if isNan a || isNan b then
    if !nanSel && !isNan a then (code a, fl)
    else if !nanSel && !isNan b then (code b, fl)
    else (nanSelect f [a, b]).getD (0, 0)
  else (code (if below a b != max then a else b), 0)
/-- The shared meaning of `vfmin` and `vfmax`. -/
def fltMinMax (i : Instr) (o : G3) (s : State) (max : Bool) : Host.Outcome State Fault Refusal :=
  let f := fltFmt o.ty.toNat
  fltOp i o.g f o.vd s fun c l h =>
    minMax f max (rmOf o.mod == 1) (srcA o.mod (fltVal c f o.va.toNat l h)) (srcB o.mod (fltVal c f o.vb.toNat l h))
/-- VFMIN (R229). -/
def execVfmin (o : G3) (s : State) := fltMinMax (.vfmin o) o s false
/-- VFMAX (R229). -/
def execVfmax (o : G3) (s : State) := fltMinMax (.vfmax o) o s true

/-- A comparison and the flags it raises (R230). -/
def fltCmp (sel : Nat) (a b : FV) : Bool × Flags :=
  let un := isNan a || isNan b
  let sn : Flags := if isSnan a || isSnan b then fINV else 0
  let qn : Flags := if un then fINV else 0
  match sel with
  | 0 => (eqV a b, sn)
  | 1 => (!eqV a b, sn)
  | 2 => (!un && ltV a b, qn)
  | 3 => (!un && !ltV a b, qn)
  | 4 => (!un && ltV b a, qn)
  | 5 => (!un && !ltV b a, qn)
  | 6 => (un, sn)
  | _ => (!un, sn)
/-- VFCMP (R230). -/
def execVfcmp (o : G3) (s : State) : Host.Outcome State Fault Refusal :=
  let f := fltFmt o.ty.toNat
  let c := s.me
  let rs := (s.active o.g).map fun l =>
    (l, fltCmp (rmOf o.mod) (srcA o.mod (fltVal c f o.va.toNat l 0)) (srcB o.mod (fltVal c f o.vb.toNat l 0)))
  op (.vfcmp o) s (.done (s.setMe (opFlags (rs.foldl (fun acc r => pwr acc o.vd.toNat r.1 r.2.1) c) s.cur.frag
    (orFlags (rs.map (·.2.2))))))

/-- The class bit of a value of a format (R231). -/
def fltClass (f : Fmt) (v : FV) : Nat :=
  match v with
  | .nan _ fr => if fr.testBit 51 then 9 else 8
  | .inf neg => if neg then 0 else 7
  | .fin neg n d =>
    if n == 0 then (if neg then 3 else 4)
    else
      let sub := floorLog2 n d < 1 - ((fmtEF f).2.2 : Int)
      if neg then (if sub then 2 else 1) else (if sub then 5 else 6)
/-- VFCLASS: one register, even for f64 (R231). -/
def execVfclass (o : G3) (s : State) : Host.Outcome State Fault Refusal :=
  let f := fltFmt o.ty.toNat
  let c := s.me
  op (.vfclass o) s (.done (s.setMe (forLanes (s.active o.g) (fun _ acc l =>
    laneSet acc false o.vd.toNat l (fltPack f ((List.range (fltElems f)).map fun h =>
      2 ^ fltClass f (fltVal c f o.va.toNat l h)))) c)))

/-! ### Divide and square root (R232) -/

/-- a/b, correctly rounded, with its special cases. -/
def divRes (f : Fmt) (r : Rnd) (a b : FV) : Nat × Flags :=
  let neg := signOf a != signOf b
  match nanSelect f [a, b] with
  | some n => n
  | none => match a, b with
    | .inf _, .inf _ => (defaultNan f, fINV)
    | .inf _, _ => infTo f false neg
    | _, .inf _ => (zeroCode f neg, 0)
    | .fin _ n d, .fin _ m e =>
      if m == 0 then if n == 0 then (defaultNan f, fINV) else ((infTo f false neg).1, fDZ)
      else roundTo f r false (.fin neg (n * e) (d * m))
    | _, _ => (defaultNan f, fINV)
/-- VFDIV (R232). -/
def execVfdiv (o : G3) (s : State) : Host.Outcome State Fault Refusal :=
  let f := fltFmt o.ty.toNat
  fltLater (.vfdiv o) o.g f o.vd s fun c l h =>
    divRes f (elemRnd c f (rmOf o.mod) l h) (srcA o.mod (fltVal c f o.va.toNat l h)) (srcB o.mod (fltVal c f o.vb.toNat l h))
/-- √a, correctly rounded, with its special cases. -/
def sqrtRes (f : Fmt) (r : Rnd) (a : FV) : Nat × Flags :=
  match nanSelect f [a] with
  | some n => n
  | none => match a with
    | .fin neg n d =>
      if n == 0 then (zeroCode f neg, 0)
      else if neg then (defaultNan f, fINV)
      else let q := sqrtQ n d; roundTo f r false (.fin false q.1 q.2)
    | .inf neg => if neg then (defaultNan f, fINV) else infTo f false false
    | _ => (defaultNan f, fINV)
/-- VFSQRT (R232). -/
def execVfsqrt (o : G3) (s : State) : Host.Outcome State Fault Refusal :=
  let f := fltFmt o.ty.toNat
  fltLater (.vfsqrt o) o.g f o.vd s fun c l h =>
    sqrtRes f (elemRnd c f (rmOf o.mod) l h) (srcA o.mod (fltVal c f o.va.toNat l h))

/-! ### Rounding to integral and scaling (R235, R236) -/

/-- A value rounded to an integral value of its own format (R235). -/
def rndRes (f : Fmt) (r : Rnd) (a : FV) : Nat × Flags :=
  match nanSelect f [a] with
  | some n => n
  | none => match a with
    | .fin neg n d =>
      let g := onGrid r neg n d 0
      ((roundTo f rne false (.fin neg g.1 1)).1, if g.2 then fINX else 0)
    | v => roundTo f rne false v
/-- VFRND (R235). -/
def execVfrnd (o : G3) (s : State) : Host.Outcome State Fault Refusal :=
  let f := fltFmt o.ty.toNat
  fltOp (.vfrnd o) o.g f o.vd s fun c l h =>
    rndRes f (elemRnd c f (rmOf o.mod) l h) (srcA o.mod (fltVal c f o.va.toNat l h))

/-- a·2^k rounded (R236). Past ±4,400 every k gives the same result in every format, so the exponent is held there. -/
def sclRes (f : Fmt) (r : Rnd) (a : FV) (k : Int) : Nat × Flags :=
  let q := scale2 1 (max (-4400) (min 4400 k))
  opRes f r [a] (match a with | .fin neg n d => some (.fin neg (n * q.1) (d * q.2)) | v => some v)
/-- VFSCL (R236). -/
def execVfscl (o : G3) (s : State) : Host.Outcome State Fault Refusal :=
  let f := fltFmt o.ty.toNat
  fltOp (.vfscl o) o.g f o.vd s fun c l h =>
    let w := (vrd c o.vb.toNat l).toNat
    let k := if fltElems f == 2 then tyVal ⟨16, true⟩ (w / 65536 ^ h) else tyVal ⟨32, true⟩ w
    sclRes f (elemRnd c f (rmOf o.mod) l h) (srcA o.mod (fltVal c f o.va.toNat l h)) k

/-! ### Conversions (R237, R238) -/

/-- VFCVT (R237). Element h of a packed destination from vA or vB; the elements of a packed source to vD and vD+1. -/
def execVfcvt (o : G3) (s : State) : Host.Outcome State Fault Refusal :=
  let st := fltFmt (vfcvtSt o.mod)
  let dt := fltFmt o.ty.toNat
  let src (c : Cohort) (n l h : Nat) : FV := modV (o.mod.getLsbD 6) (o.mod.getLsbD 4) (fltVal c st n l h)
  if fltElems st == 2 && fltElems dt == 1 then
    let c := s.me
    let rs := (s.active o.g).map fun l =>
      let e (h : Nat) := roundTo dt (rndOf c (rmOf o.mod) l) false (src c o.va.toNat l h)
      (l, e 0, e 1)
    op (.vfcvt o) s (.done (s.setMe (opFlags
      (rs.foldl (fun acc r => vwr (vwr acc o.vd.toNat r.1 (BitVec.ofNat 32 r.2.1.1)) (o.vd.toNat + 1) r.1
        (BitVec.ofNat 32 r.2.2.1)) c) s.cur.frag (orFlags (rs.map fun r => r.2.1.2 ||| r.2.2.2)))))
  else
    fltOp (.vfcvt o) o.g dt o.vd s fun c l h =>
      let v := if fltElems st == 2 then src c o.va.toNat l h
        else src c (if h == 0 then o.va.toNat else o.vb.toNat) l 0
      roundTo dt (elemRnd c dt (rmOf o.mod) l h) false v

/-- A floating value as an integer of a type (R238). -/
def toIntRes (t : IntTy) (r : Rnd) (a : FV) : Nat × Flags :=
  match a with
  | .nan _ _ => (0, fINV)
  | .inf neg => (fitTy t false (if neg then tyMin t else tyMax t), fINV)
  | .fin neg n d =>
    let g := if n == 0 then (0, false) else onGrid r neg n d 0
    let q : Int := if neg then -(g.1 : Int) else g.1
    if q < tyMin t || tyMax t < q then (fitTy t true q, fINV) else (fitTy t false q, if g.2 then fINX else 0)
/-- VFCVTI (R238). -/
def execVfcvti (o : G3) (s : State) : Host.Outcome State Fault Refusal :=
  let f := fltFmt o.ty.toNat
  let it : BitVec 3 := BitVec.ofNat 3 (o.mod.toNat / 8)
  let t := intTy it
  if o.mod.getLsbD 6 then
    fltOp (.vfcvti o) o.g f o.vd s fun c l h =>
      roundTo f (elemRnd c f (rmOf o.mod) l h) false (finOf (tyVal t (elem t (laneVal c (isPairTy it) o.va.toNat l) h)) 1)
  else
    let c := s.me
    op (.vfcvti o) s (.done (s.setMe (writeLanes c s.cur.frag (isPairTy it) o.vd.toNat ((s.active o.g).map fun l =>
      let rs := (List.range (fltElems f)).map fun h =>
        toIntRes t (elemRnd c f (rmOf o.mod) l h) (fltVal c f o.va.toNat l h)
      (l, packElems t (fun h => (rs.getD h (0, 0)).1), orFlags (rs.map (·.2)))))))

/-! ### Block quantisers (R239-R243) -/

/-- A format slot as its readers check it, with its compander table (02 R37). -/
def slotOf (c : Cohort) (n : Nat) : Option (Slot × Comp) :=
  if c.noSlots then none
  else (slotFields (c.fslots.getD n 0)).bind fun sl =>
    if !sl.cen then some (sl, [])
    else if c.ctab == 0 then none
    else c.tabs.bind fun w => (compTable w sl.cidx).map fun t => (sl, t)
/-- Element e of a packed run of codes of `w` bits at register p (R239). -/
def runCode (c : Cohort) (w p l e : Nat) : Nat := (vrd c (p + e * w / 32) l).toNat / 2 ^ (e * w % 32) % 2 ^ w
/-- Registers a packed run of 32 elements of `w` bits takes. -/
def runRegs (w : Nat) : Nat := w
/-- The scale code of block b in a scale register. -/
def scaleByte (c : Cohort) (vb l b : Nat) : Nat := (vrd c vb l).toNat / 256 ^ b % 256
/-- The highest register of a quantiser's runs, where it reaches the register count (R239). -/
def runBad (c : Cohort) (tops : List Nat) : Option DWord :=
  let m := maxOf tops
  if c.nreg ≤ m then some (dw m) else none

/-- The register words a quantiser reads: its run of `n` registers, and the scale register where the slot has scales. -/
def runReads (s : State) (o : G3) (n : Nat) (scales : Bool) : List (Nat × Nat) :=
  ((List.range n).map (o.va.toNat + ·) ++ (if scales then [o.vb.toNat] else [])).flatMap fun r =>
    (s.active o.g).map fun l => (r, l)

/-- VQSC (R240). -/
def execVqsc (o : G3) (s : State) : Host.Outcome State Fault Refusal :=
  let c := s.me
  opReading (.vqsc o) (runReads s o 32 false) s
    (match slotOf c o.ty.toNat with
     | none => .trap .fSlot 0 s
     | some (sl, _) =>
       if sl.sf == 0 then .trap .fSlot 0 s
       else match runBad c [o.va.toNat + 31, o.vd.toNat] with
         | some info => .trap .regRange info s
         | none => .done (s.setMe (forLanes (s.active o.g) (fun c acc l =>
             laneSet acc false o.vd.toNat l ((List.range (32 / sl.bs)).foldl (fun a b =>
               a + 256 ^ b * deriveScale ((List.range sl.bs).map fun e => fltVal c .f32 (o.va.toNat + b * sl.bs + e) l 0)
                 sl.elem sl.sf) 0)) c)))

/-- VQNT: the tile is quantised and DPH advances (R241). -/
def execVqnt (o : G3) (s : State) : Host.Outcome State Fault Refusal :=
  let c := s.me
  opReading (.vqnt o) (runReads s o 32 ((slotOf c o.ty.toNat).any fun p => p.1.sf != 0)) s
    (match slotOf c o.ty.toNat with
     | none => .trap .fSlot 0 s
     | some (sl, tab) =>
       let w := fmtBits sl.elem
       if sl.elem == .f64 || sl.elem == .f32 then .trap .fSlot 0 s
       else match runBad c ([o.va.toNat + 31, o.vd.toNat + runRegs w - 1] ++ (if sl.sf == 0 then [] else [o.vb.toNat])) with
         | some info => .trap .regRange info s
         | none =>
           let rs := (s.active o.g).map fun l => (l, (List.range 32).map fun e =>
             quantise (fltVal c .f32 (o.va.toNat + e) l 0) sl tab (if sl.sf == 0 then 0 else scaleByte c o.vb.toNat l (e / sl.bs))
               (if sl.bs == 1 then e else e % sl.bs) (dphOf c))
           let put (acc : Cohort) (r : Nat × List (Nat × Flags)) : Cohort :=
             (List.range (runRegs w)).foldl (fun acc k =>
               laneSet acc false (o.vd.toNat + k) r.1 ((List.range (32 / w)).foldl (fun a i =>
                 a + 2 ^ (w * i) * (r.2.getD (k * (32 / w) + i) (0, 0)).1) 0)) acc
           .done (s.setMe (opFlags (advanceDph (rs.foldl put c)) s.cur.frag
             (orFlags (rs.flatMap fun r => r.2.map (·.2))))))

/-- VDQNT (R243). -/
def execVdqnt (o : G3) (s : State) : Host.Outcome State Fault Refusal :=
  let c := s.me
  let p := slotOf c o.ty.toNat
  opReading (.vdqnt o) (runReads s o ((p.map fun p => runRegs (fmtBits p.1.elem)).getD 0) (p.any fun p => p.1.sf != 0)) s
    (match p with
     | none => .trap .fSlot 0 s
     | some (sl, tab) =>
       let w := fmtBits sl.elem
       if sl.elem == .f64 || sl.elem == .f32 then .trap .fSlot 0 s
       else match runBad c ([o.va.toNat + runRegs w - 1, o.vd.toNat + 31] ++ (if sl.sf == 0 then [] else [o.vb.toNat])) with
         | some info => .trap .regRange info s
         | none =>
           let rs := (s.active o.g).map fun l => (l, (List.range 32).map fun e =>
             let x := fetchElem sl tab (runCode c w o.va.toNat l e)
               (if sl.sf == 0 then 0 else scaleByte c o.vb.toNat l (e / sl.bs))
             let r := roundTo .f32 rne false x.1
             (r.1, x.2 ||| r.2))
           let put (acc : Cohort) (r : Nat × List (Nat × Flags)) : Cohort :=
             (List.range 32).foldl (fun acc e => laneSet acc false (o.vd.toNat + e) r.1 (r.2.getD e (0, 0)).1) acc
           .done (s.setMe (opFlags (rs.foldl put c) s.cur.frag (orFlags (rs.flatMap fun r => r.2.map (·.2))))))

end Sys2Proof.Machine
end

