-- ==== Sys2Proof/Machine/Home.lean ====
section
/-! DEFINITION. The home slice: what an atomic does to its unit, ordered reductions and the deferral buffer, and the serving of
held requests (16 R322, 18 R366-R372). -/
namespace Sys2Proof.Machine

/-! ### Functions of atomics (18 R366-R368) -/

/-- A w-bit pattern read as signed or unsigned. -/
def patVal (w : Nat) (signed : Bool) (p : Nat) : Int := tyVal ⟨w, signed⟩ p

/-- f(old, d) of an integer atomic, mod 2^w (R366). -/
def intAtom (fn : Nat) (signed : Bool) (w old d : Nat) : Nat :=
  match fn with
  | 0 => (old + d) % 2 ^ w
  | 1 => if patVal w signed d < patVal w signed old then d else old
  | 2 => if patVal w signed old < patVal w signed d then d else old
  | 3 => old &&& d
  | 4 => old ||| d
  | 5 => old ^^^ d
  | 6 => d
  | 7 => if d ≤ old then 0 else old + 1
  | _ => if old == 0 || d < old then d else old - 1

/-- apply_f on one element (R368). -/
def fltAtom1 (fn : Nat) (f : Fmt) (m d : Nat) : Nat × Flags :=
  let a := decodeFloat f m
  let b := decodeFloat f d
  match fn with
  | 3 => (d, 0)
  | 0 => opRes f rne [a, b] (addV false a b)
  | _ => if isNan a || isNan b then opRes f rne [a, b] none else (if below a b == (fn == 1) then m else d, 0)

/-- apply_f on a unit, element by element (R368). -/
def fltAtom (fn ft : Nat) (m d : Nat) : Nat × Flags :=
  let f := fltFmt ft
  if fltElems f == 2 then
    let a := fltAtom1 fn f (m % 65536) (d % 65536)
    let b := fltAtom1 fn f (m / 65536) (d / 65536)
    (a.1 + 65536 * b.1, a.2 ||| b.2)
  else fltAtom1 fn f m d

/-- What an atomic writes to a unit of `size` bytes, if anything, and its flags (R366-R368). -/
def atomStep (fn : AtomFn) (size old d c m : Nat) : Option Nat × Flags :=
  let w := 8 * size
  match fn with
  | .int f sg => (some (intAtom f.toNat sg w old d), 0)
  | .cas => (if old == c then some d else none, 0)
  | .gts => let k := (d + 2 ^ w - old) % 2 ^ w; (if 1 ≤ k && k < 2 ^ (w - 1) then some d else none, 0)
  | .vcs => (if old &&& m == c &&& m then some ((old &&& (2 ^ w - 1 - m)) ||| (d &&& m)) else none, 0)
  | .pcs => (if old == c then some d else none, 0)
  | .flt f ft => let r := fltAtom f.toNat ft.toNat old d; (some r.1, r.2)

/-! ### FREDFLAGS (R369) -/

/-- Bits set in a context's FREDFLAGS word of a die. -/
def State.redBits (s : State) (ctx die : Nat) (b : DWord) : State :=
  let c := s.ctx ctx
  s.setCtx ctx { c with fred := tput 0 c.fred die (tget 0 c.fred die ||| b) }

/-! ### Ordered reductions (R370-R372) -/

/-- The requests held in a slice's deferral buffer. -/
def deferred (s : State) (slice : Nat) : List Deferred := tget [] s.defer slice
def State.setDeferred (s : State) (slice : Nat) (l : List Deferred) : State := { s with defer := tput [] s.defer slice l }

/-- How far a request's tag stands ahead of its cell's NEXT, mod 2^32. -/
def redoAhead (s : State) (r : RedoReq) : Nat := (r.tag - BitVec.ofNat 32 (leNat (s.bytes (r.key + 8) 4))).toNat

/-- The acknowledgement of an ordered reduction, or the answer that tells its cohort of poison (18 R363, R364). -/
def redoResp (r : RedoReq) (pois : Bool) : Instr :=
  .aresp ⟨r.cid, 0, r.frag, 0, 0, r.addr, r.key, 16, 0, 0, pois, r.ctx, false, r.dead, []⟩

/-- A request whose tag equals NEXT is applied (R371): its release, where it is one, is made with it; it is acknowledged once every copy is
invalidated (16 R316). -/
def State.redoApply (s : State) (r : RedoReq) : State :=
  let s := s.touchGran (s.timeOf (homeDie r.key)) r.key
  let n := if r.f64 then 8 else 4
  let x := fltAtom 0 (if r.f64 then 1 else 0) (leNat (s.bytes r.key n)) (r.d.toNat % 2 ^ (8 * n))
  let next := leNat (s.bytes (r.key + 8) 4)
  let s := (((s.setBytes r.key (leBytes n x.1)).setBytes (r.key + 8) (leBytes 4 ((next + 1) % 2 ^ 32))).putToks r.car.toks).useLine
    (lineOf r.key) true
  ((s.redBits r.ctx (homeDie r.key) (x.2.zeroExtend 64)).invalidate (lineOf r.key) none (.send (redoResp r false))).performed
    (dieOf r.cid) r.car

/-- A request that has been passed is discarded, and is over. -/
def State.redoStale (s : State) (r : RedoReq) : State :=
  ((s.redBits r.ctx (homeDie r.key) 0x40).performed (dieOf r.cid) r.car).send (redoResp r false)

/-- A held request leaves its slice's buffer. -/
def State.redoFree (s : State) (r : RedoReq) : State :=
  let sl := sliceOf (lineOf r.key)
  s.setDeferred sl ((deferred s sl).erase (.redo r))

/-- Held requests of a line whose tag has come, each in turn (R371); on a line poisoned since, the next is answered as poisoned (R363). -/
def State.drainRedo : Nat → State → Nat → State
  | 0, s, _ => s
  | n + 1, s, line =>
    let due (d : Deferred) : Bool := match d with
      | .redo r => lineOf r.key == line && redoAhead s r == 0
      | _ => false
    match (deferred s (sliceOf line)).find? due with
    | some (.redo r) =>
      let s := s.redoFree r
      (if s.poisoned line then ((s.performed (dieOf r.cid) r.car).send (redoResp r true)) else s.redoApply r).drainRedo n line
    | _ => s

/-- Held requests of a line whose cell's NEXT a plain write has changed are tested again, `old` how far ahead each stood before: those passed are
discarded, those whose tag has come apply (R371). -/
def State.retestBy (old : RedoReq → Nat) (s : State) (line : Nat) : State :=
  let hit (d : Deferred) : Option RedoReq := match d with
    | .redo r => if lineOf r.key == line && old r != redoAhead s r && 2 ^ 31 ≤ redoAhead s r then some r else none
    | _ => none
  State.drainRedo 65 (((deferred s (sliceOf line)).filterMap hit).foldl (fun s r => (s.redoFree r).redoStale r) s) line

/-- The same where a plain write leads from one state to another. -/
def State.retestRedo (old s : State) (line : Nat) : State := State.retestBy (redoAhead old) s line
/-- The cells that services have written since are tested. -/
def State.retestNexts (s : State) : State :=
  s.nexts.foldl (fun (s : State) p =>
    State.retestBy (fun r => if r.key == p.1 then (r.tag - BitVec.ofNat 32 p.2).toNat else redoAhead s r) s (lineOf p.1)) { s with nexts := [] }

/-- A tagged reduction at the home: applied, held, discarded, or refused by a full buffer (R371). -/
def State.redoArrive (s : State) (r : RedoReq) : State :=
  let sl := sliceOf (lineOf r.key)
  let k := redoAhead s r
  if s.poisoned (lineOf r.key) then (s.performed (dieOf r.cid) r.car).send (redoResp r true)
  else if 2 ^ 31 ≤ k then s.redoStale r
  else if k == 0 then (s.redoApply r).drainRedo 65 (lineOf r.key)
  else if (deferred s sl).length < 64 then s.setDeferred sl (deferred s sl ++ [.redo r])
  else s.send (.redoRetry { r with
    delay := if r.delay == 0 then 256 else min 8192 (2 * r.delay), sentAt := s.cycOf (dieOf r.cid) })

/-! ### Far atomics (16 R322, 18 R363, R364) -/

/-- The answer to an atomic, with the tokens of the value it read. -/
def respOf (r : AtomReq) (old : Nat) (fl : Flags) (pois : Bool) (toks : List Token) : AtomResp :=
  ⟨r.cid, r.vid, r.frag, r.lane, r.rd, r.addr, r.key, r.size, BitVec.ofNat 128 old, fl, pois, r.ctx, r.ret, r.dead, toks⟩
/-- The bytes of an atomic's unit. -/
def unitOf (r : AtomReq) : List Nat := (List.range r.size).map (r.key + ·)

/-- ATOM applied at its home, or at the port of a host or peer page: every copy is invalidated before the answer leaves. The value written
carries the release's tokens where the atomic is one; a unit whose test fails is not written (18 R367). -/
def State.homeAtom (s : State) (r : AtomReq) : State :=
  let line := lineOf r.key
  let pkg := isHbm r.key || isCarve r.key
  if s.poisoned line || unitDown s r.key then (s.send (.aresp (respOf r 0 0 true []))).performed (dieOf r.cid) r.car
  else
    let old := leNat (s.bytes r.key r.size)
    let x := atomStep r.fn r.size old r.d.toNat r.c.toNat r.m.toNat
    let s := s.useLine line x.1.isSome
    let s := if r.ret then s else s.redBits r.ctx (if pkg then homeDie r.key else dieOf r.cid) (x.2.zeroExtend 64)
    let resp : Instr := .aresp (respOf r old x.2 false (toksOf s.tokens (unitOf r)))
    let s := match x.1 with
      | none => s.send resp
      | some v =>
        ((((s.touchGran (s.timeOf (homeDie r.key)) r.key).setBytes r.key (leBytes r.size v)).putToks r.car.toks).invalidate line none
          (.send resp))
    s.performed (dieOf r.cid) r.car

/-- Bytes the home itself writes for an op that is performed there (16 R322): every copy is invalidated, and held reductions of a cell they change are
tested again (18 R371). -/
def State.homeWrite (s : State) (key : Nat) (bs : List Byte) (toks : Toks := []) : State :=
  let t := (((s.touchGran (s.timeOf (homeDie key)) key).setBytes key bs).putToks toks).useLine (lineOf key) true
  State.retestRedo s (t.invalidate (lineOf key) none .victim) (lineOf key)

/-! ### Serving (16 R322) -/

/-- What the home does on a request, or on bytes a core gives up, that does not wait. -/
def State.homeAct (s : State) : Instr → State
  | .rd core line alloc => s.homeRd core line alloc
  | .wb core line m d pois ⟨n, car⟩ => s.homeWb core line m d pois n car
  | .iackData core line n m d ⟨pois, car⟩ => s.homeIackData core line n m d pois car
  | .fack core line n m d ⟨pois, car⟩ => s.homeFack core line n m d pois car
  | .lreq cid line len ⟨si, imp⟩ => s.homeLreq cid line len si imp
  | .claim eng line => s.homeClaim eng line
  | .atom r => s.homeAtom r
  | .redoRequest r => s.redoArrive r
  | .redoRetry r => s.redoArrive r
  | _ => s

/-- The first held request of a line that need wait no longer. -/
def nextHeld (e : DirEnt) : List Instr → List Instr → Option Instr
  | _, [] => none
  | ahead, m :: t => if homeBlocked e ahead m then nextHeld e (ahead ++ [m]) t else some m

/-- A plain write of a request may change a cell's NEXT. -/
def plainWrite : Instr → Bool
  | .redoRequest _ => false
  | .redoRetry _ => false
  | _ => true

/-- A request acts at its home, and the held reductions of its line are tested again where it has changed a cell's NEXT. -/
def State.actHome (s : State) (line : Nat) (m : Instr) : State :=
  if plainWrite m then State.retestRedo s (s.homeAct m) line else s.homeAct m

/-- Held requests of a line that need wait no longer are served in the order they came. -/
def State.serve : Nat → State → Nat → State
  | 0, s, _ => s
  | n + 1, s, line =>
    let e := s.dirEnt line
    match nextHeld e [] e.held with
    | none => s
    | some m => ((s.setDir line { e with held := e.held.erase m }).actHome line m).serve n line

/-- After an event at a line's home, held requests are served; the first that a claim still holds recalls its engine (R337). -/
def State.settleHome (s : State) (line : Nat) : State :=
  let s := s.serve ((s.dirEnt line).held.length + 1) line
  if (s.dirEnt line).held.isEmpty then s else s.recallHead line

/-- An implicit lease's LREQ waits at the home: the contention counter of its core rises (R339). -/
def State.nearWaits (s : State) (cid line : Nat) : State :=
  let core := coreOf cid
  let c := s.core core
  (s.setCore core { c with nears := c.nears.map fun x => if lineOf x.r.key == line then { x with waited := true } else x }).contend
    core line true

/-- A request reaches the home of its line: it acts, or it is held, and a claim's engine recalled (16 R322, R337). -/
def State.homeMsg (s : State) (line : Nat) (m : Instr) : State :=
  let e := s.dirEnt line
  if homeBlocked e e.held m then
    let s := (s.setDir line { e with held := e.held ++ [m] }).recallHead line
    match m with
    | .lreq cid _ _ ⟨_, true⟩ => s.nearWaits cid line
    | _ => s
  else (s.actHome line m).settleHome line

/-- A write of an agent outside the cores performed at a line's home, with the tokens of the release it is: merged, every copy invalidated,
held reductions of its cell tested again; none while a lease or claim holds the line (16 R322, 18 R371), or while a release to a host or peer
page waits for its marks (21 R425). A write to the host is lost when no port carries it. -/
def State.devWrite (s : State) (key : Nat) (bs : List Byte) (toks : Toks := []) : Option State :=
  let line := lineOf key
  if !portReady s key toks then none
  else if isHost key then some (if hostUp s then (s.setBytes key bs).putToks toks else s)
  else if !homeFree s line then none
  else
    let t := s.mergeHome line (maskOfBytes ((List.range bs.length).map (key % 128 + ·)))
      (BitVec.ofNat 1024 (leNat bs) <<< (8 * (key % 128))) false toks
    some (State.retestRedo s (t.invalidate line none .victim) line)

end Sys2Proof.Machine
end

