-- ==== Sys2Proof/Machine/Issue.lean ====
section
/-! DEFINITION. Issue: which cohort and fragment a core takes, the word's checks, the op of a slot; the passing of TIME and
clocks; and the placing of one word for the host (07 R149-R151, 08 R165, R175, R176, 15 R303-R312). -/
namespace Sys2Proof.Machine

/-- What the checks of a word depend on, for a fragment of a cohort. -/
def wordEnv (c : Cohort) (e : Ent) : WordEnv :=
  ⟨e.header.uni, e.header.leaf, c.nreg, fun n => ((xrd c n).base, (xrd c n).bound)⟩

/-- The op in a slot of a word that passed its checks; the extension stands in form 00 only (07 R136). -/
def slotInstr (w : IWord) (b : Bool) : Instr :=
  if b then (decodeOp (slotB w) none).getD (.illegalWord w)
  else
    let x : Ext := if formOf w == 0 && opcTakesExt (opcOf (slotA w)) then some (slotB w) else none
    (decodeOp (slotA w) x).getD (.illegalWord w)

/-- A fragment issues: it goes last among its cohort's, whose age falls to 0 (08 R165, R176). -/
def takeTurn (c : Cohort) (e : Ent) : Cohort := setEnt { c with stamp := c.stamp + 1, age := 0 } { e with turn := c.stamp + 1 }
/-- An op that may stand in a run that finishes inside a lease (16 R334): no wait, no barrier, no op that reaches other memory by its engine. -/
def runOp : Instr → Bool
  | .yield _ => false
  | .jget _ => false
  | .mwait _ => false
  | .mld _ _ => false
  | .mldsc _ => false
  | .mswp _ => false
  | .cpIn _ _ => false
  | .cpOut _ _ => false
  | .cpTile _ _ => false
  | .bcbExp _ => false
  | .bcbWt _ => false
  | .xdma _ _ => false
  | .wadr _ => false
  | .lsa _ => false
  | .barIniArv _ => false
  | .barIniByte _ => false
  | .barIniFree _ => false
  | .barArv _ => false
  | .barWt _ => false
  | .barSync _ => false
  | .barCl _ => false
  | .barDie _ => false
  | .fenceRel _ => false
  | .fenceAcq _ => false
  | .fenceFull _ => false
  | .fenceRacq _ => false
  | .futNew _ => false
  | .futNewBind _ => false
  | .futGet _ => false
  | .futSet _ => false
  | .futSetAbn _ => false
  | .futReg _ => false
  | .tskPark _ => false
  | .tskSpawn _ => false
  | .launch _ => false
  | .trap _ => false
  | .bist _ => false
  | .halt _ => false
  | .ctxSave _ => false
  | .ctxLoad _ => false
  | _ => true
/-- The run under a lease with one more word of a fragment's (16 R334): one that enters a block, or an op that may not stand there, ends it. -/
def nextRun (e : Ent) (ok : Bool) : Nat × Nat → Option (Nat × Nat)
  | (f, n) => if f != e.id then some (f, n) else if ok && e.widx != 0 && n < 24 then some (f, n + 1) else none
/-- The runs under a cohort's leases with one more word. -/
def countRun (c : Cohort) (e : Ent) (ok : Bool) : Cohort :=
  if c.leases.all (·.run.isNone) then c
  else { c with leases := c.leases.map fun x => { x with run := x.run.bind (nextRun e ok) } }
/-- A fragment begins its word anew. -/
def beginWord (c : Cohort) (e : Ent) (runB : Bool) : Cohort :=
  takeTurn c { e with inWord := true, runA := true, runB := runB, triedA := false, triedB := false, stamp := c.stamp + 1 }

/-- An issue word counts in its context's accounting, and against its core's cycles (22 R444). -/
def State.countWord (s : State) (cid : Nat) : State :=
  let ctx := (s.cohort cid).ctx
  let x := s.ctx ctx
  let die := dieOf cid
  if (s.die die).acctBase.getLsbD 0 then
    let i := 16 * die + 1
    let j := 4096 + coreOf cid
    s.setCtx ctx { x with acct := tput 0 (tput 0 x.acct i (tget 0 x.acct i + 1)) j (tget 0 x.acct j + 1) }
  else s

/-- The next thing a fragment inside its block does: a slot of the word it stands in, or its next word after the checks of R151. A
word with slots left from an earlier pass begins a new one; one none of whose slots has completed is checked anew. -/
def issueWord (s : State) (cid : Nat) (c : Cohort) (e : Ent) : Instr × State :=
  let e := if e.inWord && (nextSlot e).isNone then { e with triedA := false, triedB := false } else e
  let c := takeTurn c e
  let e := entOf c e.id
  let s := s.setCohort cid c
  let w := e.word
  let single := formOf w == 0
  let whole := !e.inWord || (e.runA && (single || e.runB) && !e.triedA && !e.triedB)
  if whole then
    match decodeWord (wordEnv c e) w with
    | .error _ => (.illegalWord w, { s.setCohort cid (beginWord c e (!single)) with cur := ⟨cid, e.id, false⟩ })
    | .ok d => (d.a, { (s.countWord cid).setCohort cid (beginWord (countRun c e (runOp d.a && d.b.all runOp)) e d.b.isSome) with cur := ⟨cid, e.id, false⟩ })
  else
    let b := (nextSlot e).getD false
    (slotInstr w b, { s with cur := ⟨cid, e.id, b⟩ })

/-- The fragment a cohort issues next (08 R165, R166): one whose next word is fetched, and none while a trap is owed. -/
def wordFrag (c : Cohort) : Option Ent :=
  if betweenWords c && (dueTrap c).isSome then none
  else match c.handler with
    | some _ => (nextFrag c).filter (·.st == .run)
    | none =>
      match c.ents.find? (fun e => (nextSlot e).isSome && e.st == .run && e.wait.isNone) with
      | some e => some e
      | none => minBy turnKey (c.ents.filter fun e => mayGo c e && e.st == .run)

/-- Entries an op needs in its core's engine queues (08 R179): of the matrix queue, and of the copy queue. -/
def queueNeed : Instr → Nat × Nat
  | .mld _ _ => (1, 0)
  | .mldsc _ => (1, 0)
  | .mswp _ => (1, 0)
  | .mmac _ _ => (1, 0)
  | .mmacz _ _ => (1, 0)
  | .cpIn _ _ => (0, 1)
  | .cpOut _ _ => (0, 1)
  | .cpTile _ _ => (0, 1)
  | _ => (0, 0)
/-- A core's engine queues have room for an op (08 R179). -/
def queueRoom (s : State) (core : Nat) (i : Instr) : Bool :=
  (s.core core).matq.length + (queueNeed i).1 ≤ 32 &&
  ((queueNeed i).2 == 0 || (s.copies.filter (·.core == core)).length + (queueNeed i).2 ≤ 48)
/-- The op a fragment would issue next. -/
def nextOp (e : Ent) : Instr := slotInstr e.word (if e.inWord then (nextSlot { e with triedA := false, triedB := false }).getD false else false)

/-- The next slot op of a cohort. -/
def issue (s : State) (cid : Nat) : Option (Instr × State) :=
  let c := s.cohort cid
  (wordFrag c).map fun e => issueWord s cid c e

/-- A cohort stands still to be saved: its block is, it is between words, and no lease of it lasts (16 R335, 20 R417). -/
def stillForSave (s : State) (cid : Nat) (c : Cohort) : Bool :=
  ((s.blk c.blk).option == 2 || (s.ctx c.ctx).saver.isSome) && betweenWords c && !((s.core (coreOf cid)).leases.any (·.cid == some cid))

/-- A cohort that could issue now (08 R175); none of a die that is being reset (20 R419). -/
def ready (s : State) (cid : Nat) : Bool :=
  let c := s.cohort cid
  c.kind != .vacant && !(s.die (dieOf cid)).rstBusy && c.waits.isEmpty && !stillForSave s cid c && (wordFrag c).any fun e => queueRoom s (coreOf cid) (nextOp e)

/-- The order of R176: effective priority, age, lower slot. -/
def issueKey (s : State) (cid : Nat) : Nat :=
  let c := s.cohort cid
  let eff := min 7 (c.prio.toNat + c.age / 4096)
  (7 - eff) * 2 ^ 64 + (2 ^ 50 - c.age) * 2 ^ 12 + cid % slotsPerCore

/-- The cohort a core issues next (08 R176). -/
def pick (s : State) (core : Nat) : Option Nat :=
  minBy (issueKey s) ((tkeys s.cohorts).filter fun cid => coreOf cid == core && ready s cid)

/-- What a cohort waits for besides its op is looked at again: an acquire takes effect once its load has its data (16 R324), the
marks of a token once they are reached (15 R309). -/
def wakeWaits (s : State) (cid : Nat) : State :=
  (s.cohort cid).waits.foldl (fun s w =>
    let c := s.cohort cid
    match w with
    | .acquire vid sc toks =>
      if (c.pend.find? (·.vid == vid)).all (fun p => (pendReady c p).isSome) then
        (s.setCohort cid { c with waits := c.waits.filter (· != w) }).acquire cid sc.toNat toks
      else s
    | .tokens marks =>
      if marks.all (markReached s (dieOf cid)) then s.setCohort cid { c with waits := c.waits.filter (· != w) } else s
    | _ => s) s

/-- A waiting op tried again: the one its cohort waits for, else that of a fragment held at a barrier; while the cohort is in its handler
only the handler's. A die that is being reset has stopped (20 R419). -/
def wake (s : State) (cid frag : Nat) : Option (Instr × State) :=
  let c := s.cohort cid
  if (s.die (dieOf cid)).rstBusy then none
  else if c.waits.any (fun w => match w with | .op _ => true | _ => false) then
    match nextFrag c with
    | some e =>
      match nextSlot e with
      | some b => some (slotInstr e.word b, { s with cur := ⟨cid, e.id, b⟩ })
      | none => none
    | none => none
  else
    let e := entOf c frag
    if e.wait.isSome && c.handler.all (·.1 == frag) then
      (nextSlot e).map fun b => (slotInstr e.word b, { s with cur := ⟨cid, e.id, b⟩ })
    else none

/-- The k-th message may arrive: none that must arrive before it is ahead, it has travelled long enough, and a release to a host or peer page has its
marks applied (16 R321, 15 R311, 21 R425). -/
def mayArrive (s : State) (k : Nat) (m : Instr) : Bool :=
  arrived s k && !((s.net.take k).any fun e => mustPrecede s e m) &&
  match m with
  | .wb _ l _ _ _ ⟨_, car⟩ => portReady s (l * 128) car.toks
  | .lend _ l _ _ ⟨_, car⟩ => portReady s (l * 128) car.toks
  | .atom r => portReady s r.key r.car.toks
  | _ => true

/-- The k-th message in flight, if it may arrive; host and peer reads are answered by their own steps. -/
def take (s : State) (k : Nat) : Option (Instr × State) :=
  match s.net[k]? with
  | none => none
  | some m =>
    let outside := match m with | .rd _ line _ => isHost (line * 128) || isPeer (line * 128) | _ => false
    if outside || !mayArrive s k m then none
    else some (m, s.unsend k)

/-- A row that is neither an op of a word nor a message. -/
def isEvent (i : Instr) : Bool :=
  !isOp i && wayOf i == .free && (writeOf i).isNone &&
  match i with
  | .illegalWord _ => false
  | .aresp _ => false
  | .claim _ _ => false
  | .crel _ _ => false
  | .recall _ _ => false
  | .abandonRequest _ _ => false
  | .orphanTrap _ _ _ _ => false
  | .beaconRequest _ _ => false
  | _ => true

/-- Which agent moves when the schedule names none: free (08 R165, R176 bind a core's own choice). -/
opaque freeMove : Nat → Move

/-! ### Clocks (15 R303-R312) -/

/-- A die's cycles in `dt` units of TIME at FCUR MHz: dt·FCUR/16,000, the remainder kept. -/
def dieElapse (d : Die) (dt : Nat) : Die × Nat :=
  let t := d.rem + dt * d.fcur.toNat
  ({ d with cyc := d.cyc + dw (t / 16000), rem := t % 16000 }, t / 16000)

/-- A die's TIME copy once package TIME has advanced by `adv` to `p`: its own advance, kept from falling and within 32 units of `p`, so
that any two copies differ by at most 64 (15 R311). -/
def dieTime (old p : DWord) (adv : Nat) (adj : Int) : DWord :=
  let ahead := (old - (p - dw adv)).toInt
  p + BitVec.ofInt 64 (max (max (ahead - adv) (-32)) (min (ahead + adj) 32))

/-! ### One word for the host -/

/-- The cohort slot the host's word is placed in. -/
def hostCohort (w : IWord) : Cohort :=
  { Cohort.vacant with
    kind := .grid, w := 16, nreg := 256, live := 0xFFFF, nextEnt := 1, gid := 0, blk := 0,
    ents := [{ Ent.none with mask := 0xFFFF, hdr := 0x400000, st := .run,
                             blk := ⟨0xA500100000000000, [w]⟩ }] }

end Sys2Proof.Machine
end

