-- ==== Sys2Proof/Machine/Coherence.lean ====
section
/-! DEFINITION. The coherence messages and timers as they reach homes and cores (15 R307, 16). -/
namespace Sys2Proof.Machine

/-! ### Requests at the home (16 R322) -/

/-- RD (R322, R337). -/
def execRd (core line : Nat) (alloc : Bool) (s : State) : Host.Outcome State Fault Refusal :=
  .next (s.homeMsg line (.rd core line alloc))

/-- WI: the core joins WRT and HOLD (R322). -/
def execWi (core line : Nat) (s : State) : Host.Outcome State Fault Refusal :=
  let e := s.dirEnt line
  .next (s.setDir line { e with
    hold := joinHold e core,
    wrt := if e.wrt.contains core then e.wrt else e.wrt ++ [core] })

/-- The virtual address by which a context's core reaches a byte outside the package, from its cached translations; else the byte's own
address on its page. -/
def backAddr (s : State) (core ctx key : Nat) : DWord :=
  (s.tlb.findSome? fun t =>
    let lo := match leafLoc t.leaf with
      | 1 => hostKey (leafPa t.leaf t.size)
      | 2 => peerKey (leafPa t.leaf t.size)
      | _ => key + 1
    if t.core == core && t.ctx == ctx && lo ≤ key && key < lo + t.size then some (dw (t.base + (key - lo))) else none).getD
      (dw ((if isHost key then key - 2 ^ 64 else key - 2 ^ 53) % 2 ^ 64))

/-- A write that cannot reach its page outside the package: its bytes are lost, the cohorts that stored them trap E_POISON before their next
words, or their contexts' handlers, and the buffer is released (21 R424, R428, 20 R413). -/
def State.failWb (s : State) (core line n : Nat) (mask : LineMask) (car : Carry) : State :=
  let key := line * 128 + (maskBytes mask).headD 0
  let ws := (((s.core core).wbufs.find? fun b => b.line == line && b.n == n).map (·.writers)).getD []
  let s := ws.foldl (fun (s : State) cid =>
    let c := s.cohort cid
    if c.kind != .vacant then s.setCohort cid (deferTrap c (((c.ents.head?).map (·.id)).getD 0) .poison (backAddr s core c.ctx key) false)
    else
      let b := (s.blks.find? fun p => p.2.used && p.2.cids.contains cid).map (·.2)
      match b with
      | some b => s.send (.orphanTrap b.ctx .poison (backAddr s core b.ctx key) (dieOf cid))
      | none => s) s
  (s.send (.wback core line n)).performed (dieOfCore core) car

/-- WB (R322, R323); to a host page no port carries it is lost (21 R424). -/
def execWb (core line : Nat) (mask : LineMask) (bytes : LineData) (pois : Bool) (x : WbNo) (s : State) :
    Host.Outcome State Fault Refusal :=
  .next (if unitDown s (line * 128) then s.failWb core line x.n mask x.car else s.homeMsg line (.wb core line mask bytes pois x))

/-- LREQ (R322, R331). -/
def execLreq (cid line len : Nat) (x : LeaseAsk) (s : State) : Host.Outcome State Fault Refusal :=
  .next (s.homeMsg line (.lreq cid line len x))

/-- CLAIM (R322, R336). -/
def execClaim (eng line : Nat) (s : State) : Host.Outcome State Fault Refusal :=
  .next (s.homeMsg line (.claim eng line))

/-- ATOM (R322, 18 R364). -/
def execAtom (r : AtomReq) (s : State) : Host.Outcome State Fault Refusal :=
  .next (s.homeMsg (lineOf r.key) (.atom r))

/-- REDO_REQUEST (18 R371). -/
def execRedoRequest (r : RedoReq) (s : State) : Host.Outcome State Fault Refusal :=
  .next (s.homeMsg (lineOf r.key) (.redoRequest r))

/-- REDO_RETRY: sent again once its delay in core cycles has passed (18 R371). -/
def execRedoRetry (r : RedoReq) (s : State) : Host.Outcome State Fault Refusal :=
  if s.cycOf (dieOf r.cid) < r.sentAt + r.delay then .next (s.send (.redoRetry r))
  else .next (s.homeMsg (lineOf r.key) (.redoRetry r))

/-- CREL: the claim is removed, wherever it stands, and the waiting requests are served (R337). -/
def execCrel (eng line : Nat) (s : State) : Host.Outcome State Fault Refusal :=
  let e := s.dirEnt line
  .next ((s.setDir line { e with
    clm := e.clm.filter (· != eng), recalled := e.recalled && e.clm.head? != some eng,
    held := e.held.filter (· != .claim eng line),
    txns := e.txns.map fun t => if t.done == .claim eng then { t with done := .victim } else t }).settleHome line)

/-- LEND: the carried bytes merge as a WB; once their invalidations are acknowledged LSE clears (R322). A LEND of a core whose lease
the home has already given up merges alone. -/
def execLend (core line : Nat) (mask : LineMask) (bytes : LineData) (x : Given) (s : State) :
    Host.Outcome State Fault Refusal :=
  let t := s.mergeHome line mask bytes x.pois x.car.toks
  let e := t.dirEnt line
  let mine := match e.lse with | some (c, _) => c == core | none => false
  let t := t.setDir line { e with wrt := e.wrt.filter (· != core) }
  let t := if mask == 0 then (if mine then t.txnDone line (.lend core) else t)
    else (t.invalidate line (some core) (if mine then .lend core else .wrote core)).performed (dieOfCore core) x.car
  .next ((State.retestRedo s t line).settleHome line)

/-! ### Answers at the home (R322, R340) -/

/-- A core leaves HOLD. -/
def State.leaveHold (s : State) (core line : Nat) : State :=
  let e := s.dirEnt line
  s.setDir line { e with hold := e.hold.erase core }

/-- IACK CLEAN. -/
def execIackClean (core line txn : Nat) (s : State) : Host.Outcome State Fault Refusal :=
  .next (((s.leaveHold core line).txnAck line core txn none).settleHome line)

/-- IACK DATA: merged as a WB, behind another core's lease and any claim; the core leaves HOLD and WRT (R350, 17 R354). -/
def execIackData (core line txn : Nat) (mask : LineMask) (bytes : LineData) (x : Given) (s : State) :
    Host.Outcome State Fault Refusal :=
  .next (s.homeMsg line (.iackData core line txn mask bytes x))

/-- IACK WBIF n: the invalidation waits for write-back n (R340). -/
def execIackWbif (core line txn n : Nat) (s : State) : Host.Outcome State Fault Refusal :=
  .next (((s.leaveHold core line).txnAck line core txn (some n)).settleHome line)

/-- FACK: the forwarded bytes merge as a WB, behind another core's lease and any claim; the writer is clean, and its die's token stands with
them (R325, 17 R353). -/
def execFack (core line txn : Nat) (mask : LineMask) (bytes : LineData) (x : Given) (s : State) :
    Host.Outcome State Fault Refusal :=
  .next (s.homeMsg line (.fack core line txn mask bytes x))

/-- RETRY: 64 cycles of the home's die later it sends a refused probe again (R332); `due` is that cycle, 0 until the home has it. -/
def execRetry (core line txn : Nat) (x : Refused) (s : State) : Host.Outcome State Fault Refusal :=
  let now := s.cycOf (homeDie (line * 128))
  .next (if x.due == 0 then s.send (.retry core line txn ⟨x.fwd, now + 64⟩)
    else if now < x.due then s.send (.retry core line txn x)
    else s.send (match x.fwd with | some w => .fwd core line ⟨txn, w⟩ | none => .inv core line txn))

/-! ### Messages at a core -/

/-- DATA (R318). -/
def execData (core line : Nat) (bytes : LineData) (f : Fill) (s : State) : Host.Outcome State Fault Refusal :=
  .next (s.dataIn core line bytes f.pois f.toks)

/-- WBACK: the buffer is released; the entry keeps its bytes as clean (R319). -/
def execWback (core line n : Nat) (s : State) : Host.Outcome State Fault Refusal :=
  let c := s.core core
  let s := s.setCore core { c with wbufs := c.wbufs.filter fun b => !(b.line == line && b.n == n) }
  let e := s.lc core line
  .next (if e.wbn == some n then s.setLc core line { e with wbn := none } else s)

/-- The oldest lease of a core ends when it has run 32 core cycles, or at once (R332). -/
def State.forceOldest (s : State) (core : Nat) : State :=
  let c := s.core core
  match minBy (·.start) c.leases with
  | none => s
  | some l =>
    let at' := max (s.cycOf (dieOfCore core)) (l.start + 32)
    s.setCore core { c with leases := c.leases.map fun x => if x == l then { x with endAt := some at' } else x }

/-- A probe of a line reaches a core (R329, R332): it waits in the probe queue of a leased line, is refused by a full one, or is
answered by `k` once the bytes it would carry may leave. -/
def State.probe (s : State) (core line : Nat) (m refused : Instr) (k : State → State) : State :=
  let s := s.resetLen core line
  match leased s core line with
  | some l =>
    let c := s.core core
    if (c.leases.map (·.probes.length)).sum < 16 then
      s.setCore core { c with leases := c.leases.map fun x => if x == l then { x with probes := x.probes ++ [m] } else x }
    else (s.send refused).forceOldest core
  | none => if mayLeave s core line then k s else (s.writeBack core line).send m

/-- INV (R319, R340). -/
def execInv (core line txn : Nat) (s : State) : Host.Outcome State Fault Refusal :=
  .next (s.probe core line (.inv core line txn) (.retry core line txn ⟨none, 0⟩) fun s => s.answerInv core line txn)

/-- FWD (R325, R340). -/
def execFwd (core line : Nat) (x : Wanted) (s : State) : Host.Outcome State Fault Refusal :=
  .next (s.probe core line (.fwd core line x) (.retry core line x.n ⟨some x.want, 0⟩) fun s => s.answerFwd core line x.n)

/-- A unit's bytes that are not dirty leave a core's line cache: a far atomic has changed them. -/
def State.forget (s : State) (core key size : Nat) : State :=
  let line := lineOf key
  let e := s.lc core line
  let m := maskOfBytes ((List.range size).map (key % 128 + ·))
  s.setLc core line { e with valid := e.valid &&& (~~~m ||| e.dirty) }

/-- The writes of a unit to the registers from `rd` up. -/
def unitWrites (rd lane size : Nat) (v : Nat) : List Wr :=
  (List.range (size / 4)).map fun i => ⟨.v (rd + i) lane, dw (v / 2 ^ (32 * i) % 2 ^ 32)⟩

/-- One lane of a returning atomic is answered: its flags are raised at once; with the last, a trap they enable and poison among them are
owed (18 R363, R369). -/
def atomAnswered (c : Cohort) (r : AtomResp) : Cohort :=
  match c.pend.find? (·.vid == r.vid) with
  | some p =>
    match p.kind with
    | .atom left pois =>
      let pois := if r.pois then pois ++ [r.addr] else pois
      let flags := p.flags ||| r.flags
      let q : Pend := { p with
        kind := .atom (left - 1) pois, flags := if left ≤ 1 then 0 else flags, toks := p.toks ++ r.toks,
        writes := if r.pois then p.writes else p.writes ++ unitWrites r.rd r.lane r.size r.old.toNat }
      let c := noteToks { c with pend := c.pend.map fun x => if x.vid == r.vid then q else x } r.vid r.toks
      let c := if left ≤ 1 then raiseFlags c p.frag flags else { c with fstat := c.fstat ||| r.flags.zeroExtend 64 }
      match minBy (·.toNat) pois with
      | some a => if left ≤ 1 then deferTrap c p.frag .poison a false else c
      | none => c
    | _ => c
  | none => c

/-- An atomic's answer reaches its cohort; poison met by one that returns nothing is a trap when it is acknowledged, or its context's handler's
where the cohort has ended (18 R363). -/
def State.answerAtom (s : State) (r : AtomResp) : State :=
  if r.dead then (if r.pois then s.send (.orphanTrap r.ctx .poison r.addr (dieOf r.cid)) else s)
  else if r.ret then s.setCohort r.cid (atomAnswered (s.cohort r.cid) r)
  else if r.pois then s.setCohort r.cid (deferTrap (s.cohort r.cid) r.frag .poison r.addr false) else s

/-- ARESP: a far atomic's answer. -/
def execAresp (r : AtomResp) (s : State) : Host.Outcome State Fault Refusal :=
  .next ((if isScratch r.key then s else s.forget (coreOf r.cid) r.key r.size).answerAtom r)

/-! ### Timers of lines and leases (R319, R326, R331-R333) -/

/-- WRITEBACK_DEADLINE: a dirty entry is written back, no later than 2,048 core cycles after it became dirty, after the bytes a release
put before it (R319, 17 R353). Before that its core may write it back at any moment; a leased line goes with its lease's end. -/
def execWritebackDeadline (core line : Nat) (s : State) : Host.Outcome State Fault Refusal :=
  .next (if (leased s core line).isSome then s else s.writeBack core line)

/-- LINE_EXPIRY: a clean self-invalidating entry 2,048 core cycles after its fill is gone (R326). -/
def execLineExpiry (core line : Nat) (s : State) : Host.Outcome State Fault Refusal :=
  .next (if lcExpired s core line then s.setLc core line LcEnt.none else s)

/-- LEASE_EXPIRY: a lease ends after L core cycles (R333). -/
def execLeaseExpiry (core line : Nat) (s : State) : Host.Outcome State Fault Refusal :=
  match leased s core line with
  | some l => .next (if l.start + l.len ≤ s.cycOf (dieOfCore core) then s.endLease core l 1 else s)
  | none => .next s

/-- LEASE_FORCED_END: a lease whose forced end has come ends early (R332, R333). -/
def execLeaseForcedEnd (core : Nat) (s : State) : Host.Outcome State Fault Refusal :=
  match (s.core core).leases.find? fun l => l.endAt.any (· ≤ s.cycOf (dieOfCore core)) with
  | some l => .next (s.endLease core l 2)
  | none => .next s

/-- The lease a core holds on a line has run its length: it ends by expiry, whatever comes after (R333). -/
def leaseOver (s : State) (core : Nat) (l : Lease) : Option Nat :=
  if l.endAt.any (· ≤ s.cycOf (dieOfCore core)) then some 2
  else if l.start + l.len ≤ s.cycOf (dieOfCore core) then some 1 else none

/-- A line that a lost core may have written is poisoned at its home, every copy of it invalidated (17 R358), and recorded (R341). -/
def State.loseWriter (s : State) (core line : Nat) : State :=
  let e := s.dirEnt line
  let lost := e.wrt.contains core
  let s := s.setDir line { e with hold := e.hold.filter (· != core), wrt := e.wrt.filter (· != core) }
  if lost then
    ((s.setPoison line true).invalidate line none .victim).mcRecord 0 1 3 (homeDie (line * 128)) (sliceOf line % 24) (dw (homeOff (line * 128)))
  else s

/-- HOME_LEASE_TIMEOUT: the home reaches its bound without LEND, which only a reset of the lease's core brings about: it clears LSE and takes the
core's announced bytes as lost (R331, R341). While the lease or its LEND is still to come, time does not pass the bound. -/
def execHomeLeaseTimeout (line : Nat) (s : State) : Host.Outcome State Fault Refusal :=
  let e := s.dirEnt line
  match e.lse with
  | none => .next s
  | some (core, _, bound) =>
    let coming := (s.core core).leases.any (·.line == line) || s.net.any fun m => match m with
      | .lend c l _ _ _ => c == core && l == line
      | .lgrant cid l _ _ _ => coreOf cid == core && l == line
      | _ => false
    if coming || s.cycOf (homeDie (line * 128)) < bound || e.txns.any (·.done == .lend core) then .next s
    else .next (((s.setDir line { e with lse := none }).loseWriter core line).settleHome line)

/-- DIRECTORY_VICTIM: every copy of a victim line is invalidated (R320); a line under a lease is none. -/
def execDirectoryVictim (line : Nat) (s : State) : Host.Outcome State Fault Refusal :=
  .next (if (s.dirEnt line).lse.isSome then s else s.invalidate line none .victim)

/-! ### Beacons (15 R307) -/

/-- The beacon of die b to die c: APPLIED(a, b) for every a, with the epoch of the channel (R307, R310). -/
def beaconOf (s : State) (b c : Nat) : Instr :=
  .completionBeacon b c (s.die b).epoch ((List.range 14).filterMap fun a =>
    if a == b then none else some (a, (s.die a).epoch + (s.die b).epoch, appliedOf s a b))

/-- BEACON_TIMER: a die sends a beacon to every other (R307), at least every 100 ns. -/
def execBeaconTimer (die : Nat) (s : State) : Host.Outcome State Fault Refusal :=
  let s := s.setDie die { s.die die with beaconAt := s.ptime }
  .next ((List.range 14).foldl (fun s c => if c == die then s else s.send (beaconOf s die c)) s)

/-- BEACON_REQUEST: asked by `src`, `dst` sends one at once (R307). -/
def execBeaconRequest (src dst : Nat) (s : State) : Host.Outcome State Fault Refusal :=
  .next (s.send (beaconOf s dst src))

/-- COMPLETION_BEACON: die `dst` holds die `src`'s counts; one of an old epoch is dropped (R307, R310). -/
def execCompletionBeacon (src dst epoch : Nat) (applied : List (Nat × Nat × Nat)) (s : State) :
    Host.Outcome State Fault Refusal :=
  .next (if epoch != (s.die src).epoch then s else { s with beacons := applied.foldl (fun b p =>
    if p.2.1 == (s.die p.1).epoch + (s.die src).epoch then tput 0 b (dst * 256 + chanKey p.1 src) p.2.2 else b) s.beacons })

end Sys2Proof.Machine
end

