-- ==== Sys2Proof/Machine/Scalar.lean ====
section
/-! DEFINITION. The scalar instructions (09 R184-R192). -/
namespace Sys2Proof.Machine

/-- An op whose answer is one write to a scalar register. -/
def writeS (i : Instr) (s : State) (vd : BitVec 8) (v : DWord) : Host.Outcome State Fault Refusal :=
  op i s (.done (s.setS vd.toNat v))

/-- A three-operand scalar op: sD := fit(f(a, b)). -/
def scalar3 (i : Instr) (o : G3) (s : State) (f : Int → Int → Int) : Host.Outcome State Fault Refusal :=
  writeS i s o.vd (sFit o.ty (satOf o.mod) (f (sVal o.ty (sreg s.me o.va)) (sVal o.ty (sreg s.me o.vb))))

/-- A scalar op on the w-bit patterns of its sources. -/
def scalarBits (i : Instr) (o : G3) (s : State) (f : Nat → Nat → Nat) : Host.Outcome State Fault Refusal :=
  let w := (intTy o.ty).w
  writeS i s o.vd (sExt o.ty (f ((sreg s.me o.va).toNat % 2 ^ w) ((sreg s.me o.vb).toNat % 2 ^ w)))

/-- SADD (R185). -/
def execSadd (o : G3) (s : State) := scalar3 (.sadd o) o s (· + ·)
/-- SSUB (R185). -/
def execSsub (o : G3) (s : State) := scalar3 (.ssub o) o s (· - ·)
/-- SMUL (R185). -/
def execSmul (o : G3) (s : State) := scalar3 (.smul o) o s (· * ·)
/-- SMULH: the high w bits of the 2w-bit product (R185). -/
def execSmulh (o : G3) (s : State) := scalar3 (.smulh o) o s fun a b => Int.fdiv (a * b) (2 ^ (intTy o.ty).w)
/-- SDIV: all ones for a zero divisor, else truncated (R185). -/
def execSdiv (o : G3) (s : State) := scalar3 (.sdiv o) o s fun a b => if b = 0 then -1 else Int.tdiv a b
/-- SREM: the dividend for a zero divisor (R185). -/
def execSrem (o : G3) (s : State) := scalar3 (.srem o) o s fun a b => if b = 0 then a else a - b * Int.tdiv a b
/-- SAND (R185). -/
def execSand (o : G3) (s : State) := scalarBits (.sand o) o s (· &&& ·)
/-- SOR (R185). -/
def execSor (o : G3) (s : State) := scalarBits (.sor o) o s (· ||| ·)
/-- SXOR (R185). -/
def execSxor (o : G3) (s : State) := scalarBits (.sxor o) o s (· ^^^ ·)
/-- The count of a scalar shift: b mod w, unsigned (R185). -/
def sCount (o : G3) (s : State) : Nat := (sreg s.me o.vb).toNat % (intTy o.ty).w
/-- SSHL (R185). -/
def execSshl (o : G3) (s : State) := scalar3 (.sshl o) o s fun a _ => a * 2 ^ sCount o s
/-- SSHR: arithmetic for signed types, logical for unsigned (R185). -/
def execSshr (o : G3) (s : State) := scalar3 (.sshr o) o s fun a _ => Int.fdiv a (2 ^ sCount o s)
/-- SMIN (R185). -/
def execSmin (o : G3) (s : State) := scalar3 (.smin o) o s min
/-- SMAX (R185). -/
def execSmax (o : G3) (s : State) := scalar3 (.smax o) o s max

/-- SCMP: 1 or 0 by the condition FN (R186). -/
def execScmp (o : G3) (s : State) : Host.Outcome State Fault Refusal :=
  writeS (.scmp o) s o.vd
    (if cmpFn (fnOf o.mod) (sVal o.ty (sreg s.me o.va)) (sVal o.ty (sreg s.me o.vb)) then 1 else 0)

/-- SSEL: sA when the old sD is non-zero, else sB (R187). -/
def execSsel (o : G3) (s : State) : Host.Outcome State Fault Refusal :=
  writeS (.ssel o) s o.vd (if sreg s.me o.vd != 0 then sreg s.me o.va else sreg s.me o.vb)

/-- SBIT: a bit operation selected by FN (R186). -/
def execSbit (o : G3) (s : State) : Host.Outcome State Fault Refusal :=
  let w := (intTy o.ty).w
  let p := (sreg s.me o.va).toNat % 2 ^ w
  writeS (.sbit o) s o.vd (match fnOf o.mod with
    | 0 => dw (popcount w p)
    | 1 => dw (clz w p)
    | 2 => dw (ctz w p)
    | 3 => sExt o.ty (revBits w p)
    | 4 => sExt o.ty (revBytes w p)
    | _ => sExt o.ty p)

/-- SADDI: a plus the signed immediate (R188). -/
def execSaddi (o : GI) (s : State) : Host.Outcome State Fault Refusal :=
  writeS (.saddi o) s o.vd (sFit o.ty false (sVal o.ty (sreg s.me o.va) + o.imm.toInt))

/-- SLUI: shift left by 15 and OR the immediate (R188). -/
def execSlui (o : GI) (s : State) : Host.Outcome State Fault Refusal :=
  writeS (.slui o) s o.vd ((sreg s.me o.va <<< 15) ||| o.imm.zeroExtend 64)

/-- SLI: the 61-bit immediate, sign-extended for i64 and zero-extended for n64 (R188). -/
def execSli (o : GI) (x : Ext) (s : State) : Host.Outcome State Fault Refusal :=
  let v : BitVec 61 := o.imm ++ x.getD 0
  writeS (.sli o x) s o.vd (if o.ty == 6 then v.signExtend 64 else v.zeroExtend 64)

/-! ### Launch record fields the identifiers name (02 R29) -/

/-- Bits of word i of a launch record. -/
def rec (g : Grid) (i lo n : Nat) : Nat := bits (g.rcd.getD i 0) lo n
/-- GX, GY, GZ. -/
def gridDim (g : Grid) : Nat × Nat × Nat := (rec g 4 0 32, rec g 4 32 16, rec g 4 48 16)
/-- BX, BY, BZ. -/
def blockDim (g : Grid) : Nat × Nat × Nat := (rec g 5 0 13, rec g 5 13 13, rec g 5 26 13)
/-- DG: the grid was launched with die-gang. -/
def dieGang (g : Grid) : Bool := rec g 5 63 1 == 1
/-- DIEX: the ordinal of a die among those that hold slices (04 R92). -/
def diex (g : Grid) (d : Nat) : Nat := (g.slices.filter fun x => x.die < d).length

/-- The identifier an IMM names (R189). -/
def identifier (s : State) (id : Nat) : DWord :=
  let c := s.me
  let b := s.blk c.blk
  let g := s.grid c.gid
  let inGrid (v : Nat) : DWord := if c.kind == .grid then dw v else allOnes
  let gd := gridDim g
  let bd := blockDim g
  match id with
  | 0 => dw c.w
  | 1 => inGrid (b.idx % gd.1)
  | 2 => inGrid (b.idx / gd.1 % gd.2.1)
  | 3 => inGrid (b.idx / gd.1 / gd.2.1)
  | 4 => inGrid gd.1
  | 5 => inGrid gd.2.1
  | 6 => inGrid gd.2.2
  | 7 => inGrid bd.1
  | 8 => inGrid bd.2.1
  | 9 => inGrid bd.2.2
  | 0xA => inGrid b.cluster
  | 0xB => inGrid b.j
  | 0xC => if dieGang g then inGrid (diex g b.die) else allOnes
  | 0xD => dw (dieOf s.cur.cid)
  | 0xE => dw (coreOf s.cur.cid % coresPerDie)
  | 0xF => dw (s.cur.cid % slotsPerCore)
  | 0x10 => c.live
  | 0x11 => s.frag.mask
  | 0x12 => dw c.nreg
  | 0x13 => if c.kind == .grid then dw ((b.threads + c.w - 1) / c.w) else 1
  | 0x14 => if c.kind == .grid then dw b.cores.length else 1
  | _ => if c.kind == .grid then dw c.part else 0

/-- SGET (R189). -/
def execSget (o : GI) (s : State) : Host.Outcome State Fault Refusal :=
  writeS (.sget o) s o.vd (identifier s o.imm.toNat)

/-! ### Scalar loads and stores (R190-R192) -/

/-- The size in bytes of an SZ code (07 R140). -/
def szBytes (sz : BitVec 3) : Nat :=
  match sz.toNat with | 0 => 1 | 1 => 2 | 2 => 4 | 3 => 8 | 4 => 1 | _ => 2
/-- base + OFF·size, with the extension's byte displacement in form 00 (R190). -/
def memAddr (c : Cohort) (o : M) (x : Ext) (size : Nat) : DWord :=
  srd c o.sb.toNat + BitVec.ofInt 64 (o.off.toInt * size) + (x.getD 0).signExtend 64
/-- An op orders as its ORD says. -/
def isAcq (ord : BitVec 2) : Bool := ord.getLsbD 0
def isRel (ord : BitVec 2) : Bool := ord.getLsbD 1

/-- The protocol of each line a checked access touches. -/
def cohsOf (l : List (Acs × Nat × BitVec 2)) : Tbl Nat := l.map fun x => (lineOf x.2.1, x.2.2.toNat)

/-- Each unit of an access as one read. -/
def oneRead (sext : Bool) (dst : Acs → List Dst) (x : Acs × Nat × BitVec 2) : List LaneRd :=
  [⟨x.2.1, x.1.addr, x.1.size, sext, dst x.1⟩]

/-- The line misses a load of checked units would add to its core (13 R282). -/
def newMisses (s : State) (core : Nat) (l : List (Acs × Nat × BitVec 2)) : Nat :=
  let cold (x : Acs × Nat × BitVec 2) : Bool :=
    !isScratch x.2.1 && (List.range x.1.size).any fun i => (lcByte s core (x.2.1 + i)).isNone
  ((l.filter cold).map fun x => lineOf x.2.1).eraseDups.length

/-- A load of checked units (14 R284 check 6, R285, R286): poison traps; a line leased to another cohort of the core, an own atomic or plane load of its
bytes still to be made, a copy of an uncached line still to be written back, or a full port waits. `rds` gives the reads of a unit. -/
def loadUnits (s : State) (l : List (Acs × Nat × BitVec 2)) (ca : Bool) (ord : BitVec 2) (sc : BitVec 3)
    (rds : Acs × Nat × BitVec 2 → List LaneRd) : Res :=
  let core := coreOf s.cur.cid
  match lowest ((l.filter fun x => unitPoisoned s x.2.1 x.1.size || unitDown s x.2.1).map (·.1)) with
  | some a => .trap .poison a s
  | none =>
    if leaseHolds s core s.cur.cid l then .wait .lease s
    else if atomLate s s.cur.cid (unitKeys l) || planeLate s s.cur.cid (unitKeys l) then .wait .other s
    else
      let u := s.uncacheAll core l
      if !u.1 then .wait .other u.2
      else if 128 < missUse u.2 core + newMisses u.2 core l then .wait .room u.2
      else .done (u.2.issueLoad (l.flatMap rds) (cohsOf l) ca (if isAcq ord then some sc else none))

/-- The line cache entries a store of checked units enters. -/
def lcTargets (s : State) (core : Nat) (l : List (Acs × Nat × BitVec 2)) (ca : Bool) : List Nat :=
  ((l.filter fun x => !isScratch x.2.1 && goesToLc s core x.2.1 x.2.2 ca).map fun x => lineOf x.2.1).eraseDups

/-- A line of a core that holds bytes of a narrow release, but these. -/
def otherRel (s : State) (core : Nat) (ls : List Nat) : Option Nat :=
  (s.linesOf core).find? fun l => (s.lc core l).rel && !ls.contains l

/-- A store of checked units, in order, after its release where it is one, and after own reads of its bytes still to be made (14 R285,
R286). What a release orders must be home before its bytes leave the core (17 R353): before it, where some unit leaves at once, goes to a
leased line or one a lease is asked for, or the units lie in more lines than one; else the line it enters is marked, one line of a core at a time. -/
def storeUnits (s : State) (l : List (Acs × Nat × BitVec 2)) (ca : Bool) (ord : BitVec 2) (sc : BitVec 3)
    (data : Acs → List Byte) : Res :=
  let cid := s.cur.cid
  let core := coreOf cid
  let rel := relScope s (isRel ord) sc.toNat
  if leaseHolds s core cid l then .wait .lease s
  else if readLate s cid (unitKeys l) || atomLate s cid (unitKeys l) then .wait .other s
  else
    let u := s.uncacheAll core l
    if !u.1 then .wait .other u.2
    else
      let s := u.2
      let ls := lcTargets s core l ca
      let direct := l.filter fun x => !isScratch x.2.1 && !ls.contains (lineOf x.2.1)
      let leaves := !direct.isEmpty || 1 < ls.length || ls.any fun l => (leased s core l).isSome || leaseAsked s core l
      if 128 < missUse s core + direct.length ||
          direct.any (fun x => chanFull s (dieOfCore core) (homeAgent s (lineOf x.2.1) (dieOfCore core))) then .wait .room s
      else
        afterRelease s rel.isSome (rel.getD 0) (leaves := leaves) fun s =>
          match (if rel.isSome then otherRel s core ls else none) with
          | some l => .wait .release (s.writeBack core l)
          | none =>
            .done (l.foldl (fun s x => s.storeAt cid x.2.1 x.1.addr x.2.2 ca rel (!leaves) (data x.1)) s).relMade

/-- The executing fragment accesses lines: one that no lease of its cohort's is on ends its runs of R334. -/
def State.otherLines (s : State) (ls : List Nat) : State :=
  let c := s.me
  if c.leases.all (·.run.isNone) || ls.all fun l => c.leases.any fun x => x.line == l && x.ended.isNone then s
  else s.setMe { c with leases := c.leases.map fun x => { x with run := x.run.filter (·.1 != s.cur.frag) } }

/-- The checks of an access of the executing cohort. -/
def checkMine (s : State) (sp : BitVec 2) (kind : Acc) (reads fill : Bool) (us : List Acs)
    (no : Nat → Bool := fun _ => false) : Chk :=
  match checkAcs s (coreOf s.cur.cid) s.me.ctx (s.blk s.me.blk) sp kind reads fill us no with
  | .ok l s => .ok l (s.otherLines (l.map fun x => lineOf x.2.1))
  | r => r

/-- A lane load of units. -/
def laneLoad (s : State) (sp : BitVec 2) (ca : Bool) (ord : BitVec 2) (sc : BitVec 3) (us : List Acs)
    (rds : Acs × Nat × BitVec 2 → List LaneRd) : Res :=
  match checkMine s sp .read true false us with
  | .bad r => r
  | .ok l s => loadUnits s l ca ord sc rds

/-- A lane store of units. -/
def laneStore (s : State) (sp : BitVec 2) (ca : Bool) (ord : BitVec 2) (sc : BitVec 3) (us : List Acs)
    (data : Acs → List Byte) : Res :=
  match checkMine s sp .write false true us with
  | .bad r => r
  | .ok l s => storeUnits s l ca ord sc data

/-- SLD: one load for the cohort (R190-R192). -/
def execSld (o : M) (x : Ext) (s : State) : Host.Outcome State Fault Refusal :=
  let n := szBytes o.sz
  op (.sld o x) s (laneLoad s o.sp o.ca o.ord o.sc [⟨0, memAddr s.me o x n, n⟩] (oneRead (o.sz.toNat ≥ 4) fun _ => [.s o.vd.toNat]))

/-- SST: one store for the cohort (R190-R192). -/
def execSst (o : M) (x : Ext) (s : State) : Host.Outcome State Fault Refusal :=
  let n := szBytes o.sz
  op (.sst o x) s (laneStore s o.sp o.ca o.ord o.sc [⟨0, memAddr s.me o x n, n⟩] fun _ => leBytes n (srd s.me o.vd.toNat).toNat)

end Sys2Proof.Machine
end

