-- ==== Sys2Proof/Machine/Memory.lean ====
section
/-! DEFINITION. Lane loads and stores, prefetch, copy requests, byte-counting barriers, address waits, transfers through the
I/O dies, residency and lifetime classes (14). -/
namespace Sys2Proof.Machine

/-! ### Lane loads and stores (R283-R286) -/

/-- The units of an op of format M: base + l·size in each active lane. -/
def strideUnits (s : State) (o : M) (x : Ext) (size : Nat) : List Acs :=
  let base := memAddr s.me o x size
  (s.active o.g).map fun l => ⟨l, base + dw (l * size), size⟩

/-- The units of an op of format MG: sB + zext(vA[l]). -/
def gatherUnits (s : State) (o : MG) : List Acs :=
  (s.active o.g).map fun l => ⟨l, srd s.me o.sb.toNat + (vrd s.me o.va.toNat l).zeroExtend 64, szBytes o.sz⟩

/-- Where a lane's loaded element goes. -/
def laneDst (sz : BitVec 3) (vd : BitVec 8) (u : Acs) : List Dst :=
  if sz == 3 then [.v vd.toNat u.lane, .v (vd.toNat + 1) u.lane] else [.v vd.toNat u.lane]

/-- The bytes a lane stores. -/
def laneData (c : Cohort) (sz : BitVec 3) (vd : BitVec 8) (u : Acs) : List Byte :=
  leBytes (szBytes sz) (laneVal c (sz == 3) vd.toNat u.lane)

/-- The four reads of a lane's quad. -/
def quadReads (vd : BitVec 8) (x : Acs × Nat × BitVec 2) : List LaneRd :=
  (List.range 4).map fun i => ⟨x.2.1 + 4 * i, x.1.addr + dw (4 * i), 4, false, [.v (vd.toNat + i) x.1.lane]⟩

/-- The bytes of a lane's quad. -/
def quadData (c : Cohort) (vd : BitVec 8) (u : Acs) : List Byte :=
  (List.range 4).flatMap fun i => leBytes 4 (vrd c (vd.toNat + i) u.lane).toNat

/-- LD (R283-R286). -/
def execLd (o : M) (x : Ext) (s : State) : Host.Outcome State Fault Refusal :=
  op (.ld o x) s (laneLoad s o.sp o.ca o.ord o.sc (strideUnits s o x (szBytes o.sz))
    (oneRead (o.sz.toNat ≥ 4) (laneDst o.sz o.vd)))

/-- ST (R283-R286). -/
def execSt (o : M) (x : Ext) (s : State) : Host.Outcome State Fault Refusal :=
  op (.st o x) s (laneStore s o.sp o.ca o.ord o.sc (strideUnits s o x (szBytes o.sz)) (laneData s.me o.sz o.vd))

/-- LDG (R283-R286). -/
def execLdg (o : MG) (s : State) : Host.Outcome State Fault Refusal :=
  op (.ldg o) s (laneLoad s o.sp o.ca o.ord o.sc (gatherUnits s o) (oneRead (o.sz.toNat ≥ 4) (laneDst o.sz o.vd)))

/-- STG: among lanes that write one byte the highest remains (R285). -/
def execStg (o : MG) (s : State) : Host.Outcome State Fault Refusal :=
  op (.stg o) s (laneStore s o.sp o.ca o.ord o.sc (gatherUnits s o) (laneData s.me o.sz o.vd))

/-- LDQ: four registers a lane (R285). -/
def execLdq (o : M) (x : Ext) (s : State) : Host.Outcome State Fault Refusal :=
  op (.ldq o x) s (laneLoad s o.sp o.ca o.ord o.sc (strideUnits s o x 16) (quadReads o.vd))

/-- STQ: four registers a lane (R285). -/
def execStq (o : M) (x : Ext) (s : State) : Host.Outcome State Fault Refusal :=
  op (.stq o x) s (laneStore s o.sp o.ca o.ord o.sc (strideUnits s o x 16) (quadData s.me o.vd))

/-! ### Prefetch (R287, 06 R131) -/

/-- A prefetch of one address: it stops on a translation its core does not hold, a no-speculate or non-executable page, an uncached
page and one outside the package. -/
def State.prefetch (s : State) (core ctx : Nat) (a : DWord) : State :=
  match tlbHit s core ctx a.toNat with
  | none => s
  | some t =>
    if t.leaf.getLsbD 63 || !t.leaf.getLsbD 62 || leafCoh t.leaf == 2 || leafLoc t.leaf != 0 then s
    else match leafKey s t.leaf t.size a.toNat with
      | .ok k coh => if s.poisoned (lineOf k) || (s.lc core (lineOf k)).valid != 0 || 128 ≤ missUse s core then s
        else (s.miss core (lineOf k) true (coh == 1)).2
      | _ => s

/-- PREF: the line cache target asks for each lane's line; the other moves no value (R287). -/
def execPref (o : M) (x : Ext) (s : State) : Host.Outcome State Fault Refusal :=
  let us := strideUnits s o x (szBytes o.sz)
  op (.pref o x) s
    (.done (if o.vd == 0 && o.sp == 0 then us.foldl (fun s u => s.prefetch (coreOf s.cur.cid) s.me.ctx u.addr) s else s))

/-! ### Copy requests (R288-R293) -/

/-- What a copy op asks: direction, row bytes, rows, stride, barrier and mark registers. -/
structure CopyArgs where
  toNear : Bool
  rowb : Nat
  rows : Nat
  stride : DWord
  bar : Option Nat
  mark : Option (DWord × DWord)
  deriving DecidableEq, Repr

/-- The arguments of `cp.in` and `cp.out`. -/
def cpArgs (c : Cohort) (toNear : Bool) (x : BitVec 46) : CopyArgs :=
  ⟨toNear, xbits x 0 12 + 1, 1, 0, if x.getLsbD 20 then some (xbits x 12 8) else none,
    if x.getLsbD 21 then some (srd c (xbits x 22 6), srd c (xbits x 28 6)) else none⟩

/-- The arguments of `cp.tile`. -/
def tileArgs (c : Cohort) (vd : BitVec 8) (x : BitVec 46) : CopyArgs :=
  ⟨!x.getLsbD 16, (xbits x 0 8 + 1) * 16, xbits x 8 8 + 1, srd c (vd.toNat + 1),
    if x.getLsbD 25 then some (xbits x 17 8) else none,
    if x.getLsbD 26 then some (srd c (xbits x 27 6), srd c (xbits x 33 6)) else none⟩

/-- A named barrier of a block. -/
def barOf (b : Blk) (n : Nat) : Option Bar := tget none b.bars n
/-- The barrier is in byte mode. -/
def byteBar (b : Blk) (n : Nat) : Bool := (barOf b n).any (·.byteMode)
/-- A barrier of a block replaced. -/
def State.setBar (s : State) (blk n : Nat) (x : Option Bar) : State :=
  let b := s.blk blk
  s.setBlk blk { b with bars := tput none b.bars n x }

/-- The request a copy op makes. -/
def copyReq (s : State) (o : M) (a : CopyArgs) : CopyReq :=
  let c := s.me
  { id := s.next, core := coreOf s.cur.cid, cid := s.cur.cid, blk := c.blk, ctx := c.ctx, gid := c.gid, toNear := a.toNear,
    nearSp := if o.sz == 1 then 2 else 1, farSp := o.sp, near := srd c o.vd.toNat,
    far := srd c o.sb.toNat + BitVec.ofInt 64 (16 * o.off.toInt), frag := s.cur.frag, rowb := a.rowb, stride := a.stride,
    todo := List.range ((a.rowb * a.rows + 15) / 16), bar := a.bar, mark := a.mark,
    scope := if o.ord == 2 then o.sc else if !a.toNear then 4 else if o.sz == 1 then 2 else 1,
    ord := o.ord == 2, started := false, paused := none, claims := [], called := [], markDue := false, dead := false }

/-- The package lines of a request's far destination still to be written. -/
def claimLines (s : State) (r : CopyReq) : List Nat :=
  if r.toNear then []
  else (((r.dstKeys s).filter fun k => isHbm k || isCarve k).map lineOf).eraseDups

/-- CLAIM for every destination line not claimed yet (R291, 16 R336). -/
def State.claimFor (s : State) (r : CopyReq) : State × CopyReq :=
  let new := (claimLines s r).filter fun l => !r.claims.contains l
  (new.foldl (fun s l => s.send (.claim r.id l)) s, { r with claims := r.claims ++ new })

/-- Earlier accesses of the executing cohort that a request's writes must follow and that no claim orders before them (17 R354): atomics and plane
loads of its destination, and loads of one outside the package. -/
def dstLate (s : State) (r : CopyReq) : Bool :=
  let ks := (r.dstKeys s).map fun k => (k, 16)
  atomLate s r.cid ks || planeLate s r.cid ks || readLate s r.cid (ks.filter fun k => isHost k.1 || isPeer k.1)

/-- The checks of a request at issue (R290), then its release, its claims and its place in the queue. -/
def copyIssue (s : State) (o : M) (a : CopyArgs) : Res :=
  let c := s.me
  let r := copyReq s o a
  let markBad := match r.mark with | some (m, _) => m.toNat % 8 != 0 | none => false
  match [r.near, r.far, dw a.rowb, a.stride].find? (fun v => v.toNat % 16 != 0), markBad, r.mark with
  | some v, _, _ => .trap .align v s
  | none, true, some (m, _) => .trap .align m s
  | none, _, _ =>
    let nears := (r.todo.map fun u => r.nearAddr u) ++ (match r.mark with | some (m, _) => [m] | none => [])
    let fars := r.todo.map fun u => r.farAddr u
    let bad := (nears.filter fun a => r.trans s true .read a == .outside) ++
      (fars.filter fun a => r.trans s false .read a == .outside)
    match minBy (·.toNat) bad with
    | some a => .trap .protect a s
    | none =>
      if r.bar.any fun b => !byteBar (s.blk c.blk) b then .trap .illegal (dw (r.bar.getD 0)) s
      else if 48 ≤ (s.copies.filter (·.core == r.core)).length then .wait .room s
      else if dstLate s r then .wait .other s
      else if r.ord && atomsOut s r.cid then .wait .release s
      else afterRelease s r.ord r.scope.toNat fun s =>
        let p := s.claimFor r
        .done { p.1 with next := p.1.next + 1, copies := p.1.copies ++ [p.2] }

/-- CP_IN: far to near (R288-R291). -/
def execCpIn (o : M) (x : Ext) (s : State) : Host.Outcome State Fault Refusal :=
  op (.cpIn o x) s (copyIssue s o (cpArgs s.me true (x.getD 0)))
/-- CP_OUT: near to far (R288-R291). -/
def execCpOut (o : M) (x : Ext) (s : State) : Host.Outcome State Fault Refusal :=
  op (.cpOut o x) s (copyIssue s o (cpArgs s.me false (x.getD 0)))
/-- CP_TILE: rows packed near, a stride apart far (R288-R291). -/
def execCpTile (o : M) (x : Ext) (s : State) : Host.Outcome State Fault Refusal :=
  op (.cpTile o x) s (copyIssue s o (tileArgs s.me o.vd (x.getD 0)))

/-- A request replaced. -/
def State.setCopy (s : State) (r : CopyReq) : State :=
  { s with copies := s.copies.map fun x => if x.id == r.id then r else x }
/-- A request gone: it holds no claim any more. -/
def State.dropCopy (s : State) (r : CopyReq) : State :=
  r.claims.foldl (fun s l => s.send (.crel r.id l)) { s with copies := s.copies.filter (·.id != r.id) }

/-- COPY_REQUEST_START: the core's oldest request not started, in its cohort's order, begins and claims lines it could not at
issue (R290, R291). -/
def execCopyRequestStart (core : Nat) (s : State) : Host.Outcome State Fault Refusal :=
  match s.copies.find? fun r => r.core == core && !r.started with
  | none => .next s
  | some r =>
    let p := s.claimFor r
    .next (p.1.setCopy { p.2 with started := true })

/-- A request aborts (R292): its barrier becomes aborted, or its cohort owes E_COPYABORT, or its context's handler gets it. -/
def State.abortCopy (s : State) (r : CopyReq) (addr : DWord) : State :=
  let s := s.dropCopy r
  match r.bar with
  | some n =>
    match barOf (s.blk r.blk) n with
    | some b => s.setBar r.blk n (some { b with abt := true, abta := if b.abt then b.abta else addr })
    | none => s
  | none =>
    if r.dead then s.send (.orphanTrap r.ctx .copyAbort addr (dieOfCore r.core))
    else s.setCohort r.cid (deferTrap (s.cohort r.cid) r.frag .copyAbort addr false)

/-- A byte of a request's side cannot be moved: its translation is refused, or its granule is lapsed or, for a read, expired. -/
def copyRefused (s : State) (r : CopyReq) (near : Bool) (k : Acc) (a : DWord) : Bool :=
  match r.trans s near k a with
  | .ok key _ =>
    let sp := if near then r.nearSp else r.farSp
    s.lapsed key sp (s.blk r.blk) a || (k == .read && s.expired (s.timeOf (dieOfCore r.core)) key)
  | .park => false
  | _ => true

/-- The lowest address a side of a request cannot move, where there is one (R292). -/
def copyLowest (s : State) (r : CopyReq) (src : Bool) : Option DWord :=
  let near := if src then !r.toNear else r.toNear
  minBy (·.toNat) (((r.todo.map fun u => if src then r.srcAddr u else r.dstAddr u)).filter
    fun a => copyRefused s r near (if src then .read else .write) a)

/-- Translation parks: one page request, the claims given up, the request paused (R292, 16 R338). -/
def State.pauseCopy (s : State) (r : CopyReq) (a : DWord) (write : Bool) : State :=
  let p := s.pageRequest r.ctx a write (dieOfCore r.core)
  (r.claims.foldl (fun s l => s.send (.crel r.id l)) p.2).setCopy { r with paused := some p.1, claims := [], called := [] }

/-- A source byte at a key, from the core's newer bytes or its home. -/
def srcByte (s : State) (core key : Nat) : Byte := (ownByte s core key).getD (s.byte key)
/-- Bytes of a source are poisoned (16 R327). -/
def srcPois (s : State) (key n : Nat) : Bool := unitPoisoned s key n || unitDown s key

/-- Bytes of an engine written at a destination (R291, R292, 16 R322), with their tokens: scratch, home line, host or peer. Held reductions of a
cell they change are tested again (18 R371). -/
def State.engWrite (s : State) (die key : Nat) (bs : List Byte) (pois : Bool) (toks : Toks := []) : State :=
  let s := s.touchGran (s.timeOf die) key
  if isScratch key then (List.range bs.length).foldl (fun s i => s.setScratchPois (key + i) pois) ((s.setBytes key bs).putToks toks)
  else if isHost key then
    if hostUp s then let s := s.setBytes key bs; if pois then s.setPoison (lineOf key) true else s else s
  else if isPeer key then let s := s.setBytes key bs; if pois then s.setPoison (lineOf key) true else s
  else
    let t := s.mergeHome (lineOf key) (maskOfBytes ((List.range bs.length).map (key % 128 + ·)))
      (BitVec.ofNat 1024 (leNat bs) <<< (8 * (key % 128))) pois toks
    State.retestRedo s (t.chanStep die (homeDie key)) (lineOf key)

/-- Delivered bytes counted on a barrier (R291, R294); GOT has 32 bits. -/
def State.countBar (s : State) (blk n bytes sc : Nat) : State :=
  match barOf (s.blk blk) n with
  | some b => if b.byteMode then s.setBar blk n (some (barTest [] { b with got := (b.got + bytes) % 2 ^ 32, sc := max b.sc sc })) else s
  | none => s

/-- A line claimed by an engine other than `eng` holds back an access of its bytes. -/
def claimedBy (s : State) (key : Nat) (eng : Option Nat) : Bool :=
  let h := (s.dirEnt (lineOf key)).clm.head?
  (isHbm key || isCarve key) && h.isSome && h != eng

/-- One unit of a started request moves, or the request pauses or aborts; none where it must wait: for a claim, for its cohort's earlier writes to
the source, for those of its core to a destination outside the package. -/
def State.copyUnit (s : State) (r : CopyReq) (u : Nat) : Option State :=
  match copyLowest s r true, copyLowest s r false with
  | some a, _ => some (s.abortCopy r a)
  | none, some a => some (s.abortCopy r a)
  | none, none =>
    match r.trans s (!r.toNear) .read (r.srcAddr u), r.trans s r.toNear .write (r.dstAddr u) with
    | .park, _ => some (s.pauseCopy r (r.srcAddr u) false)
    | _, .park => some (s.pauseCopy r (r.dstAddr u) true)
    | .ok sk _, .ok dk _ =>
      let earlier := (s.copies.takeWhile (·.id != r.id)).any fun q =>
        q.cid == r.cid && (q.dstKeys s).any fun k => overlap k 16 sk 16
      let pkg := isHbm dk || isCarve dk
      if claimedBy s sk (some r.id) then some (s.recallHead (lineOf sk))
      else if pkg && !r.claims.contains (lineOf dk) then
        let p := s.claimFor r
        some (p.1.setCopy p.2)
      else if earlier || atomLate s r.cid [(sk, 16)] || (pkg && (s.dirEnt (lineOf dk)).clm.head? != some r.id) then none
      else if !pkg && !isScratch dk && ownDirty s r.core dk 16 then some (s.writeBack r.core (lineOf dk))
      else
        let die := dieOfCore r.core
        let bs := (List.range 16).map fun i => srcByte s r.core (sk + i)
        let s := s.engWrite die dk bs (srcPois s sk 16)
        let r := { r with todo := r.todo.filter (· != u) }
        let cleared := pkg && r.claims.contains (lineOf dk) && !((r.dstKeys s).any fun k => lineOf k == lineOf dk)
        let r := if cleared then
          { r with claims := r.claims.filter (· != lineOf dk), called := r.called.filter (· != lineOf dk) } else r
        let s := if cleared then s.send (.crel r.id (lineOf dk)) else s
        let s := match r.bar with | some n => s.countBar r.blk n 16 r.scope.toNat | none => s
        some (if r.todo.isEmpty then
            (if r.mark.isSome then s.setCopy { r with markDue := true } else s.dropCopy r)
          else s.setCopy r)
    | _, _ => none

/-- The mark of a request all of whose bytes are counted: a release store at its scope (R291, R292). -/
def State.copyMark (s : State) (r : CopyReq) : State :=
  match r.mark with
  | none => s.dropCopy r
  | some (a, v) =>
    match r.trans s true .write a with
    | .ok k _ =>
      if s.lapsed k r.nearSp (s.blk r.blk) a then s.abortCopy r a
      else (s.engWrite (dieOfCore r.core) k (leBytes 8 v.toNat) false
        (toksFor s (some r.scope.toNat) (dieOfCore r.core) ((List.range 8).map (k + ·)))).dropCopy r
    | _ => s.abortCopy r a

/-- A unit lies in a line its engine must write first, or none is (16 R337). -/
def inRecall (s : State) (r : CopyReq) (u : Nat) : Bool :=
  r.called.isEmpty || (match r.trans s r.toNear .write (r.dstAddr u) with | .ok k _ => r.called.contains (lineOf k) | _ => true)

/-- COPY_DELIVERY: the unit of a request at byte `off` is delivered and counted, or its mark is written (R291, R292). -/
def execCopyDelivery (req off : Nat) (s : State) : Host.Outcome State Fault Refusal :=
  match s.copies.find? (·.id == req) with
  | none => .next s
  | some r =>
    if !r.started || r.paused.isSome then .next s
    else if r.markDue then .next (s.copyMark r)
    else if r.todo.contains (off / 16) && inRecall s r (off / 16) then .next ((s.copyUnit r (off / 16)).getD s)
    else .next s

/-! ### Byte-counting barriers (R294, R295) -/

/-- BCB_EXP (R295). -/
def execBcbExp (o : G3) (s : State) : Host.Outcome State Fault Refusal :=
  let n := o.va.toNat
  let b := s.me.blk
  op (.bcbExp o) s
    (match barOf (s.blk b) n with
     | none => .trap .illegal (dw n) s
     | some x =>
       let e := x.exp + (sreg s.me o.vb).toNat % 2 ^ 32
       if !x.byteMode || 2 ^ 32 ≤ e then .trap .illegal (dw n) s
       else .done (s.setBar b n (some (barTest [] { x with exp := e }))))

/-- BCB_WT: an acquire of what it waited for (R295). -/
def execBcbWt (o : G3) (s : State) : Host.Outcome State Fault Refusal :=
  let n := o.va.toNat
  op (.bcbWt o) s
    (match barOf (s.blk s.me.blk) n with
     | none => .trap .illegal (dw n) s
     | some x =>
       if !x.byteMode then .trap .illegal (dw n) s
       else if x.abt then .trap .copyAbort x.abta s
       else if reached (BitVec.ofNat 32 x.ph) ((sreg s.me o.vb).extractLsb' 0 32) then
         .done ((s.setS o.vd.toNat (dw x.ph)).acquire s.cur.cid x.sc [])
       else .wait (.bytes n) s)

/-! ### Waiting on an address (R296) -/

/-- The condition of `wadr`. -/
def wadrHolds (ge : Bool) (w m want : Nat) : Bool :=
  if ge then (m + 2 ^ w - want) % 2 ^ w < 2 ^ (w - 1) else m != want

/-- A value read at a home, with its tokens, comes back to the waiting op: at once on its own die, after 10 ns from another agent (15 R311). -/
def answered (s : State) (home v : Nat) (toks : List Token) (k : Nat → List Token → State → Res) : Res :=
  match s.me.waits.findSome? fun w => match w with | .op (.answer t v ts) => some (t, v, ts) | _ => none with
  | some (t, v, ts) => if (s.ptime - t).toNat < 160 then .wait (.answer t v ts) s else k v ts s
  | none => if home == dieOf s.cur.cid then k v toks s else .wait (.answer s.ptime v toks) s

/-- WADR: reads at the home until the condition holds; newer bytes of its own core go home first (R296). -/
def execWadr (o : M) (s : State) : Host.Outcome State Fault Refusal :=
  let n := szBytes o.sz
  let w := 8 * n
  let core := coreOf s.cur.cid
  let addr := srd s.me o.sb.toNat + BitVec.ofInt 64 (o.off.toInt * n)
  let fin (m : Nat) (toks : List Token) (s : State) : Res :=
    let s := s.setS o.vd.toNat (dw m)
    let s := s.setMe { s.me with lastVid := none, lastToks := toks }
    .done (if isAcq o.ord then s.acquire s.cur.cid o.sc.toNat toks else s)
  op (.wadr o) s
    (match checkMine s o.sp .read true false [⟨0, addr, n⟩] with
     | .bad r => r
     | .ok ((_, key, _) :: _) s =>
       if unitPoisoned s key n || unitDown s key then .trap .poison addr s
       else if (s.me.waits.any fun w => match w with | .op (.answer _ _ _) => true | _ => false) then
         answered s (homeDie key) 0 [] fin
       else if !isScratch key && ownDirty s core key n then
         .wait (.word addr (isHost key || isPeer key)) (s.writeBack core (lineOf key))
       else if claimedBy s key none then .wait (.word addr false) (s.recallHead (lineOf key))
       else if atomLate s s.cur.cid [(key, n)] then .wait .other s
       else
         let m := leNat (s.bytes key n)
         if wadrHolds o.ca w m ((sreg s.me o.vd).toNat % 2 ^ w) then
           answered s (homeDie key) m (toksOf s.tokens ((List.range n).map (key + ·))) fin
         else .wait (.word addr (isHost key || isPeer key)) s
     | .ok [] s => .done s)

/-- WADR_POLL: a `wadr` on a host or peer word reads it again (R296). -/
def execWadrPoll (cid : Nat) (s : State) : Host.Outcome State Fault Refusal :=
  if (s.cohort cid).waits.any fun w => match w with | .op (.word _ ext) => ext | _ => false then
    match wake s cid 0 with
    | some (.wadr o, s) => execWadr o s
    | _ => .next s
  else .next s

/-! ### Transfers through the I/O dies (R297-R299) -/

/-- A transfer's package destination lines, for the bytes of a list of spans. -/
def xdmaLines (s : State) (x : Xdma) : List Nat :=
  ((x.spans.flatMap fun p => (List.range (p.2 / 128 + 2)).filterMap fun i =>
    let o := if i == 0 then p.1 else (x.dst.toNat + p.1) / 128 * 128 + 128 * i - x.dst.toNat
    if p.1 + p.2 ≤ o then none
    else match translateG s 0x10000 x.ctx (x.dst + dw o) .write with
      | .ok k _ => if isHbm k || isCarve k then some (lineOf k) else none
      | _ => none)).eraseDups

/-- CLAIM for every destination line of a transfer not claimed yet (R299, 16 R336). -/
def State.claimXdma (s : State) (x : Xdma) : State × Xdma :=
  let new := (xdmaLines s x).filter fun l => !x.claims.contains l
  (new.foldl (fun s l => s.send (.claim x.id l)) s, { x with claims := x.claims ++ new })

/-- A descriptor meets R298. -/
def descOk (w : List DWord) : Bool :=
  let a (i : Nat) : DWord := w.getD i 0
  bits (a 2) 40 24 == 0 && a 2 != 0 && bits (a 3) 0 3 == 0 && bits (a 4) 63 1 == 0 && a 5 == 0 && a 6 == 0 && a 7 == 0

/-- The transfer a descriptor asks for. -/
def xdmaOf (s : State) (io : Nat) (w : List DWord) : Xdma :=
  let a (i : Nat) : DWord := w.getD i 0
  { id := s.next, io := io, core := coreOf s.cur.cid, cid := s.cur.cid, blk := s.me.blk, ctx := s.me.ctx, gid := s.me.gid,
    src := a 0, dst := a 1, len := (a 2).toNat, caddr := a 3, cval := a 4, spans := [(0, (a 2).toNat)], paused := none,
    abort := false, claims := [], called := [], issued := s.ptime }

/-- XDMA: a release at system scope, one read of the descriptor, a status (R297). The spec gives the queues of an I/O die's 16 engines (01 R16) no
depth: whether they are full is free while at least 16 transfers stand there. -/
def execXdma (o : M) (x : Ext) (s : State) : Host.Outcome State Fault Refusal :=
  let core := coreOf s.cur.cid
  let addr := srd s.me o.sb.toNat + BitVec.ofInt 64 (64 * o.off.toInt)
  let iod := (x.getD 0).toNat % 4
  let d := dieOfCore core
  let io := if iod == 0 then (if ioBridges d 0 ≤ ioBridges d 1 then 0 else 1) else iod - 1
  op (.xdma o x) s
    (if addr.toNat % 64 != 0 then .trap .align addr s
     else if 16 ≤ (s.xdmas.filter (·.core == core)).length then .wait .room s
     else if atomsOut s s.cur.cid then .wait .release s
     else afterRelease s true 5 fun s =>
       match translateG s core s.me.ctx addr .read with
       | .park => s.parkOn s.me.ctx addr false d
       | .ok k _ =>
         if srcPois s k 64 then .done (s.setS o.vd.toNat 3)
         else if claimedBy s k none then .wait .other (s.recallHead (lineOf k))
         else
           let w := (List.range 8).map fun i => dw (leNat ((List.range 8).map fun j => srcByte s core (k + 8 * i + j)))
           let s := s.fillTlb core s.me.ctx addr
           if !descOk w then .done (s.setS o.vd.toNat 2)
           else
             let p := if 16 ≤ (s.xdmas.filter (·.io == io)).length then s.choose 2 else (0, s)
             if p.1 == 1 then .done (p.2.setS o.vd.toNat 1)
             else
               let q := p.2.claimXdma (xdmaOf p.2 io w)
               .done ({ q.1 with next := q.1.next + 1, xdmas := q.1.xdmas ++ [q.2] }.setS o.vd.toNat 0)
       | _ => .done (s.setS o.vd.toNat 3))

/-- A transfer replaced. -/
def State.setXdma (s : State) (x : Xdma) : State := { s with xdmas := s.xdmas.map fun y => if y.id == x.id then x else y }
/-- A transfer gives up its claims. -/
def State.freeXdma (s : State) (x : Xdma) : State :=
  (x.claims.foldl (fun s l => s.send (.crel x.id l)) s).setXdma { x with claims := [], called := [] }

/-- Bytes taken out of the spans still to move. -/
def cutSpans (l : List (Nat × Nat)) (o n : Nat) : List (Nat × Nat) :=
  l.flatMap fun p =>
    if p.1 ≤ o && o < p.1 + p.2 then
      ((if p.1 < o then [(p.1, o - p.1)] else []) ++
       (if o + n < p.1 + p.2 then [(o + n, p.1 + p.2 - (o + n))] else []))
    else [p]

/-- The bytes from offset `off` of a transfer to the end of its source or destination line move; none where they must wait. -/
def State.xdmaUnit (s : State) (x : Xdma) (off : Nat) : Option State :=
  match x.spans.find? fun p => p.1 ≤ off && off < p.1 + p.2 with
  | none => none
  | some p =>
    let sa := x.src + dw off
    let da := x.dst + dw off
    let n := min (p.1 + p.2 - off) (min (128 - sa.toNat % 128) (128 - da.toNat % 128))
    match translateG s 0x10000 x.ctx sa .read, translateG s 0x10000 x.ctx da .write with
    | .ok sk _, .ok dk _ =>
      let pkg := isHbm dk || isCarve dk
      if claimedBy s sk (some x.id) then some (s.recallHead (lineOf sk))
      else if pkg && !x.claims.contains (lineOf dk) then
        let p := s.claimXdma x
        some (p.1.setXdma p.2)
      else if pkg && (s.dirEnt (lineOf dk)).clm.head? != some x.id then none
      else
        let bs := (List.range n).map fun i => srcByte s x.core (sk + i)
        let s := s.engWrite (12 + x.io) dk bs (srcPois s sk n)
        let x := { x with spans := cutSpans x.spans off n }
        let cleared := pkg && x.claims.contains (lineOf dk) && !(xdmaLines s x).contains (lineOf dk)
        some (if cleared then (s.send (.crel x.id (lineOf dk))).setXdma
            { x with claims := x.claims.filter (· != lineOf dk), called := x.called.filter (· != lineOf dk) }
          else s.setXdma x)
    | a, b =>
      let bad (t : Tr) : Bool := match t with | .ok _ _ => false | .park => false | _ => true
      if bad a || bad b then some (s.freeXdma { x with abort := true })
      else
        let q := s.pageRequest x.ctx (if a == .park then sa else da) (a != .park) (12 + x.io)
        some (q.2.freeXdma { x with paused := some q.1 })

/-- XDMA_DELIVERY: bytes of a transfer move, or it pauses or aborts (R299). -/
def execXdmaDelivery (x off : Nat) (s : State) : Host.Outcome State Fault Refusal :=
  match s.xdmas.find? (·.id == x) with
  | none => .next s
  | some t =>
    let first := t.called.isEmpty || (match translateG s 0x10000 t.ctx (t.dst + dw off) .write with
      | .ok k _ => t.called.contains (lineOf k)
      | _ => true)
    if t.paused.isSome || t.abort || !first then .next s else .next ((s.xdmaUnit t off).getD s)

/-- XDMA_COMPLETE: CVAL, or CVAL + 2^63 after an abort, stored to CADDR as a release at system scope (R299), no sooner than a message from the
cohort's die could bring it there (15 R311). -/
def execXdmaComplete (x : Nat) (s : State) : Host.Outcome State Fault Refusal :=
  match s.xdmas.find? (·.id == x) with
  | none => .next s
  | some t =>
    let gone (s : State) : State := { s with xdmas := s.xdmas.filter (·.id != x) }
    if t.paused.isSome || !(t.abort || t.spans.isEmpty) || (s.ptime - t.issued).toNat < 160 then .next s
    else if t.caddr == 0 then .next (gone s)
    else
      match translateG s 0x10000 t.ctx t.caddr .write with
      | .ok k _ =>
        let v := if t.abort then t.cval + (1#64 <<< 63) else t.cval
        .next (match s.devWrite k (leBytes 8 v.toNat) (toksFor s (some 5) (12 + t.io) ((List.range 8).map (k + ·))) with
          | some s => gone s
          | none => s.recallHead (lineOf k))
      | .park =>
        let q := s.pageRequest t.ctx t.caddr true (12 + t.io)
        .next (q.2.setXdma { t with paused := some q.1 })
      | _ => .next (gone s)

/-- RECALL at an engine: it writes its bytes of the line before any other, and then gives up the claim (16 R337). -/
def execRecall (eng line : Nat) (s : State) : Host.Outcome State Fault Refusal :=
  match s.copies.find? (·.id == eng), s.xdmas.find? (·.id == eng) with
  | some r, _ => .next (if r.claims.contains line then s.setCopy { r with called := r.called ++ [line] } else s)
  | none, some x => .next (if x.claims.contains line then s.setXdma { x with called := x.called ++ [line] } else s)
  | none, none => .next s

/-! ### Residency and lifetime (R300-R302, 13 R280) -/

/-- A handle set on every die. -/
def State.setHandle (s : State) (h : Nat) (f : DWord × DWord → DWord × DWord) : State :=
  (List.range 12).foldl (fun s d =>
    let x := s.die d
    s.setDie d { x with handles := tput (0, 0) x.handles h (f (handleOf s d h)) }) s

/-- A value with bits 11:0 set, of two. -/
def unaligned (a b : DWord) : Option DWord :=
  if a.toNat % 4096 != 0 then some a else if b.toNat % 4096 != 0 then some b else none

/-- RES_BIND (R301). -/
def execResBind (o : G3) (s : State) : Host.Outcome State Fault Refusal :=
  let a := sreg s.me o.va
  let n := sreg s.me o.vb
  op (.resBind o) s
    (match unaligned a n with
     | some v => .trap .align v s
     | none =>
       if n == 0 || 2 ^ 48 < a.toNat + n.toNat then .trap .protect n s
       else
         let h := (List.range 256).find? fun h => (List.range 12).all fun d => !(handleOf s d h).2.getLsbD 63
         match h with
         | none => .done (s.setS o.vd.toNat allOnes)
         | some h =>
           let w0 := (dw s.me.ctx <<< 48) ||| a
           let w1 := (1#64 <<< 63) ||| (o.ty.zeroExtend 64 <<< 60) ||| dw (n.toNat / 4096)
           .done ((s.setHandle h fun _ => (w0, w1)).setS o.vd.toNat (dw h)))

/-- The checks of an op on a handle (R301). -/
def onHandle (s : State) (v : DWord) (f : DWord × DWord → DWord × DWord) : Res :=
  if 255 < v.toNat then .trap .illegal 0 s
  else
    let h := handleOf s (dieOf s.cur.cid) v.toNat
    if !h.2.getLsbD 63 || bits h.1 48 16 != s.me.ctx then .trap .protect v s else .done (s.setHandle v.toNat f)

/-- RES_SET_PRIO (R301). -/
def execResSetPrio (o : G3) (s : State) : Host.Outcome State Fault Refusal :=
  op (.resSetPrio o) s (onHandle s (sreg s.me o.va) fun h => (h.1, setBits h.2 60 3 o.ty.toNat))
/-- RES_DROP (R301). -/
def execResDrop (o : G3) (s : State) : Host.Outcome State Fault Refusal :=
  op (.resDrop o) s (onHandle s (sreg s.me o.va) fun h => (h.1, setBits h.2 63 1 0))

/-- A granule takes a class (R302): a lapsed or expired one is zero-filled first; a past deadline lapses at once. -/
def State.setLife (s : State) (now : DWord) (k : Nat) (cls : BitVec 2) (deadline : DWord) : State :=
  let g := s.gran k
  let s := if g.lapsed || granExpired g now then s.zeroGran k else s
  let s := s.setGran k ⟨cls, if cls == 1 then now else 0, if cls == 2 then deadline else 0, false⟩
  if cls == 2 && deadline.toNat ≤ now.toNat then s.lapseGran (k / 4096) else s

/-- A class set on every granule of a range, after the checks of R302. -/
def resLife (s : State) (sp : BitVec 2) (o : G3) : Res :=
  let a := sreg s.me o.va
  let n := sreg s.me o.vb
  let b := s.blk s.me.blk
  let now := s.timeOf (dieOf s.cur.cid)
  match unaligned a n with
  | some v => .trap .align v s
  | none =>
    if n == 0 then .trap .align n s
    else
      let tr (g : DWord) : Tr :=
        if sp == 3 && a.toNat / 2 ^ 30 != g.toNat / 2 ^ 30 then .outside
        else translate s (coreOf s.cur.cid) s.me.ctx b sp .write g
      let gs := (List.range (n.toNat / 4096)).map fun i => a + dw (4096 * i)
      match gs.find? fun g => match tr g with | .ok _ _ => false | _ => true with
      | some g => .trap .protect g s
      | none =>
        let ks := gs.filterMap fun g => match tr g with | .ok k _ => some (g, k) | _ => none
        match ks.find? fun p => isScratch p.2 && s.lapsed p.2 sp b p.1 with
        | some p => .trap .expired p.1 s
        | none =>
          if readLate s s.cur.cid (ks.map fun p => (p.2, 4096)) then .wait .other s
          else .done (ks.foldl (fun s p => s.setLife now p.2 (o.ty.extractLsb' 0 2) (sreg s.me o.vd)) s)

/-- RES_SET_LIFE_S: granules of the block's scratch (R302). -/
def execResSetLifeS (o : G3) (s : State) : Host.Outcome State Fault Refusal := op (.resSetLifeS o) s (resLife s 1 o)
/-- RES_SET_LIFE_M: granules of a die's carve region (R302). -/
def execResSetLifeM (o : G3) (s : State) : Host.Outcome State Fault Refusal := op (.resSetLifeM o) s (resLife s 3 o)

end Sys2Proof.Machine
end

