-- ==== Sys2Proof/Machine/Atomics.lean ====
section
/-! DEFINITION. Atomic, reduction and lease instructions (18), near and far placement (16 R339), the grant of a lease. -/
namespace Sys2Proof.Machine

/-- Bytes of an atomic's unit: 16 for `ampcs` and `redo`, else 4 or 8 (R363). -/
def atomSize (sz : BitVec 3) : Nat := if sz == 3 then 8 else 4
/-- The size/4 registers of a lane from a number up. -/
def laneN (c : Cohort) (n l size : Nat) : Nat := leNat ((List.range (size / 4)).flatMap fun i => leBytes 4 (vrd c (n + i) l).toNat)

/-- Units of an atomic: sB + zext(vA[l]) (R360). -/
def atomUnits (s : State) (o : MG) (size : Nat) : List Acs :=
  (s.active o.g).map fun l => ⟨l, srd s.me o.sb.toNat + (vrd s.me o.va.toNat l).zeroExtend 64, size⟩

/-- Where a lane's atomic executes (16 R339): at an operand store, under the cohort's own lease, near, or far. -/
inductive Place where
  | store | own | near | far
  deriving DecidableEq, Repr

/-- The lines on which a cohort waits for implicit leases. -/
def nearLines (s : State) (cid : Nat) : List Nat :=
  (((s.core (coreOf cid)).nears.filter (·.r.cid == cid)).map fun x => lineOf x.r.key).eraseDups

/-- The placement of a unit at a key (16 R339): an implicit lease counts with the cohort's own towards four. -/
def placeOf (s : State) (core cid key : Nat) (coh : BitVec 2) (ca : Bool) : Place :=
  let line := lineOf key
  let mine := nearLines s cid
  if isScratch key then .store
  else if (s.core core).leases.any (fun l => l.line == line && l.cid == some cid) then .own
  else if coh == 2 || !ca || isHost key || isPeer key || !(s.dirEnt line).clm.isEmpty || 2 ≤ tget 0 (s.core core).cont (contIdx line) ||
    (!mine.contains line && 4 ≤ (s.cohort cid).leases.length + mine.length) then .far
  else .near

/-- An atomic at the operand store that holds its unit (R364). -/
def State.storeAtom (s : State) (r : AtomReq) : State × AtomResp :=
  if unitPoisoned s r.key r.size then (s, respOf r 0 0 true [])
  else
    let old := leNat (s.bytes r.key r.size)
    let x := atomStep r.fn r.size old r.d.toNat r.c.toNat r.m.toNat
    let resp := respOf r old x.2 false (toksOf s.tokens (unitOf r))
    (match x.1 with
     | none => s
     | some v => ((s.touchGran (s.timeOf (homeDie r.key)) r.key).setBytes r.key (leBytes r.size v)).putToks r.car.toks, resp)

/-- An atomic under a lease of its cohort's, or an implicit one: in the line cache, which holds the whole line (16 R339, R376). -/
def State.ownAtom (s : State) (r : AtomReq) (si : Bool) : State × AtomResp :=
  let core := coreOf r.cid
  let line := lineOf r.key
  if s.poisoned line then (s, respOf r 0 0 true [])
  else
    let old := leNat ((unitOf r).map fun k => (lcByte s core k).getD (s.byte k))
    let x := atomStep r.fn r.size old r.d.toNat r.c.toNat r.m.toNat
    let resp := respOf r old x.2 false (toksOf (s.lc core line).toks (unitOf r))
    (match x.1 with
     | none => s
     | some v =>
       (s.touchGran (s.timeOf (dieOfCore core)) r.key).lcStore core r.cid line
         (maskOfBytes ((List.range r.size).map (r.key % 128 + ·))) (BitVec.ofNat 1024 v <<< (8 * (r.key % 128))) si false r.car.toks, resp)

/-- An atomic applied by its core is answered: the flags of one that returns nothing land in its context's word (R369). -/
def State.appliedAtom (r : AtomReq) (q : State × AtomResp) : State :=
  (if r.ret then q.1 else q.1.redBits r.ctx (homeDie r.key) (q.2.flags.zeroExtend 64)).answerAtom q.2

/-- A near atomic asks for an implicit lease of 32 core cycles, one for all that wait for the line (16 R339). -/
def State.askNear (s : State) (r : AtomReq) (coh : BitVec 2) : State :=
  let core := coreOf r.cid
  let line := lineOf r.key
  let c := s.core core
  let asked := c.nears.any fun x => lineOf x.r.key == line
  let s := s.setCore core { c with nears := c.nears ++ [⟨r, coh, (s.lc core line).valid != 0, false⟩] }
  if asked then s else s.send (.lreq r.cid line 32 ⟨(coh == 1), true⟩)

/-- One lane is applied, or its request sent (16 R339). -/
def atomLane (ca : Bool) (s : State) (x : AtomReq × BitVec 2) : State :=
  let r := x.1
  let core := coreOf r.cid
  let die := dieOfCore core
  let toks (t : Toks) : Toks := t.filter fun p => (unitOf r).contains p.1
  match placeOf s core r.cid r.key x.2 ca with
  | .store => State.appliedAtom r (s.storeAtom { r with car := ⟨die, 0, toks r.car.toks⟩ })
  | .own => State.appliedAtom r (s.ownAtom { r with car := ⟨die, 0, toks r.car.toks⟩ } (x.2 == 1))
  | .near => s.askNear { r with car := ⟨die, 0, toks r.car.toks⟩ } x.2
  | .far =>
    let p := (s.forget core r.key r.size).carry die (homeAgent s (lineOf r.key) die) (toks r.car.toks)
    p.2.send (.atom { r with car := p.1 })

/-- Lanes in an order of the SC12's choosing where two name one unit (R364). -/
def shuffle {α : Type} : Nat → State → List α → List α × State
  | 0, s, l => (l, s)
  | n + 1, s, l =>
    match l with
    | [] => ([], s)
    | a :: t =>
      let p := s.choose (t.length + 1)
      let q := shuffle n p.2 (match p.1 with | 0 => t | k + 1 => a :: t.eraseIdx k)
      ((match p.1 with | 0 => a | k + 1 => t.getD k a) :: q.1, q.2)

/-- A core's newer bytes of far units must be home before their atomics, and what a release in the line of a near one orders before its bytes
leave with the lease (17 R353): the write-backs begun, and whether any is still to come. -/
def State.atomClear (s : State) (core cid : Nat) (l : List (Acs × Nat × BitVec 2)) (ca : Bool) : Bool × State :=
  l.foldl (fun p x =>
    let line := lineOf x.2.1
    match placeOf p.2 core cid x.2.1 x.2.2 ca with
    | .far => if ownDirty p.2 core x.2.1 x.1.size then (false, p.2.writeBack core line) else p
    | .near => if (p.2.lc core line).rel then (false, p.2.writeBack core line) else p
    | _ => p) (true, s)

/-- An atomic that may leave its unit as it was, and is no write then (R367). -/
def mayFail : AtomFn → Bool
  | .int _ _ => false
  | .flt _ _ => false
  | _ => true

/-- A channel an op's far units would use is full (15 R306). -/
def portsFull (s : State) (core : Nat) (l : List (Acs × Nat × BitVec 2)) : Bool :=
  l.any fun x => !isScratch x.2.1 && chanFull s (dieOfCore core) (homeAgent s (lineOf x.2.1) (dieOfCore core))

/-- The atomics a host page takes: add, exchange and compare-and-swap of 4 and 8 bytes (21 R424); any other is refused with the space checks
(DEDUCED, log entry 14, as R363 has it for `redo`). -/
def hostAtom : AtomFn → Bool
  | .int f _ => f == 0 || f == 6
  | .cas => true
  | .flt f _ => f == 3
  | _ => false

/-- The shared meaning of 0xC0-0xC7: the checks of R363, order, and every active lane. A release is made with what it orders already home (17
R353); a release fence stays due after an atomic whose test may fail. -/
def atomOp (i : Instr) (o : MG) (x : Ext) (s : State) (size : Nat) (fn : AtomFn) (ret : Bool) :
    Host.Outcome State Fault Refusal :=
  let c := s.me
  let e := atomExt (x.getD 0)
  let cid := s.cur.cid
  let core := coreOf cid
  let rel := relScope s (isRel o.ord) o.sc.toNat
  op i s
    (match checkMine s o.sp .write true false (atomUnits s o size) (fun k => isHost k && !hostAtom fn) with
     | .bad r => r
     | .ok l s =>
       if leaseHolds s core cid l then .wait .lease s
       else if readLate s cid (unitKeys l) || atomLate s cid (unitKeys l) then .wait .other s
       else if portsFull s core l then .wait .room s
       else afterRelease s rel.isSome (rel.getD 0) (leaves := true) fun s =>
         let u := s.uncacheAll core l
         match u.2.atomClear core cid l o.ca with
         | (clear, s) =>
           if !(u.1 && clear) then .wait .other s
           else
             let vid := c.nextVid
             let toks := toksFor s rel (dieOfCore core) (l.flatMap fun u => (List.range size).map (u.2.1 + ·))
             let reqs := l.map fun u => ((⟨cid, vid, s.cur.frag, u.1.lane, e.rd, u.1.addr, u.2.1, size, fn,
               BitVec.ofNat 128 (laneN c o.vd.toNat u.1.lane size), BitVec.ofNat 128 (laneN c e.rc u.1.lane size),
               BitVec.ofNat 128 (laneN c e.rm u.1.lane size), c.ctx, ret, false, ⟨0, 0, toks⟩⟩ : AtomReq), u.2.2)
             let keys := l.map (·.2.1)
             let q := if keys.eraseDups.length == keys.length then (reqs, s) else shuffle reqs.length s reqs
             let s := if mayFail fn then q.2 else q.2.relMade
             if ret then
               let s := s.addPend (.atom reqs.length []) [] (if isAcq o.ord then some o.sc else none)
               let c := s.me
               let s := s.setMe { c with
                 lastVid := some vid, lastToks := [],
                 waits := if isAcq o.ord then c.waits ++ [.acquire vid o.sc []] else c.waits }
               .done (q.1.foldl (atomLane o.ca) s)
             else .done (q.1.foldl (atomLane o.ca) s))

/-- The function of `am` and `red`. -/
def intFn (x : Ext) : AtomFn := .int (BitVec.ofNat 4 (atomExt (x.getD 0)).fn) (atomExt (x.getD 0)).sg
/-- The function of `amf` and `redf`. -/
def fltFn (x : Ext) : AtomFn := .flt (BitVec.ofNat 4 (atomExt (x.getD 0)).fn) (BitVec.ofNat 2 (atomExt (x.getD 0)).ft)

/-- AM (R366). -/
def execAm (o : MG) (x : Ext) (s : State) := atomOp (.am o x) o x s (atomSize o.sz) (intFn x) true
/-- RED (R366). -/
def execRed (o : MG) (x : Ext) (s : State) := atomOp (.red o x) o x s (atomSize o.sz) (intFn x) false
/-- AMCAS (R367). -/
def execAmcas (o : MG) (x : Ext) (s : State) := atomOp (.amcas o x) o x s (atomSize o.sz) .cas true
/-- AMGTS (R367). -/
def execAmgts (o : MG) (x : Ext) (s : State) := atomOp (.amgts o x) o x s (atomSize o.sz) .gts true
/-- AMVCS (R367). -/
def execAmvcs (o : MG) (x : Ext) (s : State) := atomOp (.amvcs o x) o x s (atomSize o.sz) .vcs true
/-- AMPCS: 16 bytes (R367). -/
def execAmpcs (o : MG) (x : Ext) (s : State) := atomOp (.ampcs o x) o x s 16 .pcs true
/-- AMF (R368). -/
def execAmf (o : MG) (x : Ext) (s : State) := atomOp (.amf o x) o x s (atomSize o.sz) (fltFn x) true
/-- REDF (R368). -/
def execRedf (o : MG) (x : Ext) (s : State) := atomOp (.redf o x) o x s (atomSize o.sz) (fltFn x) false

/-- REDO: each lane's tagged request goes to its cell's home (R360, R363, R370, R371). -/
def execRedo (o : MG) (x : Ext) (s : State) : Host.Outcome State Fault Refusal :=
  let c := s.me
  let e := atomExt (x.getD 0)
  let cid := s.cur.cid
  let core := coreOf cid
  let die := dieOfCore core
  let rel := relScope s (isRel o.ord) o.sc.toNat
  op (.redo o x) s
    (match checkMine s o.sp .write true false (atomUnits s o 16) (fun k => isHost k || isPeer k) with
     | .bad r => r
     | .ok l s =>
       if (l.any fun u => (s.core core).leases.any fun e => e.line == lineOf u.2.1 && e.cid != some cid) then .wait .lease s
       else if readLate s cid (unitKeys l) || atomLate s cid (unitKeys l) then .wait .other s
       else if portsFull s core l then .wait .room s
       else afterRelease s rel.isSome (rel.getD 0) (leaves := true) fun s =>
         let u := s.uncacheAll core l
         let s := u.2
         if !u.1 || l.any fun u => ownDirty s core u.2.1 16 && !((s.core core).leases.any (·.line == lineOf u.2.1)) then
           .wait .other (l.foldl (fun s u => if ownDirty s core u.2.1 16 then s.writeBack core (lineOf u.2.1) else s) s)
         else
           let toks := toksFor s rel die (l.flatMap fun u => (List.range 16).map (u.2.1 + ·))
           .done (l.foldl (fun s u =>
             let p := (s.forget core u.2.1 16).carry die (homeAgent s (lineOf u.2.1) die)
               (toks.filter fun t => u.2.1 ≤ t.1 && t.1 < u.2.1 + 16)
             p.2.send (.redoRequest ⟨cid, s.cur.frag, u.1.addr, u.2.1, e.ft == 1, vrd c e.rc u.1.lane,
               dw (laneN c o.vd.toNat u.1.lane (atomSize o.sz)), c.ctx, c.gid, c.blk, 0, 0, false, p.1⟩)) s).relMade)

/-! ### Leases (R374-R377) -/

/-- The line an `lsa` or `lsr` names. -/
def leaseLine (c : Cohort) (o : M) : DWord := ((srd c o.sb.toNat + BitVec.ofInt 64 (128 * o.off.toInt)) >>> 7) <<< 7

/-- The length a new lease takes (16 R329, R330). -/
def leaseLen (c : CoreSt) (line : Nat) : Nat :=
  let maxl := 32 * 2 ^ (c.leasecfg.toNat % 8)
  if c.leasecfg.getLsbD 3 then maxl else min maxl (32 * 2 ^ tget 0 c.lens (line % 512))

/-- A lease granted to the cohort that no slot of it names yet. -/
def grantedLease (c : Cohort) (k : CoreSt) (cid line : Nat) : Option Lease :=
  if c.leases.any (fun x => x.line == line && x.ended.isNone) then none
  else k.leases.find? fun l => l.line == line && l.cid == some cid

/-- LSA: the checks of R375, then LREQ, once what a release in the line orders is home (17 R353), and a wait for the grant; sD := L. -/
def execLsa (o : M) (s : State) : Host.Outcome State Fault Refusal :=
  let c := s.me
  let cid := s.cur.cid
  let core := coreOf cid
  let va := leaseLine c o
  let b := s.blk c.blk
  op (.lsa o) s
    (match translate s core c.ctx b o.sp .write va with
     | .outside => .trap .protect va s
     | .xlate => .trap .xlate va (if o.sp == 0 then s.noteWalks core c.ctx [va] else s)
     | .protect => .trap .protect va s
     | .park => s.parkOn c.ctx va true (dieOfCore core)
     | .ok key coh =>
       let line := lineOf key
       if coh == 2 || isHost key || isPeer key then .trap .lease va s
       else if s.lapsed key o.sp b va || s.expired (s.timeOf (dieOfCore core)) key then .trap .expired va s
       else match grantedLease c (s.core core) cid line with
         | some l =>
           .done ((s.setMe { c with leases := c.leases ++ [⟨va, line, none, some (s.cur.frag, 0)⟩] }).setS o.vd.toNat (dw l.len))
         | none =>
           if c.leases.any (·.vline == va) || 4 ≤ c.leases.length then .trap .lease va s
           else if s.poisoned line then .trap .poison va s
           else
             let asked := (s.net ++ s.heldAll).any fun m => match m with
               | .lreq d l _ ⟨_, imp⟩ => d == cid && l == line && !imp
               | .lgrant d l _ _ ⟨_, imp, _⟩ => d == cid && l == line && !imp
               | _ => false
             .wait .lease (if asked then s
               else if (s.lc core line).rel then s.writeBack core line
               else (if o.sp == 0 then s.fillTlb core c.ctx va else s).send (.lreq cid line (leaseLen (s.core core) line) ⟨(coh == 1), false⟩)))

/-- LSR: the lease ends if it still lasts, the slot is freed, sD := how it ended (R377, 16 R329). -/
def execLsr (o : M) (s : State) : Host.Outcome State Fault Refusal :=
  let c := s.me
  let core := coreOf s.cur.cid
  let va := leaseLine c o
  op (.lsr o) s
    (match c.leases.find? (·.vline == va) with
     | none => .done (s.setS o.vd.toNat 3)
     | some x =>
       let s := s.setMe { c with leases := c.leases.filter (·.vline != va) }
       match x.ended with
       | some how => .done (s.setS o.vd.toNat (dw how))
       | none =>
         match (s.core core).leases.find? fun l => l.line == x.line && l.cid == some s.cur.cid with
         | none => .done (s.setS o.vd.toNat 0)
         | some l =>
           match leaseOver s core l with
           | some how => .done ((s.endLease core l how).setS o.vd.toNat (dw how))
           | none => .done (((s.lengthen core l).endLease core l 0).setS o.vd.toNat 0))

/-- The bytes a core holds of a line once a grant has come (R331): what the home sent, under the bytes the core itself has sent since, and, of a
tracked line, under every byte it holds. -/
def grantBytes (s : State) (core line : Nat) (bytes : LineData) (si : Bool) : LineMask × LineData :=
  let e := s.lc core line
  let bufs := (s.core core).wbufs.filter (·.line == line)
  let m := if si then bufs.foldl (fun m b => m ||| b.mask) e.dirty else e.valid
  let d := if si then overBytes e.dirty e.bytes (bufs.foldl (fun d b => overBytes b.mask b.bytes d) 0) else e.bytes
  (m, overBytes m d bytes)

/-- LGRANT: a lease starts at the core, with the whole line, and the waiting `lsa` completes; one whose cohort waits for it no longer ends at once
(R331, 18 R375). An implicit lease applies the atomics that wait for it, and ends at once; one that found the line present with no wait lowers the
contention counter (R339). -/
def execLgrant (cid line len : Nat) (bytes : LineData) (x : LeaseGiven) (s : State) : Host.Outcome State Fault Refusal :=
  let si := x.si
  let imp := x.imp
  let toks := x.toks
  let core := coreOf cid
  let s := s.makeRoom core line
  let e := s.lc core line
  let now := s.cycOf (dieOfCore core)
  let g := grantBytes s core line bytes si
  let s := s.setLc core line { e with
    valid := BitVec.allOnes 128, fill := now, selfInv := si, bytes := g.2, toks := toksLess toks g.1 ++ toksIn e.toks g.1 }
  let c := s.core core
  let l : Lease := ⟨line, if imp then none else some cid, len, now, [], if imp then some now else none, imp⟩
  let s := s.setCore core { c with leases := c.leases ++ [l], nears := if imp then c.nears.filter fun x => lineOf x.r.key != line else c.nears }
  if imp then
    .next ((c.nears.filter fun x => lineOf x.r.key == line).foldl (fun s x =>
      State.appliedAtom x.r ((if x.hit && !x.waited then s.contend core line false else s).ownAtom x.r si)) s)
  else
    let mine (o : M) (t : State) : Bool :=
      match translate t core t.me.ctx (t.blk t.me.blk) o.sp .write (leaseLine t.me o) with
      | .ok k _ => lineOf k == line
      | _ => false
    match wake s cid 0 with
    | some (.lsa o, t) => if mine o t then execLsa o t else .next (s.endLease core l 2)
    | _ => .next (s.endLease core l 2)

end Sys2Proof.Machine
end

