-- ==== Sys2Proof/Machine/Control.lean ====
section
/-! DEFINITION. Fetching code and the control instructions (06 R122-R131, 08 R161-R166, 09 R193-R202). -/
namespace Sys2Proof.Machine

/-! ### Architectural fetch (06 R124, R127-R129) -/

/-- The parts of `n` bytes from an address that lie in one 4 KiB page each. -/
def pieces : Nat → DWord → Nat → List (DWord × Nat)
  | 0, _, _ => []
  | fuel + 1, a, n =>
    if n == 0 then []
    else
      let m := min n (4096 - a.toNat % 4096)
      (a, m) :: pieces fuel (a + dw m) (n - m)

/-- What a fetch meets: the block, a park, or a trap. -/
inductive Fetch where
  | ok (b : Block) (s : State)
  | park (p : Parked) (s : State)
  | bad (c : Cause) (info : DWord) (s : State)
  deriving DecidableEq, Repr

/-- The bytes of code from an address, as a load of the core that follows an acquire would read them, or the first page that faults (06 R127,
R129). -/
def codeBytes (s : State) (core ctx : Nat) : List (DWord × Nat) → Except (Tr × DWord) (List Byte)
  | [] => .ok []
  | (a, n) :: t =>
    match translateG s core ctx a .exec with
    | .ok key _ =>
      match (List.range n).find? fun i => unitPoisoned s (key + i) 1 || unitDown s (key + i) with
      | some i => .error (.ok 0 0, a + dw i)
      | none =>
        match codeBytes s core ctx t with
        | .ok l => .ok ((List.range n).map (fun i => (ownByte s core (key + i)).getD (s.byte (key + i))) ++ l)
        | e => e
    | r => .error (r, a)

/-- A code fault as the fetch's answer: a park, or its cause at the lowest faulting byte. -/
def fetchFault (s : State) (core ctx : Nat) (e : Tr × DWord) : Fetch :=
  match e.1 with
  | .park => let p := s.pageRequest ctx e.2 false (dieOfCore core); .park ⟨p.1, e.2, false⟩ p.2
  | .xlate => .bad .xlate e.2 (s.noteWalks core ctx [e.2])
  | .ok _ _ => .bad .poison e.2 s
  | _ => .bad .protect e.2 s

/-- The issue words of a block's bytes after its header. -/
def wordsOf : Nat → List Byte → List IWord
  | 0, _ => []
  | n + 1, l =>
    match wordOfBytes l with
    | some (w, t) => w :: wordsOf n t
    | none => []

/-- An architectural fetch of a header and its block (06 R124, R127): every page of it is translated and every byte looked at. Through the code
buffer either the present bytes or those the core fetched earlier are returned (R129). -/
def fetch (s : State) (core ctx : Nat) (hdr : DWord) : Fetch :=
  match codeBytes s core ctx [(hdr, 8)] with
  | .error e => fetchFault s core ctx e
  | .ok hb =>
    let old := s.code.find? fun e => e.core == core && e.ctx == ctx && e.hdr == hdr
    let pick := match old with | some _ => s.choose 2 | none => (0, s)
    match old, pick.1 with
    | some e, 1 =>
      (match codeBytes s core ctx (pieces 16 hdr (8 + 12 * e.blk.words.length)) with
       | .error f => fetchFault s core ctx f
       | .ok _ => .ok e.blk pick.2)
    | _, _ =>
      let s := pick.2
      let h := decodeHeader (dw (leNat hb))
      if !headerValid hdr h then .bad .badTarget hdr s
      else
        match codeBytes s core ctx (pieces 16 hdr (blockBytes h)) with
        | .error e => fetchFault s core ctx e
        | .ok l =>
          let b : Block := ⟨dw (leNat hb), wordsOf h.len.toNat (l.drop 8)⟩
          .ok b { s.fillTlb core ctx hdr with
            code := s.code.filter (fun e => !(e.core == core && e.ctx == ctx && e.hdr == hdr)) ++ [⟨core, ctx, hdr, b⟩] }

/-- The code buffer of a core is invalidated (06 R129). -/
def State.dropCode (s : State) (core : Nat) : State := { s with code := s.code.filter (·.core != core) }

/-! ### Transfers (09 R194, R195) -/

/-- A destination header checked and fetched for a transfer: its place, or the trap that leaves the control op incomplete. A header
that is the join header is not fetched (08 R163); a park lets the op complete, and the fragment waits at the header. -/
def destination (s : State) (join : Option DWord) (hdr : DWord) : Except (Cause × DWord × State) (Dest × State) :=
  if join == some hdr then .ok (atHeader hdr, s)
  else
    match fetch s (coreOf s.cur.cid) s.me.ctx hdr with
    | .ok b s => .ok (⟨hdr, b, 0, .run⟩, s)
    | .park n s => .ok (⟨hdr, ⟨0, []⟩, 0, .parked n⟩, s)
    | .bad c info s => .error (c, info, s)

/-- The executing control op owes a transfer. -/
def State.owe (s : State) (x : Xfer) : State := s.setFrag { s.frag with xfer := some x }

/-- A transfer to a header, after which `k` makes the op's own writes. -/
def goTo (s : State) (hdr : DWord) (k : State → State) : Res :=
  match destination s (joinHeader s.me s.frag) hdr with
  | .error (c, info, s) => .trap c info s
  | .ok (d, s) => .done ((k s).owe (.go d))

/-- A transfer to a computed address, which must be 8-byte aligned (06 R125, 09 R198). -/
def goIndirect (s : State) (hdr : DWord) : Res :=
  if hdr.toNat % 8 != 0 then .trap .badTarget hdr s else goTo s hdr id

/-- H + 8·TGT (06 R125). -/
def target (s : State) (tgt : BitVec 24) : DWord := s.frag.hdr + BitVec.ofInt 64 (8 * tgt.toInt)

/-- The condition of `bc` on a signed value (07 R141, 09 R196). -/
def ccHolds (cc : BitVec 3) (v : Int) : Bool :=
  match cc.toNat with
  | 0 => v == 0 | 1 => v != 0 | 2 => v < 0 | 3 => 0 ≤ v | 4 => 0 < v | _ => v ≤ 0

/-- NOP (R202). -/
def execNop (o : C) (s : State) : Host.Outcome State Fault Refusal := op (.nop o) s (.done s)

/-- BR (R196). -/
def execBr (o : C) (s : State) : Host.Outcome State Fault Refusal := op (.br o) s (goTo s (target s o.tgt) id)

/-- BC (R196). -/
def execBc (o : C) (s : State) : Host.Outcome State Fault Refusal :=
  op (.bc o) s
    (if ccHolds o.cc (srd s.me o.sa.toNat).toInt then goTo s (target s o.tgt) id else .done s)

/-- The split of R162: with room in the table, both destinations checked (R195). -/
def bvSplit (s : State) (taken : DWord) (tgt : DWord) : Res :=
  let e := s.frag
  let recon := reconOf e.hdr e.header
  let room := s.me.ents.length + (if recon.isSome then 2 else 1)
  if 64 < room || s.me.handler.isSome then .trap .splitDepth 0 s
  else
    let join := if recon.isSome then recon else joinHeader s.me e
    match destination s join tgt with
    | .error (c, info, s) => .trap c info s
    | .ok (t, s1) =>
      let next := afterWord e
      if next.st == .run then .done (s1.owe (.split taken recon t next))
      else match destination s1 join next.hdr with
        | .error (c, info, s) => .trap c info s
        | .ok (n, s2) => .done (s2.owe (.split taken recon t n))

/-- BV: branch on a lane predicate over the fragment mask (R161, R162, R197). -/
def execBv (o : C) (s : State) : Host.Outcome State Fault Refusal :=
  let act := s.fragLanes
  let yes := act.filter fun l => prd s.me o.g.pg.toNat l != o.g.pn
  op (.bv o) s
    (if yes.isEmpty then .done s
     else if yes.length == act.length then goTo s (target s o.tgt) id
     else if o.u then .trap .uniform (maskOf yes) s
     else bvSplit s (maskOf yes) (target s o.tgt))

/-- CALL: s62 := the fall-through header (R198). -/
def execCall (o : C) (s : State) : Host.Outcome State Fault Refusal :=
  op (.call o) s (goTo s (target s o.tgt) fun s => s.setS 62 (fallThrough s.frag.hdr s.frag.header))

/-- RET (R198). -/
def execRet (o : C) (s : State) : Host.Outcome State Fault Refusal :=
  op (.ret o) s (goIndirect s (srd s.me o.sa.toNat))

/-- JMPI (R198). -/
def execJmpi (o : C) (s : State) : Host.Outcome State Fault Refusal :=
  op (.jmpi o) s (goIndirect s (srd s.me o.sa.toNat + BitVec.ofInt 64 (8 * o.tgt.toInt)))

/-- LOOP: decrement, and transfer while non-zero (R199). -/
def execLoop (o : C) (s : State) : Host.Outcome State Fault Refusal :=
  let v := srd s.me o.sa.toNat - 1
  let dec (s : State) : State := s.setS o.sa.toNat v
  op (.loop o) s (if v != 0 then goTo s (target s o.tgt) dec else .done (dec s))

/-- EXIT: ends the issuing fragment once the results of its lanes are written; until then it holds the fragment (R200, 08 R164, R171). -/
def execExit (o : C) (s : State) : Host.Outcome State Fault Refusal :=
  op (.exit o) s (if lanesBusy s.me s.frag.mask then .hold ⟨none, none, true⟩ s else .done (s.owe .exit))

/-- YIELD: not ready for min(sSA, 65,535) core cycles, and the age falls to 0 (R201). -/
def execYield (o : C) (s : State) : Host.Outcome State Fault Refusal :=
  let n := min (srd s.me o.sa.toNat).toNat 65535
  let c := s.me
  op (.yield o) s
    (.done (s.setMe { c with
      age := 0, waits := if n == 0 then c.waits else c.waits ++ [.yield (s.cycOf (dieOf s.cur.cid) + n)] }))

/-- YIELD_EXPIRE: the cycles are over, or no other cohort of the core is ready (R201). -/
def execYieldExpire (cid : Nat) (s : State) : Host.Outcome State Fault Refusal :=
  let c := s.cohort cid
  let ended (w : Wait) : Bool := match w with
    | .yield n => n ≤ s.cycOf (dieOf cid) || (pick s (coreOf cid)).isNone
    | _ => false
  .next (s.setCohort cid { c with waits := c.waits.filter fun w => !ended w })

/-- SWITCH_RESUME: the results outstanding at the marker have been written (08 R169). -/
def execSwitchResume (cid : Nat) (s : State) : Host.Outcome State Fault Refusal :=
  let c := s.cohort cid
  let ended (w : Wait) : Bool := match w with
    | .switch vids => !(c.pend.any fun p => vids.contains p.vid) && !(c.reds.any fun p => vids.contains p.vid)
    | _ => false
  .next (s.setCohort cid { c with waits := c.waits.filter fun w => !ended w })

/-- A fragment can go on at a header: its cohort waits for nothing and owes no trap, and is not in another's handler (08 R165, R166, 20 R406,
R407). -/
def atEase (c : Cohort) (frag : Nat) : Bool :=
  c.kind != .vacant && c.waits.isEmpty && betweenWords c && (dueTrap c).isNone && c.handler.all (·.1 == frag)

/-- BLOCK_FETCH_COMPLETE: a fragment standing at a header fetches it (06 R124, R127, R128): it enters the block, parks on the page,
or traps at the header. -/
def execBlockFetchComplete (cid frag : Nat) (s : State) : Host.Outcome State Fault Refusal :=
  let c := s.cohort cid
  let e := entOf c frag
  if !atEase c frag || !(e.st == .header || e.st == .fetch) || !mayGo c e || atJoin c e then .next s
  else
    match fetch s (coreOf cid) c.ctx e.hdr with
    | .ok b s => .next (s.setCohort cid (setEnt (s.cohort cid) { e with blk := b, widx := 0, st := .run, inWord := false }))
    | .park n s => .next (s.setCohort cid (setEnt (s.cohort cid) { e with st := .parked n }))
    | .bad cause info s =>
      .next (s.setCohort cid { c with trap := some ⟨frag, cause, info, false, inHandler c, none, none, false⟩ })

/-- FRAGMENT_JOIN_PARK: a fragment at its parent's join header parks there once the results of its lanes are written, and the join may fuse (08
R163, R171). -/
def execFragmentJoinPark (cid frag : Nat) (s : State) : Host.Outcome State Fault Refusal :=
  let c := s.cohort cid
  let e := entOf c frag
  if atEase c frag && mayGo c e && atJoin c e then
    .next (s.setCohort cid (fuseParent (setEnt c { e with st := .joined }) e))
  else .next s

/-- VARIABLE_RESULT_RETURN: the n-th write of a result that has come is made; with n past them all, all are, its flags are raised
(03 R70), and the result is no longer outstanding (08 R167, R170). -/
def execVariableResultReturn (cid vid n : Nat) (s : State) : Host.Outcome State Fault Refusal :=
  let c := s.cohort cid
  match c.pend.find? (·.vid == vid) with
  | none => .next s
  | some p =>
    match pendReady c p with
    | none => .next s
    | some ws =>
      match ws[n]? with
      | some w =>
        let q : Pend := { p with kind := .known, writes := ws.eraseIdx n }
        .next (s.setCohort cid (putWr { c with pend := c.pend.map fun x => if x.vid == vid then q else x } w))
      | none =>
        .next (s.setCohort cid (raiseFlags (putWrs { c with pend := c.pend.filter (·.vid != vid) } ws) p.frag p.flags))

/-- ILLEGAL_WORD: a word that fails its checks traps by the first failing one and issues nothing (07 R136, R146, R151). -/
def execIllegalWord (w : IWord) (s : State) : Host.Outcome State Fault Refusal :=
  let cause := match decodeWord (wordEnv s.me s.frag) w with | .error c => c | .ok _ => .illegal
  let s := s.setFrag { s.frag with triedB := true }
  finish (.trap cause 0 s)

end Sys2Proof.Machine
end

