-- ==== Sys2Proof/Machine/Sync.lean ====
section
/-! DEFINITION. Named barriers, cluster and die barriers, fences (19 R378-R386, 17 R345, R352, R353). -/
namespace Sys2Proof.Machine

/-! ### Named barriers (R378-R383) -/

/-- An arrival barrier just set up: every live thread with EXP 0, else a count (R381). -/
def Bar.arrival (e : Nat) : Bar :=
  { sc := 0, byteMode := false, all := e == 0, exp := e, got := 0, arr := [], ph := 0, abt := false, abta := 0 }
/-- A byte-mode barrier just set up (14 R294). -/
def Bar.byte : Bar :=
  { sc := 0, byteMode := true, all := false, exp := 0, got := 0, arr := [], ph := 0, abt := false, abta := 0 }

/-- The barrier entries bound in the pool of a core: those of the blocks whose part 0 it holds (R378), saved ones among them (R385). -/
def poolUsed (s : State) (core : Nat) : Nat :=
  (s.blks.map fun x => if x.2.used && x.2.cores.head? == some core then (x.2.bars.filter (·.2.isSome)).length else 0).sum +
  (s.saved.map fun v => if v.blk.cores.head? == some core then (v.blk.bars.filter (·.2.isSome)).length else 0).sum

/-- A cohort of a block waits on its barrier `n`, or a copy request still counts on it (R381). -/
def barBusy (s : State) (b n : Nat) : Bool :=
  ((s.blk b).cids.any fun cid =>
    (s.cohort cid).ents.any (fun e => e.wait.any (·.bar == some n)) ||
    (s.cohort cid).waits.any fun w => match w with
      | .op (.bytes m) => m == n
      | _ => false) ||
  s.copies.any fun r => r.blk == b && r.bar == some n

/-- The shared meaning of `bar.ini.arv` and `bar.ini.byte` (R378, R381). -/
def barIni (s : State) (n : Nat) (x : Bar) : Res :=
  let b := s.me.blk
  if (barOf (s.blk b) n).isSome then
    if barBusy s b n then .trap .illegal (dw n) s else .done (s.setBar b n (some x))
  else if 256 ≤ poolUsed s ((s.blk b).cores.headD 0) then .wait (.entry n) s
  else .done (s.setBar b n (some x))

/-- BAR_INI_ARV (R381). -/
def execBarIniArv (o : G3) (s : State) : Host.Outcome State Fault Refusal :=
  op (.barIniArv o) s (barIni s o.va.toNat (Bar.arrival ((sreg s.me o.vb).toNat % 2 ^ 32)))
/-- BAR_INI_BYTE (R381). -/
def execBarIniByte (o : G3) (s : State) : Host.Outcome State Fault Refusal :=
  op (.barIniByte o) s (barIni s o.va.toNat Bar.byte)
/-- BAR_INI_FREE: an unbound number is left as it is (R381). -/
def execBarIniFree (o : G3) (s : State) : Host.Outcome State Fault Refusal :=
  let n := o.va.toNat
  let b := s.me.blk
  op (.barIniFree o) s
    (if (barOf (s.blk b) n).isSome && barBusy s b n then .trap .illegal (dw n) s else .done (s.setBar b n none))

/-- The threads of the issuing fragment, numbered within the block. -/
def fragThreads (s : State) : List Nat := s.fragLanes.map (s.me.cidx * s.me.w + ·)

/-- A fragment arrives: the barrier before its test, or none while a lane of it has arrived in the phase already (R382). -/
def arrive (b : Bar) (ts : List Nat) : Option Bar :=
  if b.all then (if ts.any b.arr.contains then none else some { b with arr := b.arr ++ ts })
  else some { b with got := min (2 ^ 32 - 1) (b.got + ts.length) }

/-- The phase an arrival joins: PH + 1 before the test (R382). -/
def joins (b : Bar) : Nat := (b.ph + 1) % 2 ^ 32

/-- An arrival-mode barrier of the executing cohort's block; others trap E_ILLEGAL (R378, R382). -/
def onBar (s : State) (n : Nat) (k : Bar → Res) : Res :=
  match barOf (s.blk s.me.blk) n with
  | none => .trap .illegal (dw n) s
  | some b => if b.byteMode then .trap .illegal (dw n) s else k b

/-- BAR_ARV: a release at block scope, then the arrival (R382). -/
def execBarArv (o : G3) (s : State) : Host.Outcome State Fault Refusal :=
  let n := o.va.toNat
  op (.barArv o) s (onBar s n fun _ => releaseOp s 1 fun s => onBar s n fun b =>
    match arrive b (fragThreads s) with
    | none => .hold ⟨some n, none, true⟩ s
    | some x =>
      .done ((s.setBar s.me.blk n (some (barTest (liveThreads (s.blk s.me.blk)) x))).setS o.vd.toNat (dw (joins b))))

/-- A wait for a phase of a barrier: sD := `v` of the barrier, and an acquire (R382). -/
def waitPhase (s : State) (b : Bar) (want : Nat) (vd : Nat) (v : Nat) (sc : Nat) (w : BarWait) : Res :=
  if reached (BitVec.ofNat 32 b.ph) (BitVec.ofNat 32 want) then .done ((s.setS vd (dw v)).acquire s.cur.cid sc [])
  else .hold w s

/-- BAR_WT (R382). -/
def execBarWt (o : G3) (s : State) : Host.Outcome State Fault Refusal :=
  let n := o.va.toNat
  op (.barWt o) s (onBar s n fun b =>
    waitPhase s b ((sreg s.me o.vb).toNat % 2 ^ 32) o.vd.toNat b.ph 1 ⟨some n, none, false⟩)

/-- The phase the waiting barrier op of the executing fragment has joined already. -/
def joined (s : State) : Option Nat := s.frag.wait.bind (·.ph)

/-- BAR_SYNC: an arrival, then a wait of the phase it joined (R382). -/
def execBarSync (o : G3) (s : State) : Host.Outcome State Fault Refusal :=
  let n := o.va.toNat
  op (.barSync o) s (onBar s n fun b =>
    match joined s with
    | some p => waitPhase s b p o.vd.toNat p 1 ⟨some n, some p, false⟩
    | none => releaseOp s 1 fun s => onBar s n fun b =>
      match arrive b (fragThreads s) with
      | none => .hold ⟨some n, none, false⟩ s
      | some x =>
        let x := barTest (liveThreads (s.blk s.me.blk)) x
        waitPhase (s.setBar s.me.blk n (some x)) x (joins b) o.vd.toNat (joins b) 1 ⟨some n, some (joins b), false⟩)

/-! ### Cluster and die barriers (R384) -/

/-- The threads of the issuing fragment among those of a group of blocks. -/
def groupThreads (s : State) : List Nat := (fragThreads s).map (4096 * (s.blk s.me.blk).idx + ·)

/-- The shared meaning of `bar.cl` and `bar.die`: `bar.sync` on the distributor's entry. -/
def groupSync (s : State) (vd sc : Nat) (get : Grid → Bar) (put : Grid → Bar → Grid) (live : List Nat) : Res :=
  let gid := s.me.gid
  match joined s with
  | some p => waitPhase s (get (s.grid gid)) p vd p sc ⟨none, some p, false⟩
  | none => releaseOp s sc fun s =>
    let b := get (s.grid gid)
    match arrive b (groupThreads s) with
    | none => .hold ⟨none, none, false⟩ s
    | some x =>
      let x := barTest live x
      waitPhase (s.setGrid gid (put (s.grid gid) x)) x (joins b) vd (joins b) sc ⟨none, some (joins b), false⟩

/-- BAR_CL (R384). -/
def execBarCl (o : G3) (s : State) : Host.Outcome State Fault Refusal :=
  let c := s.me
  let k := (s.blk c.blk).cluster
  op (.barCl o) s
    (if c.kind != .grid then .trap .illegal 0 s
     else groupSync s o.vd.toNat 2 (fun g => (tget none g.cbars k).getD (Bar.arrival 0))
       (fun g x => { g with cbars := tput none g.cbars k (some x) }) (groupLive (s.gridBlks c.gid (·.cluster == k))))

/-- BAR_DIE: only with die-gang (R384, 02 R27). -/
def execBarDie (o : G3) (s : State) : Host.Outcome State Fault Refusal :=
  let c := s.me
  let d := (s.blk c.blk).die
  op (.barDie o) s
    (if c.kind != .grid || !dieGang (s.grid c.gid) then .trap .illegal 0 s
     else groupSync s o.vd.toNat 3
       (fun g => ((g.slices.find? (·.die == d)).map (·.bar)).getD (Bar.arrival 0))
       (fun g x => { g with slices := g.slices.map fun sl => if sl.die == d then { sl with bar := x } else sl })
       (groupLive (s.gridBlks c.gid (·.die == d))))

/-! ### Fences (R386, 17 R345, R352, R353) -/

/-- A fence of die scope or wider invalidates the core's code buffer (06 R129). -/
def State.fenceCode (s : State) (sc : Nat) : State := if 3 ≤ sc then s.dropCode (coreOf s.cur.cid) else s

/-- The cohort's last read has still to come (R345). -/
def lastReadOut (s : State) (cid : Nat) : Bool :=
  let c := s.cohort cid
  c.lastVid.any fun v => c.pend.any (fun p => p.vid == v && (pendReady c p).isNone) ||
    (s.core (coreOf cid)).matq.any fun e => e.cid == cid && e.vid == some v && !e.todo.isEmpty

/-- The acquire half of a fence, made by the last read, which has its data first (R345). -/
def fenceAcquire (s : State) (sc : Nat) (k : State → Res) : Res :=
  if sc != 0 && lastReadOut s s.cur.cid then .wait .results s
  else k (s.acquire s.cur.cid sc s.me.lastToks)

/-- The release half of a fence is made by the next write or release (R345). -/
def State.relOwed (s : State) (sc : Nat) : State := let c := s.me; s.setMe { c with relDue := relScope s true sc }

/-- FENCE_REL (R345). -/
def execFenceRel (o : G3) (s : State) : Host.Outcome State Fault Refusal :=
  op (.fenceRel o) s (.done ((s.relOwed o.ty.toNat).fenceCode o.ty.toNat))
/-- FENCE_ACQ (R345). -/
def execFenceAcq (o : G3) (s : State) : Host.Outcome State Fault Refusal :=
  op (.fenceAcq o) s (fenceAcquire s o.ty.toNat fun s => .done (s.fenceCode o.ty.toNat))
/-- FENCE_FULL: both, and what was stored before it is performed before it ends (R345, R352). -/
def execFenceFull (o : G3) (s : State) : Host.Outcome State Fault Refusal :=
  op (.fenceFull o) s (afterRelease s true o.ty.toNat fun s =>
    if atomsOut s s.cur.cid then .wait .release s
    else fenceAcquire s o.ty.toNat fun s => .done ((s.relOwed o.ty.toNat).fenceCode o.ty.toNat))

/-- The end of a remote acquire that has read `v`: the acquire. -/
def racqEnd (s : State) (vd sc v : Nat) (toks : List Token) : State :=
  let s := s.setS vd (dw v)
  ((s.setMe { s.me with lastVid := none, lastToks := toks }).acquire s.cur.cid sc toks).fenceCode sc

/-- FENCE_RACQ: every other writer of the line is forwarded the read first, one probe of a leased line at a time; on a line that is not
directory-tracked it is a plain acquire (R353, 16 R325, R332). -/
def execFenceRacq (o : G3) (s : State) : Host.Outcome State Fault Refusal :=
  let cid := s.cur.cid
  let core := coreOf cid
  let addr := sreg s.me o.vb
  let sc := o.ty.toNat
  op (.fenceRacq o) s
    (match checkMine s 0 .read true false [⟨0, addr, 8⟩] with
     | .bad r => r
     | .ok ((_, key, coh) :: _) s =>
       let line := lineOf key
       let e := s.dirEnt line
       let told := s.me.waits.any fun w => match w with | .op (.fwd _ b) => b | .op (.answer _ _ _) => true | _ => false
       if srcPois s key 8 then .trap .poison addr s
       else if leaseHolds s core cid [(⟨0, addr, 8⟩, key, coh)] then .wait .lease s
       else if claimedBy s key none || atomLate s cid [(key, 8)] then
         .wait (if told then .fwd line true else .other) (if claimedBy s key none then s.recallHead line else s)
       else if e.txns.any (·.done == .fwd cid) then .wait (.fwd line false) s
       else
         let ws := e.wrt.filter (· != core)
         if coh != 0 || ws.isEmpty || told then
           let keys := (List.range 8).map (key + ·)
           answered s (homeDie key) (leNat (keys.map (srcByte s core)))
             (toksOf (if ownDirty s core key 8 then (s.lc core line).toks else s.tokens) keys) fun v toks s =>
               .done (racqEnd s o.vd.toNat sc v toks)
         else if e.lse.isSome && !e.txns.isEmpty then .wait .other s
         else
           let want := maskOfBytes ((List.range 8).map (key % 128 + ·))
           let s := ws.foldl (fun s c => s.send (.fwd c line ⟨s.next, want⟩)) s
           .wait (.fwd line false)
             { (s.setDir line { e with txns := e.txns ++ [⟨s.next, ws, [], .fwd cid⟩] }) with next := s.next + 1 }
     | .ok [] s => .done s)

end Sys2Proof.Machine
end

