-- ==== Sys2Proof/Machine/Future.lean ====
section
/-! DEFINITION. Futures, continuation records, runnable tasks and the stalemate watchdog (02 R42-R46, 19 R387-R398). -/
namespace Sys2Proof.Machine

/-! ### Checks at issue (R388 orders 1 to 4) -/

/-- The key of a future or a record, or how the op ends. -/
inductive FutChk where
  | ok (key : Nat) (s : State)
  | bad (r : Res)
  deriving DecidableEq, Repr

/-- Alignment, then translation, page and granule of an address. -/
def checkFut (s : State) (sp : BitVec 2) (kind : Acc) (align : Nat) (a : DWord) : FutChk :=
  let core := coreOf s.cur.cid
  let c := s.me
  let b := s.blk c.blk
  if a.toNat % align != 0 then .bad (.trap .align a s)
  else match translate s core c.ctx b sp kind a with
    | .outside => .bad (.trap .protect a s)
    | .xlate => .bad (.trap .xlate a (if sp == 0 then s.noteWalks core c.ctx [a] else s))
    | .protect => .bad (.trap .protect a s)
    | .park => .bad (s.parkOn c.ctx a (kind == .write) (dieOfCore core))
    | .ok key _ =>
      if isHost key || isPeer key then .bad (.trap .protect a s)
      else if s.lapsed key sp b a || s.expired (s.timeOf (dieOfCore core)) key then .bad (.trap .expired a s)
      else .ok key (if sp == 0 then s.fillTlb core c.ctx a else s)

/-- sB + n·OFF. -/
def futAddr (c : Cohort) (o : M) (n : Int) : DWord := srd c o.sb.toNat + BitVec.ofInt 64 (n * o.off.toInt)

/-- The package time since which the waiting op's request has been on its way to another die. -/
def travelling (s : State) : Option DWord := s.me.waits.findSome? fun w => match w with | .op (.travel t) => some t | _ => none
/-- A request of the executing cohort has reached its home: at once on its own die, after 10 ns on another (15 R311). -/
def travelled (s : State) (key : Nat) : Bool :=
  homeDie key == dieOf s.cur.cid || (travelling s).any fun t => 160 ≤ (s.ptime - t).toNat
/-- The wait of an op at the home of another die. -/
def atHomeWait (s : State) : WaitWhy := match travelling s with | some t => .travel t | none => .other

/-- The future's line is free of leases and claims and holds no newer bytes of the core: else the wait, with the write-back begun. -/
def futReady (s : State) (key : Nat) (k : State → Res) : Res :=
  let core := coreOf s.cur.cid
  let line := lineOf key
  if ownDirty s core key 16 then .wait (atHomeWait s) (s.writeBack core line)
  else if !homeFree s line then .wait (atHomeWait s) (s.recallHead line)
  else if atomLate s s.cur.cid [(key, 16)] || readLate s s.cur.cid [(key, 16)] then .wait (atHomeWait s) s
  else k s

/-- The same for an op that waits for itself until its request has reached the home (R388). -/
def futAt (s : State) (key : Nat) (k : State → Res) : Res :=
  if travelled s key then futReady s key k
  else .wait (.travel ((travelling s).getD s.ptime)) s

/-! ### Records (02 R42-R44) -/

/-- STATE of a future's word. -/
def futState (w : DWord) : Nat := bits w 0 2
/-- LIST of a future's word, as an address. -/
def futList (w : DWord) : DWord := (w >>> 6) <<< 6
/-- An 8-byte word at a key's home. -/
def State.word (s : State) (key : Nat) : DWord := dw (leNat (s.bytes key 8))
/-- A word written at a key's home. -/
def State.putWord (s : State) (key : Nat) (v : DWord) (toks : Toks := []) : State := s.homeWrite key (leBytes 8 v.toNat) toks
/-- A future's two words written at its home, for a core of a die or none. -/
def State.putFut (s : State) (core key : Nat) (w v : DWord) (toks : Toks := []) : State :=
  ((s.chanStep (dieOfCore core) (homeDie key)).homeWrite key (leBytes 8 w.toNat ++ leBytes 8 v.toNat) toks).forget core key 16

/-- A read of a record by the SC12 itself: in a context, never parking (R389, R394). An expired or lapsed carve granule is read as it stands (DESIGN
CHOICE, log entry 11). -/
def readRec (s : State) (r : TaskRef) (off : Nat) : Except Cause Nat :=
  let a := r.addr + dw off
  match (if r.sp == 3 then translateM s r.ctx a else translateG s 0x10000 r.ctx a .read) with
  | .ok k _ => if s.poisoned (lineOf k) || unitDown s k then .error .poison else .ok k
  | .park => .error .xlate
  | .xlate => .error .xlate
  | _ => .error .protect

/-- NEXT of a record written by the SC12. -/
def State.linkRec (s : State) (r : TaskRef) (next : DWord) : State :=
  match readRec s r 0x18 with
  | .ok k => s.putWord k next
  | .error _ => s

/-- The tokens the resumption of a record takes up: that of the release that makes it runnable, and that of its registration, kept with
its NEXT (17 R355). -/
def taskToks (s : State) (r : TaskRef) : List Token :=
  (if 4 ≤ r.sc then [tokenOf s (dieOf s.cur.cid)] else []) ++
  match readRec s r 0x18 with
  | .ok k => toksOf s.tokens ((List.range 8).map (k + ·))
  | .error _ => []

/-- Records appended to a die's chain of a PRIO, linked through NEXT (R394). -/
def State.runnable (s : State) (die prio : Nat) (rs : List TaskRef) : State :=
  rs.foldl (fun s r =>
    let r := { r with toks := taskToks s r, since := s.ptime }
    let l := tget [] (s.die die).chains prio
    let s := (match l.getLast? with | some t => s.linkRec t r.addr | none => s).linkRec r 0
    let d := s.die die
    s.setDie die { d with chains := tput [] d.chains prio (l ++ [r]) }) s

/-- What following a chain finds: its records with their CTX, in LIST order; the record past the last taken; one that cannot be read. -/
structure Chain where
  recs : List (TaskRef × Nat)
  past : Option (Nat × DWord)
  bad : Option (Cause × DWord)
  deriving DecidableEq, Repr

/-- A chain followed from an address until NEXT = 0 or `fuel` records have been taken (R389). A NEXT word with bits 5:0 set, which only a program can
have written, is followed as it stands (DESIGN CHOICE, log entry 4). -/
def followChain (s : State) (ctx : Nat) (sp : BitVec 2) (sc : Nat) : Nat → DWord → Chain
  | fuel, a =>
    if a == 0 then ⟨[], none, none⟩
    else
      let r : TaskRef := ⟨a, sp, ctx, sc, [], 0⟩
      match readRec s r 0 with
      | .error c => ⟨[], none, some (c, a)⟩
      | .ok k =>
        let rc := bits (s.word (k + 0x10)) 16 16
        match fuel with
        | 0 => ⟨[], some (rc, a), none⟩
        | n + 1 =>
          let t := followChain s ctx sp sc n (s.word (k + 0x18))
          { t with recs := (r, rc) :: t.recs }

/-- The orphan traps the end of a chain gives: E_ILLEGAL for a record past the limit, the read's cause for one that cannot be read. -/
def State.chainEnds (s : State) (c : Chain) (ctx die : Nat) : State :=
  let s := match c.past with | some p => s.send (.orphanTrap p.1 .illegal p.2 die) | none => s
  match c.bad with | some p => s.send (.orphanTrap ctx p.1 p.2 die) | none => s

/-- The space of a future by its key. -/
def futSp (key : Nat) : BitVec 2 := if isCarve key then 3 else 0

/-! ### Deferred loads (R390, R391) -/

/-- A deferred `fut.get` of a future. -/
def getOf (key : Nat) (d : Deferred) : Option (Nat × Nat) :=
  match d with | .get cid vid k _ _ => if k == key then some (cid, vid) else none | _ => none

/-- A `fut.get`'s pending result meets an abandoned future: the trap comes before the next word, and the op is executed again. -/
def getTraps (c : Cohort) (vid : Nat) (cause : Cause) : Cohort :=
  match c.pend.find? (·.vid == vid) with
  | some p =>
    match p.kind with
    | .futGet addr _ _ _ _ =>
      deferTrap { c with
        pend := c.pend.filter (·.vid != vid),
        waits := c.waits.filter fun w => match w with
          | .nack v => v != vid
          | .acquire v _ _ => v != vid
          | _ => true } p.frag cause addr false (some p)
    | _ => c
  | none => c

/-- What a result of a home is: known at once on the home's own die, on its way from another. -/
def fromHome (s : State) (cid key : Nat) : PendKind := if homeDie key == dieOf cid then .known else .coming s.ptime

/-- A `fut.get`'s pending result leaves its home, with the tokens the value carries. -/
def getValue (c : Cohort) (vid : Nat) (v : DWord) (k : PendKind) (toks : List Token) : Cohort :=
  noteToks { c with
    waits := c.waits.filter (· != .nack vid),
    pend := c.pend.map fun p => if p.vid == vid then
      (match p.kind with | .futGet _ _ sd _ _ => { p with kind := k, writes := [⟨.s sd, v⟩] } | _ => p) else p } vid toks
/-- The tokens a future's value carries. -/
def futToks (s : State) (key : Nat) : List Token := toksOf s.tokens ((List.range 16).map (key + ·))

/-- Every deferred load of a future is answered, in arrival order: by its value, or as abandoned. -/
def State.answerGets (s : State) (key : Nat) (v : Option DWord) : State :=
  let sl := sliceOf (lineOf key)
  let l := deferred s sl
  let s := s.setDeferred sl (l.filter fun d => (getOf key d).isNone)
  (l.filterMap (getOf key)).foldl (fun s p =>
    let c := s.cohort p.1
    s.setCohort p.1 (match v with
      | some v => getValue c p.2 v (fromHome s p.1 key) (futToks s key)
      | none => getTraps c p.2 .futAbandon)) s

/-- A future becomes abandoned (R391): its loads trap, its records go to their contexts' handlers. -/
def State.abandonFut (s : State) (ctx core key : Nat) : State :=
  let w := s.word key
  let ch := if futState w == 1 then followChain s ctx (futSp key) 5 65536 (futList w) else ⟨[], none, none⟩
  let die := homeDie key
  let s := (s.putFut core key 3 0).answerGets key none
  let s := ch.recs.foldl (fun s p => s.send (.orphanTrap p.2 .futAbandon p.1.addr die)) s
  s.chainEnds ch ctx die

/-- Deferred loads stand on a future. -/
def hasGets (s : State) (key : Nat) : Bool := (deferred s (sliceOf (lineOf key))).any fun d => (getOf key d).isSome

/-! ### The `fut.` ops (R387-R391) -/

/-- The shared meaning of `fut.new`: `k` gives the state and status once the future is known to be free to renew or not. -/
def futNew (s : State) (o : M) (k : State → Nat → Bool → State) : Res :=
  let core := coreOf s.cur.cid
  let a := futAddr s.me o 16
  match checkFut s o.sp .write 16 a with
  | .bad r => r
  | .ok key s =>
    futAt s key fun s =>
      if s.poisoned (lineOf key) then .trap .poison a s
      else
        let busy := futState (s.word key) == 1 || hasGets s key
        .done (k (if busy then s else s.putFut core key 0 0) key busy)

/-- FUT_NEW (R389). -/
def execFutNew (o : M) (s : State) : Host.Outcome State Fault Refusal :=
  op (.futNew o) s (futNew s o fun s _ busy => s.setS o.vd.toNat (if busy then 1 else 0))

/-- FUT_NEW_BIND: the list's room is looked at before the future (R391). -/
def execFutNewBind (o : M) (s : State) : Host.Outcome State Fault Refusal :=
  let a := futAddr s.me o 16
  op (.futNewBind o) s
    (if 8 ≤ s.me.bound.length then
       match checkFut s o.sp .write 16 a with
       | .bad r => r
       | .ok _ s => .done (s.setS o.vd.toNat 2)
     else futNew s o fun s key busy =>
       if busy then s.setS o.vd.toNat 1
       else (s.setMe { s.me with bound := s.me.bound ++ [(a, key)] }).setS o.vd.toNat 0)

/-- FUT_GET: a value at hand, a trap, or a load deferred at the home; a full buffer parks the cohort (R389, R390). -/
def execFutGet (o : M) (s : State) : Host.Outcome State Fault Refusal :=
  let cid := s.cur.cid
  let a := futAddr s.me o 16
  let acq : Option (BitVec 3) := if isAcq o.ord then some o.sc else none
  op (.futGet o) s
    (match checkFut s o.sp .read 16 a with
     | .bad r => r
     | .ok key s => futReady s key fun s =>
       let vid := s.me.nextVid
       let hold (s : State) (toks : List Token) : State :=
         let c := s.me
         s.setMe { c with
           lastVid := some vid, lastToks := toks,
           waits := match acq with | some sc => c.waits ++ [.acquire vid sc toks] | none => c.waits }
       let sl := sliceOf (lineOf key)
       if s.poisoned (lineOf key) then .trap .poison a s
       else match futState (s.word key) with
         | 2 => .done (hold (s.addPend (fromHome s cid key) [⟨.s o.vd.toNat, s.word (key + 8)⟩] acq) (futToks s key))
         | 3 => .trap .futAbandon a s
         | _ =>
           if (deferred s sl).length < 64 then
             .done (hold ((s.addPend (.futGet a key o.vd.toNat none 256) [] acq).setDeferred sl
               (deferred s sl ++ [.get cid vid key a s.me.ctx])) [])
           else
             let s := hold (s.addPend (.futGet a key o.vd.toNat (some (s.cycOf (dieOf cid) + 256)) 512) [] acq) []
             .done (s.setMe { s.me with waits := s.me.waits ++ [.nack vid] }))

/-- FUT_GET_RETRY: a refused `fut.get` is sent again once its delay has passed (R390). -/
def execFutGetRetry (cid vid : Nat) (s : State) : Host.Outcome State Fault Refusal :=
  let c := s.cohort cid
  match c.pend.find? (·.vid == vid) with
  | some p =>
    match p.kind with
    | .futGet a key sd (some t) delay =>
      let now := s.cycOf (dieOf cid)
      let sl := sliceOf (lineOf key)
      if now < t || !homeFree s (lineOf key) then .next s
      else if s.poisoned (lineOf key) then .next (s.setCohort cid (getTraps c vid .poison))
      else match futState (s.word key) with
        | 2 => .next (s.setCohort cid (getValue c vid (s.word (key + 8)) (fromHome s cid key) (futToks s key)))
        | 3 => .next (s.setCohort cid (getTraps c vid .futAbandon))
        | _ =>
          let set (r : Option Nat) (d : Nat) : List Pend :=
            c.pend.map fun x => if x.vid == vid then { x with kind := .futGet a key sd r d } else x
          if (deferred s sl).length < 64 then
            .next ((s.setCohort cid { c with pend := set none 256, waits := c.waits.filter (· != .nack vid) }).setDeferred sl
              (deferred s sl ++ [.get cid vid key a c.ctx]))
          else .next (s.setCohort cid { c with
            pend := set (some (now + delay)) (min 8192 (2 * delay)), waits := c.waits.filter (· != .nack vid) ++ [.nack vid] })
    | _ => .next s
  | none => .next s

/-- The cohort's bound list loses an address (R391). -/
def State.unbind (s : State) (a : DWord) (key : Nat) : State :=
  s.setMe { s.me with bound := s.me.bound.filter (· != (a, key)) }

/-- FUT_SET: a release; the future becomes full, its loads are answered, its chain made runnable on its home die (R389, R394). -/
def execFutSet (o : M) (s : State) : Host.Outcome State Fault Refusal :=
  let core := coreOf s.cur.cid
  let a := futAddr s.me o 16
  op (.futSet o) s
    (match checkFut s o.sp .write 16 a with
     | .bad r => r
     | .ok key s => releaseOp s o.sc.toNat fun s => futAt s key fun s =>
       let w := s.word key
       if s.poisoned (lineOf key) then .trap .poison a s
       else match futState w with
         | 2 => .trap .futDouble a s
         | 3 => .trap .futAbandon a s
         | st =>
           let v := sreg s.me o.vd
           let ch := if st == 1 then followChain s s.me.ctx (futSp key) o.sc.toNat 65536 (futList w) else ⟨[], none, none⟩
           let toks := toksFor s (some o.sc.toNat) (dieOfCore core) ((List.range 16).map (key + ·))
           let s := ((s.unbind a key).putFut core key 2 v toks).answerGets key (some v)
           let s := s.runnable (homeDie key) s.me.prio.toNat (ch.recs.reverse.map (·.1))
           .done (s.chainEnds ch s.me.ctx (homeDie key)))

/-- FUT_SET_ABN: an empty or armed future becomes abandoned (R389, R391). -/
def execFutSetAbn (o : M) (s : State) : Host.Outcome State Fault Refusal :=
  let core := coreOf s.cur.cid
  let a := futAddr s.me o 16
  op (.futSetAbn o) s
    (match checkFut s o.sp .write 16 a with
     | .bad r => r
     | .ok key s => releaseOp s o.sc.toNat fun s => futAt s key fun s =>
       if s.poisoned (lineOf key) then .trap .poison a s
       else
         let s := s.unbind a key
         .done (if 2 ≤ futState (s.word key) then s else s.abandonFut s.me.ctx core key))

/-- A record's context differs from the issuing one, or its first 64 bytes are poisoned (R388 orders 5 and 6). -/
def recCtx (s : State) (key : Nat) : Nat :=
  leNat ((List.range 2).map fun i => srcByte s (coreOf s.cur.cid) (key + 0x12 + i))

/-- A registration of record `rec` at `rk` on the future at `key`, once every check of R388 has passed (R389). -/
def futRegister (s : State) (a : DWord) (key : Nat) (rec : DWord) (rk : Nat) (sp : BitVec 2) (sc : Nat) (k : State → Res) : Res :=
  let core := coreOf s.cur.cid
  let w := s.word key
  match futState w with
  | 3 => .trap .futAbandon a s
  | 2 => k (s.runnable (dieOfCore core) s.me.prio.toNat [⟨rec, sp, s.me.ctx, sc, [], 0⟩])
  | st =>
    let toks (a n : Nat) : Toks := toksFor s (some sc) (dieOfCore core) ((List.range n).map (a + ·))
    let s := (s.forget core (rk + 0x18) 8).putWord (rk + 0x18) (if st == 1 then futList w else 0) (toks (rk + 0x18) 8)
    k (s.putFut core key (futList rec ||| 1) (s.word (key + 8)) (toks key 16))

/-- FUT_REG (R388, R389). -/
def execFutReg (o : M) (s : State) : Host.Outcome State Fault Refusal :=
  let a := futAddr s.me o 16
  let rec' := sreg s.me o.vd
  op (.futReg o) s
    (if a.toNat % 16 != 0 then .trap .align a s
     else if rec'.toNat % 64 != 0 then .trap .align rec' s
     else match checkFut s o.sp .write 16 a with
       | .bad r => r
       | .ok key s =>
         match checkFut s o.sp .write 64 rec' with
         | .bad r => r
         | .ok rk s =>
           if recCtx s rk != s.me.ctx then .trap .protect rec' s
           else releaseOp s o.sc.toNat fun s => futAt s key fun s =>
             if s.poisoned (lineOf key) then .trap .poison a s
             else if s.poisoned (lineOf rk) then .trap .poison rec' s
             else if !homeFree s (lineOf rk) then .wait (atHomeWait s) (s.recallHead (lineOf rk))
             else futRegister s a key rec' rk o.sp o.sc.toNat .done)

/-- ABANDON_REQUEST: an ended cohort's bound future, empty or armed, is abandoned; a poisoned one drops the request (R391). It waits at
the home as an atomic does. -/
def execAbandonRequest (ctx key : Nat) (s : State) : Host.Outcome State Fault Refusal :=
  if s.poisoned (lineOf key) then .next s
  else if !homeFree s (lineOf key) then .next ((s.recallHead (lineOf key)).send (.abandonRequest ctx key))
  else if 2 ≤ futState (s.word key) then .next s
  else .next (s.abandonFut ctx 0x10000 key)

/-! ### Tasks (R393, R394) -/

/-- TSK_SPAWN: after a release the record is runnable on the issuing die (R388, R394). -/
def execTskSpawn (o : M) (s : State) : Host.Outcome State Fault Refusal :=
  let a := futAddr s.me o 64
  op (.tskSpawn o) s
    (match checkFut s o.sp .write 64 a with
     | .bad r => r
     | .ok rk s =>
       if recCtx s rk != s.me.ctx then .trap .protect a s
       else if s.poisoned (lineOf rk) then .trap .poison a s
       else releaseOp s o.sc.toNat fun s =>
         if !homeFree s (lineOf rk) then .wait .other (s.recallHead (lineOf rk))
         else .done (s.runnable (dieOf s.cur.cid) s.me.prio.toNat [⟨a, o.sp, s.me.ctx, o.sc.toNat, [], 0⟩]))

/-- The width code of a cohort (02 R29). -/
def widthCode (w : Nat) : Nat := if w == 16 then 0 else if w == 32 then 1 else 2

/-- Descriptor j of a record's first 64 bytes. -/
def descAt (head : List Byte) (j : Nat) : Nat := leNat ((head.drop (0x20 + 2 * j)).take 2)
/-- A descriptor is legal for a register count (R44). -/
def descLegal (d nreg : Nat) : Bool := d / 512 == 0 && (if d / 256 == 1 then d % 256 < nreg else d % 256 < 64)

/-- The bytes `tsk.park` leaves at its record: the fields it writes and the values of the described registers (R393, R42). -/
def recordBytes (c : Cohort) (mask : DWord) (head : List Byte) : List Byte :=
  let nlive := (head.getD 0x10 0).toNat % 32
  let w0 := leNat (head.take 8) / 8 * 8 + widthCode c.w
  let w2 := c.ctx * 65536 + (c.nreg / 8 - 1) * 256 + nlive
  leBytes 8 w0 ++ leBytes 8 mask.toNat ++ leBytes 8 w2 ++ leBytes 8 0 ++ (head.drop 0x20).take 32 ++
    (List.range nlive).flatMap fun j =>
      let d := descAt head j
      if d / 256 == 1 then (List.range c.w).flatMap fun l => leBytes 4 (vrd c (d % 256) l).toNat
      else leBytes 8 (srd c (d % 256)).toNat

/-- A record `tsk.park` would leave is valid (R393, R44). -/
def parkLegal (c : Cohort) (head : List Byte) : Bool :=
  let nlive := (head.getD 0x10 0).toNat % 32
  !(head.getD 0 0).getLsbD 2 && (head.getD 0x10 0).toNat / 32 == 0 && (head.getD 0x11 0).toNat / 32 == 0 && nlive ≤ 16 &&
  (List.range nlive).all fun j => descLegal (descAt head j) c.nreg

/-- The 8-byte words of a record's area with their keys, or the first that does not translate (R393, R388). -/
def areaKeys (s : State) (sp : BitVec 2) (a : DWord) (n : Nat) : List Nat ⊕ FutChk :=
  (List.range (n / 8)).foldl (fun acc i => match acc with
    | .inr r => .inr r
    | .inl l =>
      match checkFut s sp .write 8 (a + dw (8 * i)) with
      | .ok k _ => .inl (l ++ [k])
      | r => .inr r) (.inl [])

/-- The record written where it is not yet, the release, the registration, and the end owed (R393). -/
def parkWrite (s : State) (o : M) (a : DWord) (rk : Nat) (bs : List Byte) (ks : List Nat) (fut : DWord) (fk : Nat) : Res :=
  let cid := s.cur.cid
  let core := coreOf cid
  let units := ((List.range ks.length).zip ks).map fun p => (p.2, a + dw (8 * p.1), (bs.drop (8 * p.1)).take 8)
  let same (u : Nat × DWord × List Byte) : Bool := ((List.range 8).map fun i => srcByte s core (u.1 + i)) == u.2.2
  if readLate s cid (ks.map fun k => (k, 8)) then .wait .other s
  else
    let coh : BitVec 2 := match translate s core s.me.ctx (s.blk s.me.blk) o.sp .write a with | .ok _ c => c | _ => 2
    let due := s.me.relDue
    afterRelease s due.isSome (due.getD 0) (leaves := true) fun s =>
    let s := (units.foldl (fun s u => if same u then s else s.storeAt cid u.1 u.2.1 coh true due false u.2.2) s).relMade
    afterRelease s true o.sc.toNat fun s =>
      if fut == 0 then .done (s.owe .exit)
      else futAt s fk fun s =>
        if s.poisoned (lineOf fk) then .trap .poison fut s
        else if !homeFree s (lineOf rk) then .wait (atHomeWait s) (s.recallHead (lineOf rk))
        else futRegister s fut fk a rk o.sp o.sc.toNat fun s => .done (s.owe .exit)

/-- The checks of a record about to be written (R393 orders 1 to 3), with the bytes it is to hold and its words' keys. -/
def parkCheck (s : State) (o : M) (a : DWord) (k : State → Nat → List Byte → List Nat → Res) : Res :=
  let core := coreOf s.cur.cid
  match checkFut s o.sp .write 64 a with
  | .bad r => r
  | .ok rk s =>
    let head := (List.range 64).map fun i => srcByte s core (rk + i)
    if atomLate s s.cur.cid [(rk, 64)] then .wait .other s
    else if srcPois s rk 64 then .trap .poison a s
    else if !parkLegal s.me head then .trap .illegal a s
    else
      let bs := recordBytes s.me s.frag.mask head
      match areaKeys s o.sp a bs.length with
      | .inr (.bad (.trap cause _ s)) => .trap cause a s
      | .inr (.bad r) => r
      | .inr (.ok _ s) => .stop s
      | .inl ks => k s rk bs ks

/-- TSK_PARK: once the results of the fragment's lanes are written, the record is written, a release made, the record registered where a future is
named, and the fragment's lanes end (R393, 08 R166, R171). Until then only the fragment is held, as by `exit`. -/
def execTskPark (o : M) (s : State) : Host.Outcome State Fault Refusal :=
  let a := futAddr s.me o 64
  let fut := sreg s.me o.vd
  op (.tskPark o) s
    (if lanesBusy s.me s.frag.mask then .hold ⟨none, none, true⟩ s
     else parkCheck s o a fun s rk bs ks =>
       if fut == 0 then parkWrite s o a rk bs ks fut 0
       else match checkFut s o.sp .write 16 fut with
         | .bad r => r
         | .ok fk s => parkWrite s o a rk bs ks fut fk)

/-! ### The stalemate watchdog (R396-R398) -/

/-- An address lies in a context's external window (R398). -/
def inWindow (s : State) (ctx : Nat) (a : DWord) : Bool :=
  let x := (s.ctx ctx).wdogxw
  let lg := bits x 0 6
  12 ≤ lg && lg ≤ 47 && a.toNat / 2 ^ lg == bits x 12 36 * 4096 / 2 ^ lg

/-- What keeps a cohort that waits internally: an op that waits for itself, a barrier op of a fragment, a `fut.get`; with its TRAPINFO. -/
inductive Held where
  | op (info : DWord) | bar (frag : Nat) (info : DWord) | get (vid : Nat) (addr : DWord)
  deriving DecidableEq, Repr

/-- The TRAPINFO of a wait. -/
def Held.info : Held → DWord
  | .op i => i
  | .bar _ i => i
  | .get _ a => a

/-- A `fut.get` that is deferred or waits to retry, on a future outside the external window (R396, R398). -/
def getHeld (win : DWord → Bool) (p : Pend) : Option Held :=
  match p.kind with | .futGet a _ _ _ _ => if win a then none else some (.get p.vid a) | _ => none

/-- All of some outstanding results, of which there is one, are those of waiting `fut.get`s: the first. -/
def getsHeld (win : DWord → Bool) (l : List Pend) : Option Held :=
  if l.all fun p => (getHeld win p).isSome then l.findSome? (getHeld win) else none

/-- What a wait for itself gives the watchdog: its TRAPINFO where it counts (R396, R397). -/
def opWait (s : State) (cid : Nat) (w : WaitWhy) : Option DWord :=
  let c := s.cohort cid
  match w with
  | .entry b => some (dw b)
  | .bytes b => if s.copies.any fun r => r.blk == c.blk && r.bar == some b && r.paused.isSome then none else some (dw b)
  | .word a ext => if ext || inWindow s c.ctx a then none else some a
  | _ => none

/-- What one wait of a cohort gives the watchdog (R396): a switch marker counts while all it waits for are waiting `fut.get`s; `yield`, a stop for the
host, beacons and a block's entry do not count. -/
def waitHeld (s : State) (cid : Nat) : Wait → Option Held
  | .op x => (opWait s cid x).map .op
  | .switch l =>
    let c := s.cohort cid
    if c.reds.any fun r => l.contains r.vid then none else getsHeld (inWindow s c.ctx) (c.pend.filter fun p => l.contains p.vid)
  | .nack v => let c := s.cohort cid; getsHeld (inWindow s c.ctx) (c.pend.filter (·.vid == v))
  | .acquire v _ _ => let c := s.cohort cid; getsHeld (inWindow s c.ctx) (c.pend.filter (·.vid == v))
  | _ => none

/-- What a fragment that does not go on gives the watchdog (R396): a barrier op other than `bar.arv`, or the `fut.get`s whose results the end of its
lanes, or its join header, awaits. -/
def fragHeld (s : State) (c : Cohort) (e : Ent) : Option Held :=
  let gets := getsHeld (inWindow s c.ctx) (c.pend.filter fun p => p.lanes &&& e.mask != 0)
  match e.wait with
  | some w => if !w.arv then some (.bar e.id (dw (w.bar.getD 0))) else if w.bar.isSome then none else gets
  | none => if atJoin c e && !(c.reds.any fun r => r.lanes &&& e.mask != 0) then gets else none

/-- A cohort waits internally (R396): every wait it makes is of the kinds that count. What keeps it, the first of them. -/
def internalWait (s : State) (cid : Nat) : Option Held :=
  let c := s.cohort cid
  let parked := c.ents.any fun e => match e.st with | .parked _ => true | _ => false
  let all (l : List (Option Held)) : Option Held := if l.all (·.isSome) then l.findSome? id else none
  if parked then none
  else if !c.waits.isEmpty then all (c.waits.map (waitHeld s cid))
  else if betweenWords c && (dueTrap c).isSome then (if c.reds.isEmpty then getsHeld (inWindow s c.ctx) c.pend else none)
  else if (nextFrag c).isSome then none
  else all ((c.ents.filter fun e => e.join.isNone && e.st != .joined && c.handler.all (·.1 == e.id)).map (fragHeld s c))

/-- The TRAPINFO of what a cohort that waits internally waits for. -/
def internal (s : State) (cid : Nat) : Option DWord := (internalWait s cid).map (·.info)

/-- A grid's queue slot is ready: known descriptor and a head record (04 R85). -/
def queueReady (s : State) (ctx : Nat) : Bool :=
  s.queues.any fun p => p.2.readyAt.isSome && bits ((p.2.head.getD []).getD 6 0) 48 16 == ctx

/-- The conditions of R397 hold. -/
def stalled (s : State) (ctx : Nat) : Bool :=
  let mine := (tkeys s.cohorts).filter fun cid => (s.cohort cid).ctx == ctx && (s.cohort cid).kind != .vacant
  !mine.isEmpty && mine.all (fun cid => (internal s cid).isSome) &&
  !(s.grids.any fun p => p.2.active && bits (p.2.rcd.getD 6 0) 48 16 == ctx &&
      p.2.slices.any fun sl => sl.next != sl.stop || !sl.redo.isEmpty) &&
  !(s.dies.any fun p => p.2.chains.any fun q => q.2.any (·.ctx == ctx)) &&
  !(s.saved.any fun v => v.ctx == ctx) && !queueReady s ctx &&
  !(s.copies.any (·.ctx == ctx)) && !(s.xdmas.any (·.ctx == ctx))

/-- A waiting cohort traps E_STALEMATE; its waiting op is incomplete (R397). -/
def State.stalemate (s : State) (cid : Nat) : State :=
  let c := s.cohort cid
  let trapAt (f : Nat) (info : DWord) : State :=
    let was := s.cur
    let t := { s with cur := ⟨cid, f, (nextSlot (entOf c f)).getD false⟩ }
    { (t.raise .stalemate info).slotFailed none with cur := was }
  match internalWait s cid with
  | none => s
  | some (.op info) => match nextFrag c with | some e => trapAt e.id info | none => s
  | some (.bar f info) => trapAt f info
  | some (.get vid _) =>
        let s := { s with defer := s.defer.map fun (p : Nat × List Deferred) => (p.1, p.2.filter fun d => match d with
          | .get a b _ _ _ => !(a == cid && b == vid)
          | _ => true) }
        let c := getTraps c vid .stalemate
        s.setCohort cid { c with waits := c.waits.filter fun w => match w with | .switch l => !l.contains vid | _ => true }

/-- The cohorts of a context with the words each has issued. -/
def issued (s : State) (ctx : Nat) : List (Nat × Nat) :=
  s.cohorts.filterMap fun p => if p.2.ctx == ctx && p.2.kind != .vacant then some (p.1, p.2.stamp) else none

/-- STALEMATE_FIRE: the watchdog of a context looks at it: it starts its count, drops it, or, PERIOD ms after with nothing issued between,
traps every waiting cohort (R397, R398). -/
def execStalemateFire (ctx : Nat) (s : State) : Host.Outcome State Fault Refusal :=
  let x := s.ctx ctx
  let now := s.ptime
  if !x.wdogcfg.getLsbD 0 || !stalled s ctx then .next (s.setCtx ctx { x with idleSince := none })
  else
    match x.idleSince with
    | some (t, l) =>
      if l != issued s ctx then .next (s.setCtx ctx { x with idleSince := some (now, issued s ctx) })
      else if (now - t).toNat < bits x.wdogcfg 16 16 * fadeWindow then .next s
      else .next (((issued s ctx).map (·.1)).foldl (fun s cid => s.stalemate cid) (s.setCtx ctx { x with idleSince := none }))
    | none => .next (s.setCtx ctx { x with idleSince := some (now, issued s ctx) })

end Sys2Proof.Machine
end

