-- ==== Sys2Proof/Machine/Grans.lean ====
section
/-! DEFINITION. The operand store: granules, runs and what fits where (05 R98-R115). -/
namespace Sys2Proof.Machine

/-! ### Records (02 R29) -/

/-- Bits of word i of a launch record. -/
def rf (r : List DWord) (i lo n : Nat) : Nat := bits (r.getD i 0) lo n
/-- GX, GY, GZ. -/
def rGrid (r : List DWord) : Nat × Nat × Nat := (rf r 4 0 32, rf r 4 32 16, rf r 4 48 16)
/-- Blocks of a cluster in X, Y, Z. -/
def rClus (r : List DWord) : Nat × Nat × Nat := (rf r 5 39 4 + 1, rf r 5 43 4 + 1, rf r 5 47 4 + 1)
/-- Threads of a block. -/
def rThreads (r : List DWord) : Nat := rf r 5 0 13 * rf r 5 13 13 * rf r 5 26 13
/-- Lanes of a cohort by W's code. -/
def widthOf (code : Nat) : Nat := 16 * 2 ^ code
/-- Registers per lane by NREG's code. -/
def nregOf (code : Nat) : Nat := 8 * (code + 1)
def rWidth (r : List DWord) : Nat := widthOf (rf r 5 51 2)
def rNreg (r : List DWord) : Nat := nregOf (rf r 5 53 5)
def rPrio (r : List DWord) : Nat := rf r 5 60 3
def rGang (r : List DWord) : Bool := rf r 5 63 1 == 1
def rCtx (r : List DWord) : Nat := rf r 6 48 16
def rScr (r : List DWord) : Nat := rf r 6 0 25
/-- Blocks of a cluster, and clusters of a grid (R91). -/
def clusSize (r : List DWord) : Nat := (rClus r).1 * (rClus r).2.1 * (rClus r).2.2
def clusCount (r : List DWord) : Nat :=
  (rGrid r).1 / (rClus r).1 * ((rGrid r).2.1 / (rClus r).2.1 * ((rGrid r).2.2 / (rClus r).2.2))
/-- The block linear index of block j of cluster k (02 R25, 04 R91). -/
def blockIndex (r : List DWord) (k j : Nat) : Nat :=
  let g := rGrid r
  let c := rClus r
  let nx := g.1 / c.1
  let ny := g.2.1 / c.2.1
  let bx := k % nx * c.1 + j % c.1
  let by' := k / nx % ny * c.2.1 + j / c.1 % c.2.1
  let bz := k / nx / ny * c.2.2 + j / c.1 / c.2.1
  bx + g.1 * (by' + g.2.1 * bz)

/-! ### Sorting -/

/-- An element put in its place by a key. -/
def insBy {α : Type} (key : α → Nat) (a : α) : List α → List α
  | [] => [a]
  | b :: t => if key a < key b then a :: b :: t else b :: insBy key a t
/-- A list in ascending order of a key, equal ones as they stood. -/
def sortBy {α : Type} (key : α → Nat) (l : List α) : List α :=
  ((l.map fun a => (key a, a)).foldl (fun acc a => insBy (·.1) a acc) []).map (·.2)

/-! ### Free runs (05 R98-R100) -/

/-- Granules in use on a core, as runs: start and length. -/
abbrev Occ := List (Nat × Nat)

/-- `n` granules from `a` are free. -/
def runFree (occ : Occ) (a n : Nat) : Bool := occ.all fun r => a + n ≤ r.1 || r.1 + r.2 ≤ a
/-- The first run from granule 0 upward that crosses no bay: it starts at a bay's start or right after a run in use. -/
def fitLow (occ : Occ) (limit n : Nat) : Option Nat :=
  let starts := (List.range 96).map (64 * ·) ++ occ.map fun r => r.1 + r.2
  minBy id (starts.filter fun a => a + n ≤ limit && a % 64 + n ≤ 64 && runFree occ a n)
/-- The first run from the highest allocatable granule downward: it ends there or right before a run in use. -/
def fitHigh (occ : Occ) (limit n : Nat) : Option Nat :=
  let starts := (limit - n) :: occ.filterMap fun r => if n ≤ r.1 then some (r.1 - n) else none
  (minBy (limit - ·) (starts.filter fun a => a + n ≤ limit && runFree occ a n))

/-- What a part of a block needs on its core: state granules, a register block per cohort, scratch granules, and those of them that have lapsed,
whose space is not allocated (R120). -/
structure PartNeed where
  area : Nat
  regs : List Nat
  scr : Nat
  dead : List Nat
  deriving DecidableEq, Repr

/-- The granules of a part. -/
def PartNeed.total (p : PartNeed) : Nat := p.area + p.regs.sum + (p.scr - p.dead.length)

/-- The first place from the highest allocatable granule downward where a scratch run's granules that have not lapsed are free. -/
def fitHoles (occ : Occ) (limit n : Nat) (dead : List Nat) : Option Nat :=
  let live := (List.range n).filter fun i => !dead.contains i
  ((List.range (limit + 1 - n)).reverse).find? fun a => live.all fun i => runFree occ (a + i) 1
/-- Scratch of a part. -/
def fitScr (occ : Occ) (limit : Nat) (p : PartNeed) : Option Nat :=
  if limit < p.scr then none else if p.dead.isEmpty then fitHigh occ limit p.scr else fitHoles occ limit p.scr p.dead

/-- The allocations of a part in the order of R100: state areas, register blocks, scratch. -/
def fitPart (occ : Occ) (limit : Nat) (p : PartNeed) : Option (Nat × List Nat × Option Nat) :=
  match fitLow occ limit p.area with
  | none => none
  | some a =>
    let r := p.regs.foldl (fun (acc : Option (Occ × List Nat)) n =>
      match acc with
      | none => none
      | some (occ, l) => (fitLow occ limit n).map fun x => (occ ++ [(x, n)], l ++ [x])) (some (occ ++ [(a, p.area)], []))
    match r with
    | none => none
    | some (occ, l) =>
      if p.scr == 0 then some (a, l, none) else (fitScr occ limit p).map fun x => (a, l, some x)

/-! ### What a core holds -/

/-- The runs a block holds on a core, lapsed scratch granules apart (05 R118). -/
def blkRuns (b : Blk) (core : Nat) : Occ :=
  ((b.areas ++ b.regs).filter (·.core == core)).map (fun r => (r.start, r.len)) ++
  match b.scratch with
  | some r =>
    if r.core != core then []
    else if b.lapsed.isEmpty then [(r.start, r.len)]
    else ((List.range r.len).filter fun i => !b.lapsed.contains i).map fun i => (r.start + i, 1)
  | none => []
/-- The runs in use on a core: those of its blocks, those self-test holds (22 R439), those kept for another's slice (20 R415). -/
def coreOcc (s : State) (core : Nat) (g : Option Nat) : Occ :=
  (s.blks.flatMap fun x => if x.2.used then blkRuns x.2 core else []) ++
  (s.cohorts.flatMap fun p => if coreOf p.1 == core then (p.2.bist.map (·.held)).getD [] else []) ++
  (s.grids.flatMap fun p => if some p.1 == g || !p.2.active then [] else
    p.2.slices.flatMap fun x => (x.freed.filter (·.core == core)).map fun r => (r.start, r.len))
/-- Granules a context holds on a core (05 R107). -/
def ctxUse (s : State) (core ctx : Nat) : Nat :=
  (s.blks.map fun x => if x.2.used && x.2.ctx == ctx then ((blkRuns x.2 core).map (·.2)).sum else 0).sum
/-- Granules allocated on a core (05 R109). -/
def coreLoad (s : State) (core : Nat) : Nat :=
  (s.blks.map fun x => if x.2.used then ((blkRuns x.2 core).map (·.2)).sum else 0).sum
/-- Allocatable granules of a core not in use (05 R112). -/
def freeGrans (s : State) (core limit : Nat) (g : Option Nat) : Nat := limit - ((coreOcc s core g).map (·.2)).sum
/-- Cohort slots of a core that are free, lowest first (05 R102). -/
def freeSlots (s : State) (core : Nat) : List Nat :=
  let taken := s.cohorts.filterMap fun p =>
    if coreOf p.1 == core && p.2.kind != .vacant then some (p.1 % slotsPerCore) else none
  (List.range slotsPerCore).filter fun i => !taken.contains i
/-- Allocatable granules of a core with an LCB (05 R99). -/
def allocatable (lcb : Nat) : Nat := 6144 - 64 * lcb

/-! ### Quotas (05 R106) -/

/-- The quota entry that governs a context on a die. -/
def quotaEntry (s : State) (die ctx : Nat) : Option DWord :=
  (List.range 256).findSome? fun i =>
    let e := tget 0 (s.die die).dqent i
    if e.getLsbD 44 && bits e 48 16 == ctx then some e else none
/-- The per-core quota of a context, at most the allocatable count. -/
def quotaOf (s : State) (die ctx limit : Nat) : Nat :=
  match quotaEntry s die ctx with
  | some e => min (bits e 0 13) limit
  | none => limit
/-- Relocation is enabled for a context on a die. -/
def relOf (s : State) (die ctx : Nat) : Bool := (quotaEntry s die ctx).any (·.getLsbD 45)

/-! ### Shapes of blocks (05 R100, R108) -/

/-- What decides the shape of a block: cohorts, granules of a register block, scratch granules. -/
structure Shape where
  coh : Nat
  reg : Nat
  scr : Nat
  deriving DecidableEq, Repr

/-- A quotient rounded up. -/
def ceilDiv (a b : Nat) : Nat := (a + b - 1) / b
/-- The shape of a grid's blocks. -/
def shapeOf (r : List DWord) : Shape :=
  ⟨ceilDiv (rThreads r) (rWidth r), ceilDiv (rNreg r * rWidth r) 1024, ceilDiv (rScr r) 4096⟩
/-- The cohorts of part p of k. -/
def partCohorts (sh : Shape) (k p : Nat) : List Nat := (List.range sh.coh).filter fun c => c * k / sh.coh == p
/-- The needs of each of k parts. -/
def partNeeds (sh : Shape) (k : Nat) : List PartNeed :=
  (List.range k).map fun p =>
    let n := (partCohorts sh k p).length
    ⟨ceilDiv n 4, List.replicate n sh.reg, if p == 0 then sh.scr else 0, []⟩
/-- The granules of a block in k parts. -/
def blockGrans (sh : Shape) (k : Nat) : Nat := ((partNeeds sh k).map (·.total)).sum
/-- A part fits on an empty core. -/
def partFitsEmpty (quota limit : Nat) (p : PartNeed) : Bool :=
  p.total ≤ quota && p.regs.length ≤ slotsPerCore && (fitPart [] limit p).isSome
/-- The span: the smallest k of 1 to 4 for which every part fits on an empty core (R108). -/
def spanOf (sh : Shape) (quota limit : Nat) : Option Nat :=
  [1, 2, 3, 4].find? fun k => (partNeeds sh k).all (partFitsEmpty quota limit)

/-! ### How many clusters an empty die holds (05 R115) -/

/-- A core as R115 fills it: its runs, granules in use, cohorts. -/
structure EmptyCore where
  core : Nat
  occ : Occ
  load : Nat
  coh : Nat
  deriving DecidableEq, Repr

/-- A part put on a core of a die that holds nothing else, where it fits. -/
def putPart (quota limit : Nat) (c : EmptyCore) (p : PartNeed) : Option EmptyCore :=
  if quota < c.load + p.total || slotsPerCore < c.coh + p.regs.length then none
  else
    (fitPart c.occ limit p).map fun x =>
      ⟨c.core, c.occ ++ [(x.1, p.area)] ++ (x.2.1.zip p.regs) ++ (match x.2.2 with | some a => [(a, p.scr)] | none => []),
        c.load + p.total, c.coh + p.regs.length⟩
/-- The cores of one quad in the order of R109. -/
def quadCores {α : Type} (load core : α → Nat) (cs : List α) (q k : Nat) : List α :=
  (sortBy (fun c => load c * 1024 + core c) (cs.filter fun c => core c / 4 == q)).take k
/-- The groups of cores R109 tries in order: single cores, or quads by the k least-loaded cores of each. -/
def tryOrder {α : Type} (load core : α → Nat) (cs : List α) (k : Nat) : List (List α) :=
  if k == 1 then (sortBy (fun c => load c * 1024 + core c) cs).map fun c => [c]
  else
    let quads := (List.range 22).map (quadCores load core cs · k)
    sortBy (fun l => (l.map load).sum) (quads.filter (·.length == k))
/-- A block put on a die that R115 fills. -/
def putBlock (quota limit : Nat) (needs : List PartNeed) (cs : List EmptyCore) : Option (List EmptyCore) :=
  (tryOrder (·.load) (·.core) cs needs.length).findSome? fun g =>
    let l := (g.zip needs).map fun p => putPart quota limit p.1 p.2
    if l.all (·.isSome) then
      let l := l.filterMap id
      some (cs.map fun c => (l.find? (·.core == c.core)).getD c)
    else none
/-- A cluster of n blocks put on it. -/
def putCluster (quota limit : Nat) (needs : List PartNeed) : Nat → List EmptyCore → Option (List EmptyCore)
  | 0, cs => some cs
  | n + 1, cs => (putBlock quota limit needs cs).bind (putCluster quota limit needs n)
/-- Clusters placed before the first that does not fit, at most `fuel`. -/
def capFrom (quota limit : Nat) (needs : List PartNeed) (n : Nat) : Nat → List EmptyCore → Nat
  | 0, _ => 0
  | fuel + 1, cs =>
    match putCluster quota limit needs n cs with
    | some cs => capFrom quota limit needs n fuel cs + 1
    | none => 0
/-- cap(d) of a record, capped at its number of clusters (04 R91, 05 R115); a die held in reset holds none (DESIGN CHOICE, log entry 12). -/
def capOf (s : State) (r : List DWord) (d : Nat) : Nat :=
  if (s.die d).stopped then 0 else
  let limit := allocatable (s.die d).lcb.toNat
  let quota := quotaOf s d (rCtx r) limit
  let sh := shapeOf r
  match spanOf sh quota limit with
  | none => 0
  | some k =>
    capFrom quota limit (partNeeds sh k) (clusSize r) (clusCount r)
      ((List.range coresPerDie).map fun c => ⟨c, [], 0, 0⟩)

end Sys2Proof.Machine
end

