-- ==== Sys2Proof/Machine/Launch.lean ====
section
/-! DEFINITION. Launch queues, the checks and waits of records, dispatch and completion (02 R28-R41, 04 R76-R97, 09 R203). -/
namespace Sys2Proof.Machine

/-! ### Accesses of the services in a context: never parking (04 R81, R86) -/

/-- The core number that stands for a service: no translation cache is its. -/
def serviceCore : Nat := 0x10000
/-- A service's translation of a global address of a context. -/
def svcTr (s : State) (ctx : Nat) (a : DWord) (k : Acc) : Tr := translateG s serviceCore ctx a k
/-- An entry of the page table that a service's walk to an address could not read is recorded (13 R461). -/
def State.noteSvc (s : State) (ctx : Nat) (a : DWord) : State :=
  match walkBad s ctx a.toNat with | some e => s.mcRecord ctx 1 10 12 0 (dw e) | none => s
/-- The 8-byte word of a context a service reads; none where the read faults or returns poison. -/
def svcWord (s : State) (ctx : Nat) (a : DWord) : Option DWord :=
  match svcTr s ctx a .read with
  | .ok k _ => if s.poisoned (lineOf k) || unitDown s k then none else some (s.word k)
  | _ => none
/-- `n` words from an address. -/
def svcWords (s : State) (ctx : Nat) (a : DWord) : Nat → Option (List DWord)
  | 0 => some []
  | n + 1 =>
    match svcWord s ctx a, svcWords s ctx (a + 8) n with
    | some w, some l => some (w :: l)
    | _, _ => none
/-- Words written from an address, all or none; none where a page does not translate or is not writable. -/
def State.svcWrite (s : State) (ctx : Nat) (a : DWord) (l : List DWord) : Option State :=
  let ks := (List.range l.length).map fun i => match svcTr s ctx (a + dw (8 * i)) .write with
    | .ok k _ => if unitDown s k then none else some k
    | _ => none
  if ks.all (·.isSome) then some (((ks.filterMap id).zip l).foldl (fun s p => s.putWord p.1 p.2) s) else none

/-! ### Queues and their descriptors (R76-R79) -/

def State.queue (s : State) (q : Nat) : Queue := tget Queue.zero s.queues q
def State.setQueue (s : State) (q : Nat) (x : Queue) : State := { s with queues := tput Queue.zero s.queues q x }
/-- The address of descriptor q. -/
def queueDesc (s : State) (q : Nat) : Nat := bits s.qtbase 16 48 * 65536 + 64 * q
/-- Bits of control word i as last read. -/
def qf (x : Queue) (i lo n : Nat) : Nat := bits (x.ctl.getD i 0) lo n
def qEn (x : Queue) : Bool := qf x 1 0 1 == 1
def qAppend (x : Queue) : Bool := qf x 1 1 1 == 1
def qSer (x : Queue) : Bool := qf x 1 2 1 == 1
def qCtx (x : Queue) : Nat := qf x 1 48 16
def qVec (x : Queue) : Nat := qf x 1 16 11
def qSlots (x : Queue) : Nat := 2 ^ qf x 0 0 5
def qWidx (x : Queue) : DWord := x.ctl.getD 2 0
def qRidx (x : Queue) : DWord := x.ctl.getD 3 0
def qHalted (x : Queue) : Bool := qf x 4 8 1 == 1
/-- Records between the indexes: WIDX - RIDX, none while RIDX stands past WIDX (R83, R85). -/
def qCount (x : Queue) : Nat := (qWidx x).toNat - (qRidx x).toNat
/-- The address of slot i, in the space of QCTX. -/
def slotAddr (x : Queue) (i : DWord) : DWord := dw (qf x 0 12 52 * 4096 + 256 * (i.toNat % qSlots x))
/-- A control word of the view replaced. -/
def Queue.put (x : Queue) (i : Nat) (v : DWord) : Queue := { x with ctl := x.ctl.set i v }
/-- The queue may be used: the table is valid and the view is of an enabled queue that is not halted. -/
def queueOn (s : State) (x : Queue) : Bool := s.qtbase.getLsbD 0 && x.known && qEn x && !qHalted x

/-- A well-formed descriptor (R77, R78). -/
def queueDescOk (w : List DWord) : Bool :=
  let f (i lo n : Nat) := bits (w.getD i 0) lo n
  4 ≤ f 0 0 5 && f 0 0 5 ≤ 16 && f 0 5 7 == 0 && f 1 27 21 == 0 && f 1 7 9 == 0 && f 4 25 39 == 0 && f 6 0 64 == 0 && f 7 0 64 == 0

/-- A control word written in memory and in the view. -/
def State.putCtl (s : State) (q i : Nat) (v : DWord) : State :=
  (s.setSysWord (queueDesc s q + 8 * i) v).setQueue q ((s.queue q).put i v)

/-- ERR and ERRIDX set; a halting error sets HALTED and gives up the head; MSI-X vector VEC is sent when EN = 1 (R84). -/
def State.queueError (s : State) (q err : Nat) (idx : DWord) (halt : Bool) : State :=
  let x := s.queue q
  let w := setBits (x.ctl.getD 4 0) 0 8 err
  let s := (s.putCtl q 4 (if halt then setBits w 8 1 1 else w)).putCtl q 5 idx
  let x := s.queue q
  let s := if halt then s.setQueue q { x with head := none, latched := [], readyAt := none, aged := 0, waitReq := [] } else s
  if qEn x then s.emit (.msix (qVec x)) else s

/-- A token orders all that another does: of one die and epoch, each mark as high. -/
def Token.covers (t u : Token) : Bool :=
  t.src == u.src && t.epoch == u.epoch &&
  u.marks.all fun m => t.marks.any fun n => n.1 == m.1 && n.2.1 == m.2.1 && reached (BitVec.ofNat 32 n.2.2) (BitVec.ofNat 32 m.2.2)
/-- The tokens of a value read as an acquire join those a queue unit has taken up. -/
def addToks (l ts : List Token) : List Token :=
  ts.foldl (fun l t => if l.any (Token.covers · t) then l else l.filter (fun u => !Token.covers t u) ++ [t]) l

/-- The tokens kept with the 8 bytes from a key. -/
def wordToks (s : State) (key : Nat) : List Token := toksOf s.tokens ((List.range 8).map (key + ·))

/-- The queue unit reads a queue's control words (R78, R80): an invalid descriptor and a ring overrun halt it; WIDX is read as an
acquire. A queue that is disabled or halted gives up its head; disabling forgets the record SER looks at. An invalid descriptor of a queue that is
halted already is not reported again, for R85 names the only writes to a halted queue's word (DEDUCED, log entry 8). -/
def State.readQueue (s : State) (q : Nat) : State :=
  let a := queueDesc s q
  let old := s.queue q
  let ok := (List.range 8).all fun i => sysOk s (a + 8 * i)
  let w := (List.range 8).map fun i => sysWord s (a + 8 * i)
  if !ok then
    let s := s.mcRecord 0 1 10 12 q (dw a)
    if old.known && qHalted old then s else s.queueError q 7 (qRidx old) true
  else
    let x := { old with ctl := w, known := true, toks := addToks old.toks (wordToks s (sysKey s (a + 16))) }
    let x := if qEn x && !qHalted x && qRidx x == qRidx old then x
      else { x with head := none, latched := [], readyAt := none, aged := 0, waitReq := [] }
    let x := if qEn x && qEn old then x else { x with last := none }
    let s := s.setQueue q x
    if !queueDescOk w then (if qHalted x then s else s.queueError q 7 (qRidx x) true)
    else if qEn x && !qAppend x && !qHalted x && qSlots x < qCount x then s.queueError q 4 (qRidx x) true
    else s

/-- QUEUE_DOORBELL of an I/O die (R79, R80, R85). -/
def execQueueDoorbell (x : PortWrite) (s : State) : Host.Outcome State Fault Refusal :=
  inService s <|
  let v := x.v
  let s := { s with qdoorbell := tput 0 s.qdoorbell x.io (v &&& 0x3FF) }
  .next (if s.qtbase.getLsbD 0 then s.readQueue (bits v 0 10) else s)

/-- RING_POLL: the unit reads an enabled ring-mode queue that it does not hold to be halted (R80, R85). -/
def execRingPoll (q : Nat) (s : State) : Host.Outcome State Fault Refusal :=
  let x := s.queue q
  let w := sysWord s (queueDesc s q + 8)
  .next (if 1024 ≤ q || !s.qtbase.getLsbD 0 || (x.known && qHalted x) || !(w.getLsbD 0 && !w.getLsbD 1) then s
    else s.readQueue q)

/-- An append drops a record: DROPS counts it, at most 0xFFFF (R77, R81). -/
def State.dropAppend (s : State) (q : Nat) : State :=
  let w := (s.queue q).ctl.getD 4 0
  s.putCtl q 4 (setBits w 9 16 (min 0xFFFF (bits w 9 16 + 1)))

/-- An append to a queue (R81, R82): the status `launch` reports; `from'` the launching die and context, none for a QAPPEND write. While QTBASE is not
valid there is no queue and no QCTX: status 2, and a QAPPEND write or doorbell does nothing (DESIGN CHOICE, log entry 7). -/
def State.append (s : State) (q : Nat) (addr : DWord) (from' : Option (Nat × Nat)) : Nat × State :=
  if !s.qtbase.getLsbD 0 then (2, s)
  else
    let s := s.readQueue q
    let x := s.queue q
    let drop (st : Nat) : Nat × State := (st, if from'.isNone then s.dropAppend q else s)
    if from'.any fun p => p.2 != qCtx x then (3, s)
    else if !qEn x || !qAppend x || qHalted x then drop 2
    else if qSlots x ≤ qCount x then drop 1
    else
      match svcWords s (qCtx x) addr 32 with
      | none => (4, if from'.isNone then s.queueError q 3 (qWidx x) true else s)
      | some r =>
        match s.svcWrite (qCtx x) (slotAddr x (qWidx x)) r with
        | none => (4, s.queueError q 3 (qWidx x) true)
        | some t =>
          let t := match from' with
            | some p =>
              let y := t.queue q
              t.setQueue q { y with toks := addToks y.toks [tokenOf t p.1], srcDie := tput 12 y.srcDie (qWidx x).toNat p.1 }
            | none => t
          (0, t.putCtl q 2 (qWidx x + 1))

/-- QUEUE_APPEND through an I/O die (R79, R81). -/
def execQueueAppend (q : Nat) (x : PortWrite) (s : State) : Host.Outcome State Fault Refusal :=
  inService s <|
  if 1024 ≤ q then .next s
  else
    let a := (x.v >>> 8) <<< 8
    .next (State.append { s with qappend := tput 0 s.qappend (1024 * x.io + q) a } q a none).2

/-- The scope of `launch`'s release (R82): system where a page of the record or of the ring is no package page. -/
def launchScope (s : State) (q : Nat) (addr : DWord) : Nat :=
  let pkg (ctx : Nat) (a : DWord) : Bool := match svcTr s ctx a .read with
    | .ok k _ => !(isHost k || isPeer k)
    | _ => false
  let x := s.queue q
  let ring := (List.range (ceilDiv (256 * qSlots x) 4096)).all fun i => pkg (qCtx x) (dw (qf x 0 12 52 * 4096 + 4096 * i))
  if pkg s.me.ctx addr && ring then 4 else 5

/-- LAUNCH: the checks, a release, the append and its status (R203, R81, R82). -/
def execLaunch (o : G3) (s : State) : Host.Outcome State Fault Refusal :=
  let q := sreg s.me o.va
  let a := sreg s.me o.vb
  op (.launch o) s
    (if 1023 < q.toNat then .trap .illegal q s
     else if a.toNat % 256 != 0 then .trap .align a s
     else releaseOp s (launchScope s q.toNat a) fun s =>
       let p := s.append q.toNat a (some (dieOf s.cur.cid, s.me.ctx))
       .done (p.2.setS o.vd.toNat (dw p.1)))

/-! ### Head records and their waits (R83-R87) -/

/-- The checks of R31. -/
def recordOk (r : List DWord) : Bool :=
  let g := rGrid r
  let c := rClus r
  let dim (n : Nat) : Bool := 0 < n && n ≤ 4096
  let scope (n : Nat) : Bool := 3 ≤ n && n ≤ 5
  rf r 0 0 3 == 0 && rf r 6 29 3 == 0 && rf r 14 0 6 == 0 && rf r 15 0 64 == 0 &&
  0 < g.1 && 0 < g.2.1 && 0 < g.2.2 && dim (rf r 5 0 13) && dim (rf r 5 13 13) && dim (rf r 5 26 13) && rThreads r ≤ 4096 &&
  clusSize r ≤ 16 && g.1 % c.1 == 0 && g.2.1 % c.2.1 == 0 && g.2.2 % c.2.2 == 0 &&
  rf r 5 51 2 != 3 && rf r 5 58 2 != 3 && rf r 6 25 3 < 4 && rScr r ≤ 16777216 &&
  (rf r 2 3 61 == 0 || scope (rf r 2 0 3)) &&
  (List.range 4).all (fun i => rf r (8 + i) 3 61 == 0 || scope (rf r (8 + i) 0 3)) &&
  (rf r 5 58 2 != 2 || rf r 7 0 64 != 0)

/-- The address of wait word i; 0 where the wait is unused. -/
def waitAddr (r : List DWord) (i : Nat) : DWord := dw (rf r (8 + i) 3 61 * 8)
/-- WVALi. -/
def waitVal (r : List DWord) (i : Nat) : Word := BitVec.ofNat 32 (rf r (12 + i / 2) (32 * (i % 2)) 32)

/-- The home die of the page that holds PARAM, as home-follow uses it (02 R41). -/
def paramDie (s : State) (r : List DWord) : Option Nat :=
  let a := r.getD 1 0
  if a == 0 then none
  else match svcTr s (rCtx r) a .read with
    | .ok k _ => if isHbm k then some (homeDie k) else none
    | _ => none

/-- The head becomes ready once all its used waits have latched and SER's record has completed (R86): the unit notes the time, and where PARAM's page
stands (02 R41). -/
def State.tryReady (s : State) (q : Nat) : State :=
  let x := s.queue q
  if x.head.isSome && x.readyAt.isNone && x.latched.all id && (!qSer x || x.last.isNone) then
    s.setQueue q { x with readyAt := some s.ioCyc, aged := 0, pdie := paramDie s (x.head.getD []) }
  else s

/-- Wait i of the head is evaluated (R86): latched when satisfied, with its token taken up; a page that is not present is asked for
once; a fault or poison fails the record. -/
def State.evalWait (s : State) (q i : Nat) : State :=
  let x := s.queue q
  match x.head with
  | none => s
  | some r =>
    if x.latched.getD i true then s
    else
      let a := waitAddr r i
      match svcTr s (rCtx r) a .read with
      | .ok k _ =>
        if s.poisoned (lineOf k) || unitDown s k then s.queueError q 3 (qRidx x) true
        else if reached (BitVec.ofNat 32 (s.word k).toNat) (waitVal r i) then
          (s.setQueue q { x with latched := x.latched.set i true, toks := addToks x.toks (wordToks s k) }).tryReady q
        else s
      | .park =>
        if (x.waitReq.getD i none).isSome then s
        else
          let p := s.pageRequest (rCtx r) a false 12
          p.2.setQueue q { x with waitReq := x.waitReq.set i (some p.1) }
      | _ => (s.noteSvc (rCtx r) a).queueError q 3 (qRidx x) true

/-- HEAD_RECORD_READ: the record at RIDX becomes the head: it is read and checked, and its waits evaluated (R83, R84, R86). While the
context table is not in use nothing is read (20 R400). -/
def execHeadRecordRead (q : Nat) (s : State) : Host.Outcome State Fault Refusal :=
  let x := s.queue q
  if !queueOn s x || x.head.isSome || qCount x == 0 || !s.ctxtbase.getLsbD 0 || (s.ctx (qCtx x)).torn then .next s
  else if !ctxValid s (qCtx x) then
    .next ((if (List.range 8).all fun i => sysOk s (ctxEntryAddr s (qCtx x) + 8 * i) then s
      else s.mcRecord (qCtx x) 1 10 12 q (dw (ctxEntryAddr s (qCtx x)))).queueError q 2 (qRidx x) true)
  else
    match svcWords s (qCtx x) (slotAddr x (qRidx x)) 32 with
    | none => .next (s.queueError q 3 (qRidx x) true)
    | some r =>
      if !recordOk r then .next (s.queueError q 1 (qRidx x) true)
      else if rCtx r != qCtx x then .next (s.queueError q 2 (qRidx x) true)
      else
        let s := s.setQueue q { x with
          head := some r, latched := (List.range 4).map fun i => waitAddr r i == 0,
          waitReq := [none, none, none, none] }
        .next (((List.range 4).foldl (fun s i => s.evalWait q i) s).tryReady q)

/-- WAIT_WORD_EVAL: a wait word in package memory is evaluated again (R86). -/
def execWaitWordEval (q i : Nat) (s : State) : Host.Outcome State Fault Refusal :=
  .next (if i < 4 then (s.evalWait q i).tryReady q else s)

/-- WAIT_WORD_POLL: a wait word in host or peer memory is read again (R86). -/
def execWaitWordPoll (q i : Nat) (s : State) : Host.Outcome State Fault Refusal :=
  .next (match (s.queue q).head with
    | some r =>
      match svcTr s (rCtx r) (waitAddr r i) .read with
      | .ok k _ => if i < 4 && (isHost k || isPeer k) then (s.evalWait q i).tryReady q else s
      | _ => s
    | none => s)

/-! ### Arbitration (R88) -/

/-- 4,096 I/O cycles in the units of `ioCyc`. -/
def agingStep : Nat := 4096 * 16
/-- The full 4,096 I/O cycles a ready record has waited are counted. -/
def State.ageQueue (s : State) (q : Nat) : State :=
  let x := s.queue q
  match x.readyAt with
  | some t => s.setQueue q { x with aged := (s.ioCyc - t) / agingStep }
  | none => s
/-- PRIORITY_AGING (R88). -/
def execPriorityAging (q : Nat) (s : State) : Host.Outcome State Fault Refusal := .next (s.ageQueue q)

/-- The effective priority of a ready record. -/
def effPrio (x : Queue) : Nat := min 7 (min (rPrio (x.head.getD [])) (qf x 1 4 3) + x.aged)
/-- The order of R88: priority, time of becoming ready, queue number. The lower queues are I/O die 0's, so one order serves both
units and the tie between them. -/
def arbKey (s : State) (q : Nat) : Nat :=
  let x := s.queue q
  (7 - effPrio x) * 2 ^ 128 + x.readyAt.getD 0 * 2 ^ 16 + q

/-- The context is saved or being saved (20 R412), or torn down (R409): nothing of it is dispatched or placed. -/
def ctxStopped (s : State) (ctx : Nat) : Bool := (s.ctx ctx).image.isSome || (s.ctx ctx).torn

/-- The record the grid scheduler takes. -/
def candidate (s : State) : Option Nat :=
  minBy (arbKey s) ((tkeys s.queues).filter fun q =>
    queueOn s (s.queue q) && (s.queue q).readyAt.isSome && !ctxStopped s (rCtx ((s.queue q).head.getD [])))

/-! ### Die slices (R91, R92) -/

/-- Blocks of a die that are placed and not retired. -/
def blocksOn (s : State) (d : Nat) : Nat := (s.blks.filter fun p => p.2.used && p.2.die == d).length

/-- The dies a record uses, in ascending number, and whether none of them holds a cluster (R91): `src` is the launching die, `pdie` PARAM's. -/
def chosenDies (s : State) (r : List DWord) (q : Nat) (src pdie : Option Nat) : Option (List Nat) :=
  let all := List.range 12
  let n := clusCount r
  let caps (ds : List Nat) : Nat := ((minBy id (ds.map (capOf s r)))).getD 0
  let one (d : Nat) : Option (List Nat) := if caps [d] == 0 then none else some [d]
  let balanced : Option (List Nat) := if caps all == 0 then none else some all
  match rf r 6 25 3 with
  | 0 => balanced
  | 1 =>
    let cap := caps all
    if cap == 0 then none
    else some (sortBy id ((sortBy (fun d => blocksOn s d * 16 + d) all).take (min 12 (ceilDiv n cap))))
  | 2 => one (src.getD (if q < 512 then 0 else 5))
  | _ => match pdie with | some d => one d | none => balanced

/-- The clusters of the j-th of D dies: ⌊j·N/D⌋ to ⌊(j+1)·N/D⌋ - 1. -/
def rangeOf (n dn j : Nat) : Nat × Nat := (j * n / dn, (j + 1) * n / dn)

/-- A slice nothing of which is placed. -/
def Slice.fresh (d lo hi : Nat) : Slice :=
  { die := d, next := lo, stop := hi, redo := [], since := none, stalled := false, reserved := false, freed := [], tables := none,
    span := none,
    bar := { sc := 0, byteMode := false, all := true, exp := 0, got := 0, arr := [], ph := 0, abt := false, abta := 0 } }

/-- The slices of a record on its dies; a die that receives no cluster holds none. -/
def slicesOf (r : List DWord) (ds : List Nat) : List Slice :=
  let n := clusCount r
  ((List.range ds.length).map fun j => Slice.fresh (ds.getD j 0) (rangeOf n ds.length j).1 (rangeOf n ds.length j).2).filter
    fun x => x.next < x.stop

/-- Context registers at their reset values, for a context whose entry has been written since they last started (20 R403). -/
def State.startCtx (s : State) (c : Nat) : State :=
  let x := s.ctx c
  let w := [0, 1, 2, 3, 4, 7].map (ctxWord s c)
  if x.started && x.entry == w then s
  else s.setCtx c { x with
    started := true, entry := w, traphdr := 0, tskfmt := 0, wdogcfg := Ctx.reset.wdogcfg, wdogxw := 0, acctmode := 0, fred := [] }

/-- The code buffers of every core on a die that receives a slice are invalidated: it acquires at die scope or wider (06 R129). -/
def State.acquireDies (s : State) (ds : List Nat) : State := { s with code := s.code.filter fun e => !ds.contains (dieOfCore e.core) }

/-- GRID_DISPATCH: the best candidate becomes an active grid, or fails where no die can hold its clusters; RIDX advances (R83, R84, R87-R92).
While 1,024 grids are active or the context table is not in use, nothing is dispatched. Under die-gang each slice is held against its own die,
empty (DESIGN CHOICE, log entry 9: R92's "no empty die"). -/
def execGridDispatch (s : State) : Host.Outcome State Fault Refusal :=
  let s := (tkeys s.queues).foldl (fun s q => s.ageQueue q) s
  if 1024 ≤ (s.grids.filter (·.2.active)).length || !s.ctxtbase.getLsbD 0 then .next s
  else match candidate s with
    | none => .next s
    | some q =>
      let x := s.queue q
      let r := x.head.getD []
      let src := match tget 12 x.srcDie (qRidx x).toNat with | 12 => none | d => some d
      if !ctxValid s (rCtx r) then .next (s.queueError q 2 (qRidx x) true)
      else match chosenDies s r q src x.pdie with
        | none => .next (s.queueError q 5 (qRidx x) true)
        | some ds =>
          let sl := slicesOf r ds
          if rGang r && sl.any (fun z => capOf s r z.die < z.stop - z.next) then .next (s.queueError q 5 (qRidx x) true)
          else
            let g := s.next + 1
            let s := { s with next := g + 1 }.startCtx (rCtx r)
            let s := s.setGrid g { Grid.none with
              active := true, rcd := r, q := q, idx := qRidx x, order := g, slices := sl, gang := rGang r,
              left := clusCount r * clusSize r, toks := x.toks, sentAt := s.ptime }
            let s := (s.putCtl q 3 (qRidx x + 1)).acquireDies (sl.map (·.die))
            let y := s.queue q
            .next (s.setQueue q { y with
              head := none, latched := [], readyAt := none, aged := 0, waitReq := [], last := some g, pdie := none,
              srcDie := tput 12 y.srcDie (qRidx x).toNat 12 })

/-! ### Completion (R93-R95) -/

/-- The tokens of a grid's release (R94, 15 R308): of every die that held a slice, and of I/O die 0. -/
def gridToks (s : State) (g : Grid) : List Token := ((g.slices.map fun (x : Slice) => x.die) ++ [12]).map (tokenOf s · true)

/-- A grid is no longer active: its queue's serial wait on it ends when it has completed, with the tokens of its release (R97). -/
def State.endGrid (s : State) (g : Nat) (completed : Bool) : State :=
  let x := s.grid g
  let s := s.setGrid g Grid.none
  let y := s.queue x.q
  if completed && y.last == some g then
    (s.setQueue x.q { y with last := none, toks := if qSer y then addToks y.toks (gridToks s x) else y.toks }).tryReady x.q
  else s

/-- A lost completion store: ERR 0x06, ERRIDX and the interrupt, and the record counts as completed (R95). The word is written whole; a unit that
holds the queue to be halted goes on so, whatever the word says (R85). -/
def State.loseStore (s : State) (g : Nat) : State :=
  let x := s.grid g
  let a := queueDesc s x.q + 32
  let old := s.queue x.q
  let s := if sysOk s a then s.setQueue x.q (old.put 4 (sysWord s a)) else s
  let s := s.queueError x.q 6 x.idx false
  let y := s.queue x.q
  let s := if qHalted old then s.setQueue x.q (y.put 4 (setBits (y.ctl.getD 4 0) 8 1 1)) else s
  s.endGrid g true

/-- GRID_COMPLETION_STORE: once every block has retired, every transfer has ended and the news has reached the scheduler (15 R311), CSEQ is stored to
the completion word as a release, then the interrupt; a page that is not present parks the store, any other fault or poison loses it (R93-R95). -/
def execGridCompletionStore (grid : Nat) (s : State) : Host.Outcome State Fault Refusal :=
  let g := s.grid grid
  let ctx := rCtx g.rcd
  let a := dw (rf g.rcd 2 3 61 * 8)
  let finish (s : State) : State :=
    let s := if qf (s.queue g.q) 1 3 1 == 1 then s.emit (.msix (qVec (s.queue g.q))) else s
    s.endGrid grid true
  if !g.active || g.left != 0 || (s.ptime - g.retAt).toNat < 160 || s.xdmas.any (·.gid == grid) || s.copies.any (·.gid == grid) then .next s
  else if a == 0 then .next (s.endGrid grid true)
  else match svcTr s ctx a .write with
    | .ok k _ =>
      if unitDown s k || s.poisoned (lineOf k) then .next (s.loseStore grid)
      else match s.devWrite k (leBytes 8 (g.rcd.getD 3 0).toNat) ((List.range 8).map fun i => (k + i, gridToks s g)) with
        | some t => .next (finish t)
        | none => .next (s.recallHead (lineOf k))
    | .park =>
      if g.parked.isSome then .next s
      else
        let p := s.pageRequest ctx a true 12
        .next (p.2.setGrid grid { g with parked := some p.1 })
    | _ => .next ((s.noteSvc ctx a).loseStore grid)

end Sys2Proof.Machine
end

