-- ==== Sys2Proof/Machine/Place.lean ====
section
/-! DEFINITION. Placing blocks on a die: where a block goes and what its cohorts hold when they enter (02 R25, R26, R40, 05 R98-R120,
19 R394, R395). -/
namespace Sys2Proof.Machine

/-! ### Where a block goes (05 R107-R110) -/

/-- A part fits on a core: quota, slots, runs, and no new line cache size under way (R107, R104). -/
def partOn (s : State) (die ctx : Nat) (g : Option Nat) (p : PartNeed) (core : Nat) : Option (Nat × List Nat × Option Nat) :=
  let limit := allocatable (s.core core).lcb
  if (s.core core).lcb != (s.die die).lcb.toNat || quotaOf s die ctx limit < ctxUse s core ctx + p.total ||
      (freeSlots s core).length < p.regs.length then none
  else fitPart (coreOcc s core g) limit p

/-- The cores of a die. -/
def dieCores (die : Nat) : List Nat := (List.range coresPerDie).map (die * coresPerDie + ·)

/-- The cores a block takes among those given, with the runs of each part (R109). -/
def findPlace (s : State) (die ctx : Nat) (g : Option Nat) (needs : List PartNeed) (among : List Nat) (more : Nat → Bool) :
    Option (List (Nat × Nat × List Nat × Option Nat)) :=
  (tryOrder (coreLoad s) (· % coresPerDie) among needs.length).findSome? fun cs =>
    if !more (cs.headD 0) then none
    else
      let l := (cs.zip needs).map fun p => (partOn s die ctx g p.2 p.1).map fun x => (p.1, x)
      if l.all (·.isSome) then some (l.filterMap id) else none

/-- The runs of a block's parts. -/
def areaRuns (needs : List PartNeed) (l : List (Nat × Nat × List Nat × Option Nat)) : List Run :=
  (l.zip needs).map fun p => ⟨p.1.1, p.1.2.1, p.2.area⟩
def regRuns (needs : List PartNeed) (l : List (Nat × Nat × List Nat × Option Nat)) : List Run :=
  (l.zip needs).flatMap fun p => (p.1.2.2.1.zip p.2.regs).map fun r => ⟨p.1.1, r.1, r.2⟩
def scrRun (scr : Nat) (l : List (Nat × Nat × List Nat × Option Nat)) : Option Run :=
  l.findSome? fun p => p.2.2.2.map fun a => ⟨p.1, a, scr⟩
/-- The cohort slots of a block's parts: the lowest free ones of each core, in cohort order. -/
def slotKeys (s : State) (needs : List PartNeed) (l : List (Nat × Nat × List Nat × Option Nat)) : List Nat :=
  (l.zip needs).flatMap fun p => ((freeSlots s p.1.1).take p.2.regs.length).map (p.1.1 * slotsPerCore + ·)

/-! ### Scratch storage (05 R100, R101, R116-R118) -/

/-- The granules of a block's scratch are zero-filled and given their class as they are allocated, before any cohort of its cluster enters (R101,
R110); until granules whose DEADLINE is past lapse at once (R118). -/
def State.initScratch (s : State) (b : Nat) (cls : BitVec 2) (deadline now : DWord) : State :=
  match (s.blk b).scratch with
  | none => s
  | some r =>
    let lo := scratchKey r.core (r.start * 4096)
    let hi := lo + r.len * 4096
    let s := { s with
      mem := s.mem.filter fun c => c.1 < lo || hi ≤ c.1,
      pois := s.pois.filter fun p => p.1 < 2 ^ 70 + lo || 2 ^ 70 + hi ≤ p.1 }
    (List.range r.len).foldl (fun s i =>
      let s := s.setGran (lo + 4096 * i) ⟨cls, if cls == 1 then now else 0, if cls == 2 then deadline else 0, false⟩
      if cls == 2 && deadline.toNat ≤ now.toNat then s.lapseGran (lo / 4096 + i) else s) s

/-- The granules of a block's scratch are no allocation any more. -/
def State.freeScratch (s : State) (b : Blk) : State :=
  match b.scratch with
  | none => s
  | some r => (List.range r.len).foldl (fun s i =>
      if b.lapsed.contains i then s else s.setGran (scratchKey r.core ((r.start + i) * 4096)) Gran.hold) s

/-! ### Acquires of the services (04 R87, 19 R395) -/

/-- A cohort acquires what tokens release: its core's self-invalidating lines go, and it waits for the marks (16 R324, 15 R309). -/
def State.acquireToks (s : State) (cid : Nat) (toks : List Token) : State :=
  let s := s.dropSelfInv (coreOf cid)
  let marks := marksOfToks s (dieOf cid) toks
  if marks.isEmpty then s
  else let c := s.cohort cid; s.setCohort cid { c with waits := c.waits ++ [.tokens marks] }

/-! ### Compander tables and format slots (02 R40, 19 R395) -/

/-- The eight tables at CTAB as 128 words, read in a context without parking; none where any byte cannot be read. -/
def readTables (s : State) (ctx : Nat) (ctab : DWord) : Option (List Word) :=
  (svcWords s ctx ctab 64).map fun l => l.flatMap fun w => [w.extractLsb' 0 32, w.extractLsb' 32 32]
/-- The format slots of a record. -/
def rSlots (r : List DWord) : List (BitVec 128) := (List.range 8).map fun i => r.getD (17 + 2 * i) 0 ++ r.getD (16 + 2 * i) 0
/-- CTAB of a record, as an address. -/
def rCtab (r : List DWord) : DWord := dw (rf r 14 6 58 * 64)

/-! ### Putting a block on the die -/

/-- What a block needs to be placed. -/
structure BlkSpec where
  gid : Nat
  ctx : Nat
  idx : Nat
  cluster : Nat
  j : Nat
  die : Nat
  threads : Nat
  w : Nat
  nreg : Nat
  scr : Nat
  kind : Kind
  prio : BitVec 3
  deriving DecidableEq, Repr

/-- The spec of block j of cluster k of a grid. -/
def gridSpec (s : State) (g die k j : Nat) : BlkSpec :=
  let r := (s.grid g).rcd
  ⟨g, rCtx r, blockIndex r k j, k, j, die, rThreads r, rWidth r, rNreg r, rScr r, .grid, BitVec.ofNat 3 (rPrio r)⟩
/-- A block's shape. -/
def BlkSpec.shape (b : BlkSpec) : Shape := ⟨ceilDiv b.threads b.w, ceilDiv (b.nreg * b.w) 1024, ceilDiv b.scr 4096⟩

/-- A cohort slot taken for cohort c of a block: control has not entered. -/
def seatCohort (s : State) (b : BlkSpec) (id c k : Nat) : Cohort :=
  { Cohort.vacant with
    kind := b.kind, ctx := b.ctx, priv := ctxPriv s b.ctx, gid := b.gid, blk := id, part := c * k / b.shape.coh, cidx := c, w := b.w,
    nreg := b.nreg, prio := b.prio, lprio := b.prio, waits := [.entry] }

/-- A block placed: its number and the state, or none where it does not fit (R107-R110). -/
def State.placeBlk (s : State) (b : BlkSpec) (k : Nat) (among : List Nat) : Option (Nat × State) :=
  let needs := partNeeds b.shape k
  (findPlace s b.die b.ctx (some b.gid) needs among fun _ => true).map fun l =>
    let id := s.next + 1
    let cids := slotKeys s needs l
    let s' := s.setBlk id { Blk.none with
      used := true, gid := b.gid, ctx := b.ctx, idx := b.idx, cluster := b.cluster, j := b.j, die := b.die, cores := l.map (·.1),
      areas := areaRuns needs l, regs := regRuns needs l, scratch := scrRun b.shape.scr l, scr := b.scr, cids := cids,
      threads := b.threads, kind := b.kind, prio := b.prio, order := id }
    (id, (List.range cids.length).foldl (fun t c => t.setCohort (cids.getD c 0) (seatCohort s b id c k)) { s' with next := id + 1 })

/-! ### Restored blocks (05 R114, R120, 20 R417) -/

/-- A saved block's needs: what it held, its lapsed scratch granules apart (R120). -/
def savedNeeds (b : Blk) : List PartNeed :=
  (partNeeds ⟨b.regs.length, (b.regs.headD ⟨0, 0, 1⟩).len, ceilDiv b.scr 4096⟩ b.cores.length).map fun p =>
    if p.scr == 0 then p else { p with dead := b.lapsed }

/-- A saved block is placed and re-enters: registers, scratch bytes and granules as they were saved, its copy requests resumed; lapsed
granules stay lapsed, and their space is not allocated (R120). It acquires at system scope (17 R357). -/
def State.restoreBlk (s : State) (v : Saved) (among : List Nat) : Option State :=
  let needs := savedNeeds v.blk
  let bound := (v.blk.bars.filter (·.2.isSome)).length
  (findPlace s v.blk.die v.blk.ctx (some v.blk.gid) needs among fun core => poolUsed s core + bound ≤ 256 || v.blk.cores.head? == some core).map
    fun l =>
      let cids := slotKeys s needs l
      let b := { v.blk with
        cores := l.map (·.1), areas := areaRuns needs l, regs := regRuns needs l, scratch := scrRun (ceilDiv v.blk.scr 4096) l,
        cids := cids, order := s.next + 1, option := 0 }
      let s := { (s.setBlk v.id b) with next := s.next + 2, saved := s.saved.filter (·.id != v.id) }
      let s := match b.scratch with
        | none => s
        | some r =>
          let lo := scratchKey r.core (r.start * 4096)
          let s := { s with
            mem := s.mem.filter fun c => c.1 < lo || lo + r.len * 4096 ≤ c.1,
            pois := s.pois.filter fun p => p.1 < 2 ^ 70 + lo || 2 ^ 70 + lo + r.len * 4096 ≤ p.1 }
          let s := v.bytes.foldl (fun (s : State) p => s.setByte (lo + p.1) p.2) s
          let s := v.pois.foldl (fun (s : State) o => s.setScratchPois (lo + o) true) s
          (List.range r.len).foldl (fun (s : State) i =>
            let g := v.grans.getD i Gran.hold
            let s := s.setGran (lo + 4096 * i) g
            if g.cls == 2 && !b.lapsed.contains i && g.deadline.toNat ≤ (s.timeOf b.die).toNat then s.lapseGran (lo / 4096 + i) else s) s
      let pairs := v.cohorts.zip cids
      let s := pairs.foldl (fun (s : State) p => s.setCohort p.2 p.1) s
      let s := (cids.map coreOf).foldl (fun (s : State) c => s.dropSelfInv c) s
      let renew (r : CopyReq) : CopyReq :=
        let cid := cids.getD r.cid 0
        { r with cid := cid, core := coreOf cid, blk := v.id, paused := Option.none }
      { s with copies := s.copies ++ v.copies.map renew }

/-! ### Slices (05 R110-R114) -/

/-- What a slice places next: a saved cluster, a cluster that came back, or its next cluster. -/
inductive NextUp where
  | saved (cluster : Nat)
  | blocks (cluster : Nat) (js : List Nat) (again : Bool)
  deriving DecidableEq, Repr

/-- A slice of a grid on a die. -/
def State.slice (s : State) (g d : Nat) : Option Slice := (s.grid g).slices.find? (·.die == d)
def State.setSlice (s : State) (g : Nat) (x : Slice) : State :=
  let gr := s.grid g
  s.setGrid g { gr with slices := gr.slices.map fun y => if y.die == x.die then x else y }
/-- The saved blocks of a grid on a die that wait to be placed, each cluster once all of it is saved. -/
def savedOf (s : State) (g d : Nat) : List Saved :=
  s.saved.filter fun v => v.blk.gid == g && v.blk.die == d && v.image.isNone && v.blk.kind == .grid &&
    !(s.blks.any fun p => p.2.used && p.2.gid == g && p.2.cluster == v.blk.cluster && p.2.option == 2)
/-- The next cluster of a slice: the first of those restored or flushed, ahead of the unplaced (R110, R114). -/
def nextUp (s : State) (g : Nat) (x : Slice) : Option NextUp :=
  let back := (savedOf s g x.die).map (fun v => (v.blk.cluster, NextUp.saved v.blk.cluster)) ++
    x.redo.map fun p => (p.1, .blocks p.1 p.2 true)
  match minBy (·.1) back with
  | some p => some p.2
  | none => if x.next < x.stop then some (.blocks x.next (List.range (clusSize (s.grid g).rcd)) false) else none

/-- The span of a grid's blocks on a die, fixed at its first use (R108). -/
def spanFor (s : State) (g : Nat) (x : Slice) : Option Nat :=
  match x.span with
  | some k => some k
  | none =>
    let r := (s.grid g).rcd
    let limit := allocatable (s.die x.die).lcb.toNat
    spanOf (shapeOf r) (quotaOf s x.die (rCtx r) limit) limit

/-- Compander tables as a die holds them, read before its first placement. -/
def sliceTables (s : State) (g : Nat) (x : Slice) : Option (List Word) :=
  match x.tables with
  | some t => t
  | none => let r := (s.grid g).rcd; if rCtab r == 0 then none else readTables s (rCtx r) (rCtab r)

/-- The blocks of a cluster placed one after another, all or none (R110). -/
def State.placeBlocks (s : State) (g die cl k : Nat) (among : List Nat) : List Nat → Option State
  | [] => some s
  | j :: t => (s.placeBlk (gridSpec s g die cl j) k among).bind fun p =>
      let r := (s.grid g).rcd
      (p.2.initScratch p.1 (BitVec.ofNat 2 (rf r 5 58 2)) (r.getD 7 0) (s.timeOf die)).placeBlocks g die cl k among t
/-- The saved blocks of a cluster placed, all or none. -/
def State.restoreAll (s : State) (among : List Nat) : List Saved → Option State
  | [] => some s
  | v :: t => (s.restoreBlk v among).bind fun s => s.restoreAll among t

/-- The saved blocks of a cluster, in block order (R110). -/
def savedCluster (s : State) (g d cl : Nat) : List Saved :=
  sortBy (fun v => v.blk.idx) ((savedOf s g d).filter fun v => v.blk.cluster == cl)

/-- A slice's next cluster placed among the given cores, or none where it does not fit. -/
def State.placeNext (s : State) (g : Nat) (x : Slice) (among : List Nat) : Option State :=
  let clear (y : Slice) : Slice := { y with since := none, stalled := false, reserved := false, freed := [] }
  match nextUp s g x with
  | none => none
  | some (.saved cl) =>
    (s.restoreAll among (savedCluster s g x.die cl)).map fun s => s.setSlice g (clear x)
  | some (.blocks cl js again) =>
    match spanFor s g x with
    | none => none
    | some k =>
      (s.placeBlocks g x.die cl k among js).map fun s' =>
        s'.setSlice g { clear x with
          span := some k, tables := some (sliceTables s g x),
          redo := if again then x.redo.filter (·.1 != cl) else x.redo, next := if again then x.next else x.next + 1 }

/-- What each block of a slice's next cluster needs, in block order. -/
def nextNeeds (s : State) (g : Nat) (x : Slice) : List (List PartNeed) :=
  match nextUp s g x with
  | some (.saved cl) => (savedCluster s g x.die cl).map fun v => savedNeeds v.blk
  | some (.blocks _ js _) => js.map fun _ => partNeeds (shapeOf (s.grid g).rcd) ((spanFor s g x).getD 1)
  | none => []

/-- The state in which the first block of a slice's next cluster that does not fit is tried, and what that block needs (R110). -/
def stuckAt (s : State) (g : Nat) (x : Slice) : State × List PartNeed :=
  let needs := nextNeeds s g x
  let go (acc : State × List PartNeed × Bool) (i : Nat) : State × List PartNeed × Bool :=
    if acc.2.2 then acc
    else
      let n := needs.getD i []
      let r : Option State := match nextUp s g x with
        | some (.saved cl) => ((savedCluster s g x.die cl)[i]?).bind fun v => acc.1.restoreBlk v (dieCores x.die)
        | some (.blocks cl js _) => acc.1.placeBlocks g x.die cl ((spanFor s g x).getD 1) (dieCores x.die) [js.getD i 0]
        | none => none
      match r with
      | some t => (t, n, false)
      | none => (acc.1, n, true)
  let r := (List.range needs.length).foldl go (s, [], false)
  (r.1, r.2.1)

/-- A fragmentation stall (R112): the cluster's granules lie within the free quota and the free granules of the die, each summed, and the block
that does not fit met on every core it was tried on the quota, the slots and no new size under way, so that only the shape rules failed. -/
def fragStall (s : State) (g : Nat) (x : Slice) : Bool :=
  let ctx := rCtx (s.grid g).rcd
  let whole := ((nextNeeds s g x).map fun l => (l.map PartNeed.total).sum).sum
  let cores := dieCores x.die
  let limit (c : Nat) := allocatable (s.core c).lcb
  let p := stuckAt s g x
  let t := p.1
  let may (q : Nat × PartNeed) : Bool := (t.core q.1).lcb == (t.die x.die).lcb.toNat &&
    ctxUse t q.1 ctx + q.2.total ≤ quotaOf t x.die ctx (limit q.1) && q.2.regs.length ≤ (freeSlots t q.1).length
  whole ≤ (cores.map fun c => quotaOf s x.die ctx (limit c) - ctxUse s c ctx).sum &&
  whole ≤ (cores.map fun c => freeGrans s c (limit c) (some g)).sum &&
  (tryOrder (coreLoad t) (· % coresPerDie) cores p.2.length).all fun cs => (cs.zip p.2).all may

/-- A cluster that does not fit begins to wait, and a stall is recorded for it once (R111, R112). -/
def State.noteWait (s : State) (g : Nat) (x : Slice) : State :=
  let now := s.timeOf x.die
  let stall := !x.stalled && fragStall s g x
  let d := s.die x.die
  let s := if stall then s.setDie x.die { d with fstalls := if d.fstalls == 0xFFFFFFFF then d.fstalls else d.fstalls + 1 } else s
  s.setSlice g { x with since := some (x.since.getD now), stalled := x.stalled || stall }

/-- A slice reserves its die: its next cluster has waited 1 ms of TIME (R111). -/
def reserves (s : State) (y : Slice) : Bool := y.reserved || y.since.any fun t => fadeWindow ≤ (s.timeOf y.die - t).toNat
/-- The order of reservations of one PRIO: a die-gang slice's first, then by when they were made, then by dispatch (R111). -/
def reserveKey (g : Grid) (y : Slice) : Nat := (if g.gang then 0 else 2 ^ 96) + (y.since.getD 0).toNat * 2 ^ 32 + g.order
/-- A slice that has reserved the die holds back others of lower PRIO, and of its own but for those whose reservation comes before its (R111). -/
def heldBack (s : State) (g d : Nat) : Bool :=
  let mine := (s.slice g d).filter (reserves s)
  let own := rPrio (s.grid g).rcd
  s.grids.any fun p => p.1 != g && p.2.active && own ≤ rPrio p.2.rcd && p.2.slices.any fun y => y.die == d && reserves s y &&
    (own < rPrio p.2.rcd || mine.all fun x => reserveKey p.2 y < reserveKey (s.grid g) x)
/-- A slice may be placed in a pass: it has reached the die (04 R91). -/
def mayPlace (s : State) (g d : Nat) : Bool :=
  (s.grid g).active && (s.grid g).here && !(s.grid g).gang && !ctxStopped s (rCtx (s.grid g).rcd) && !heldBack s g d

/-- The waiting clusters of a slice placed until one does not fit (R111). -/
def State.placeSlice : Nat → State → Nat → Nat → State
  | 0, s, _, _ => s
  | n + 1, s, g, d =>
    match s.slice g d with
    | none => s
    | some x =>
      if !mayPlace s g d || (nextUp s g x).isNone then s
      else match s.placeNext g x (dieCores d) with
        | some t => t.placeSlice n g d
        | none => s.noteWait g x

/-- The slices of a die at a PRIO in dispatch order. -/
def slicesAt (s : State) (d p : Nat) : List Nat :=
  sortBy (fun g => (s.grid g).order)
    ((tkeys s.grids).filter fun g => (s.grid g).active && (s.grid g).here && rPrio (s.grid g).rcd == p && (s.slice g d).isSome)

/-! ### Tasks and orphan handlers (19 R394, R395, 20 R408) -/

/-- The keys of a record's 8-byte words. -/
def recKeys (s : State) (r : TaskRef) (n : Nat) : Option (List Nat) :=
  let l := (List.range n).map fun i => readRec s r (8 * i)
  if l.all fun x => match x with | .ok _ => true | .error _ => false then
    some (l.filterMap fun x => match x with | .ok k => some k | .error _ => none)
  else none
/-- The words of a record's first 64 bytes. -/
def recHead (s : State) (r : TaskRef) : Option (List DWord) := (recKeys s r 8).map fun ks => ks.map s.word
/-- The words of a record: its 64 bytes and its values. -/
def recWords (s : State) (r : TaskRef) (w : List DWord) : Option (List DWord) :=
  let desc (j : Nat) : Nat := rf w (4 + j / 4) (16 * (j % 4)) 16
  let n := ((List.range (rf w 2 0 5)).map fun j => if desc j / 256 % 2 == 1 then widthOf (rf w 0 0 2) / 2 else 1).sum
  (recKeys s r (8 + n)).map fun ks => ks.map s.word

/-- A valid record (02 R44). -/
def recOk (w : List DWord) : Bool :=
  let wd := widthOf (rf w 0 0 2)
  let nl := rf w 2 0 5
  rf w 0 2 1 == 0 && rf w 2 32 32 == 0 && rf w 2 13 3 == 0 && rf w 2 5 3 == 0 && rf w 0 0 2 != 3 && nl ≤ 16 &&
  w.getD 1 0 != 0 && (w.getD 1 0).toNat < 2 ^ wd &&
  (List.range nl).all fun j => descLegal (rf w (4 + j / 4) (16 * (j % 4)) 16) (nregOf (rf w 2 8 5))

/-- The registers a record gives a cohort, value after value (02 R43). -/
def recRegs (w : List DWord) : Nat → Nat → Nat → Cohort → Cohort
  | 0, _, _, c => c
  | n + 1, j, i, c =>
    let d := rf w (4 + j / 4) (16 * (j % 4)) 16
    if d / 256 == 1 then
      let c := (List.range c.w).foldl (fun c l => vwr c (d % 256) l (BitVec.ofNat 32 (rf w (i + l / 2) (32 * (l % 2)) 32))) c
      recRegs w n (j + 1) (i + c.w / 2) c
    else recRegs w n (j + 1) (i + 1) (swr c (d % 256) (w.getD i 0))

/-- The format slots and tables of a task, from the launch record TSKFMT names (R395). -/
def taskSlots (s : State) (c : Cohort) (fmt : DWord) : Cohort :=
  if !fmt.getLsbD 0 then { c with noSlots := true }
  else match svcWords s c.ctx (dw (bits fmt 8 56 * 256)) 32 with
    | none => { c with noSlots := true }
    | some r =>
      { c with fslots := rSlots r, ctab := rCtab r, tabs := if rCtab r == 0 then none else readTables s c.ctx (rCtab r) }

/-- A block of one cohort placed on a die: a task's, which keeps the address of its record as its index, or an orphan handler's. -/
def State.placeOne (s : State) (ctx die w nreg rec' : Nat) (kind : Kind) (prio : Nat) : Option (Nat × State) :=
  (s.placeBlk ⟨0, ctx, rec', 0, 0, die, w, w, nreg, 0, kind, BitVec.ofNat 3 prio⟩ 1 (dieCores die)).map fun p =>
    let cid := (p.2.blk p.1).cids.headD 0
    (cid, p.2.setBlk p.1 { p.2.blk p.1 with entered := some (s.timeOf die) })

/-- A cohort that starts at a header with one fragment of its live lanes. -/
def startAt (c : Cohort) (hdr live : DWord) : Cohort :=
  { c with live := live, ents := [{ Ent.none with mask := live, hdr := hdr }], nextEnt := 1, waits := [] }

/-- What placing a task gives: it resumes, it is gone without a task, its context is stopped, or it does not fit. -/
inductive Placed where
  | yes (s : State) | gone (s : State) | later | no
  deriving DecidableEq, Repr

/-- The threads of a task's block that start outside its live mask have ended (02 R25). -/
def State.deadThreads (s : State) (b : Nat) (live : DWord) (w : Nat) : State :=
  let x := s.blk b
  s.setBlk b { x with done := (List.range w).filter fun l => !live.getLsbD l }

/-- A task resumed on a die from its record (R394, R395, 02 R43, R44): an invalid record traps its context's handler, one that cannot be
read ends its chain. -/
def State.resumeTask (s : State) (r : TaskRef) (die prio : Nat) : Option Placed :=
  match recHead s r with
  | none => none
  | some h =>
    let ctx := rf h 2 16 16
    if !recOk h then some (.gone (s.send (.orphanTrap ctx .illegal r.addr die)))
    else if ctxStopped s ctx then some .later
    else (recWords s r h).bind fun w =>
      let wd := widthOf (rf w 0 0 2)
      match s.placeOne ctx die wd (nregOf (rf w 2 8 5)) r.addr.toNat .task prio with
      | none => some .no
      | some (cid, t) =>
        let c := startAt (t.cohort cid) (dw (rf w 0 3 61 * 8)) (w.getD 1 0)
        let c := taskSlots s (recRegs w (rf w 2 0 5) 0 8 c) (s.ctx ctx).tskfmt
        some (.yes (((t.setCohort cid c).deadThreads c.blk (w.getD 1 0) wd).acquireToks cid r.toks))

/-- The chain of a PRIO on a die. -/
def chainOf (s : State) (d p : Nat) : List TaskRef := tget [] (s.die d).chains p
def State.setChain (s : State) (d p : Nat) (l : List TaskRef) : State :=
  let x := s.die d
  s.setDie d { x with chains := tput [] x.chains p l }

/-- Record `i` leaves a die's chain of a PRIO, or with `rest` all from it on do: NEXT of the one before it, where one was passed over, names what
follows (R394). -/
def State.unchain (s : State) (d p i : Nat) (rest : Bool) : State :=
  let l := chainOf s d p
  let t := if rest then l.take i else l.eraseIdx i
  let s := if i == 0 then s else match l[i - 1]? with
    | some r => s.linkRec r ((t[i]?.map (·.addr)).getD 0)
    | none => s
  s.setChain d p t

/-- The machine-check record of a task's record that cannot be read (R394). -/
def State.badTask (s : State) (die : Nat) (r : TaskRef) : State := s.mcRecord 0 1 10 die 0 r.addr

/-- The tasks of a chain from its record `i` on placed, oldest first, until one does not fit; those of a stopped context are passed over, a
record that cannot be read ends the chain. -/
def State.placeTasks : Nat → State → Nat → Nat → Nat → State
  | 0, s, _, _, _ => s
  | n + 1, s, d, p, i =>
    match (chainOf s d p)[i]? with
    | none => s
    | some r =>
      match s.resumeTask r d p with
      | none => (s.badTask d r).unchain d p i true
      | some (.yes s) => (s.unchain d p i false).placeTasks n d p i
      | some (.gone s) => (s.unchain d p i false).placeTasks n d p i
      | some .later => s.placeTasks n d p (i + 1)
      | some .no => s

/-- Saved tasks and orphan handlers of a die at a PRIO are placed again. -/
def State.placeSavedTasks (s : State) (d p : Nat) : State :=
  (s.saved.filter fun v => v.blk.kind != .grid && v.blk.die == d && v.image.isNone && v.blk.prio.toNat == p && !ctxStopped s v.ctx).foldl
    (fun s v => (s.restoreBlk v (dieCores d)).getD s) s

/-- The orphan handlers a die is to place, as tasks of PRIO 7 (20 R408): W = 16, one lane, 32 registers, INH and ORPH set. -/
def State.placeOrphans (s : State) (d : Nat) : State :=
  (s.die d).orphans.foldl (fun s o =>
    if ctxStopped s o.1 then s
    else match s.placeOne o.1 d 16 32 0 .orphan 7 with
      | none => s
      | some (cid, t) =>
        let c := startAt (t.cohort cid) (((s.ctx o.1).traphdr >>> 3) <<< 3) 1
        let c := { c with
          noSlots := true, handler := some (0, 0), tinfo := o.2.2,
          tcause := inhBit ||| (1#64 <<< 62) ||| dw (causeCode o.2.1) }
        let t := t.setCohort cid c
        t.setDie d { t.die d with orphans := (t.die d).orphans.erase o }) s

/-- The dies' chains, longest first, then higher PRIO, then lower die (R394). -/
def longestChain (s : State) : Option (Nat × Nat) :=
  minBy (fun x => (2 ^ 32 - (chainOf s x.1 x.2).length) * 256 + (7 - x.2) * 16 + x.1)
    (((List.range 12).flatMap fun d => (List.range 8).map fun p => (d, p)).filter fun x => !(chainOf s x.1 x.2).isEmpty)

/-- A distributor with no task of its own takes the oldest record of the longest chain, where it can place it, once word of it can have come (R394,
15 R311). -/
def State.stealTask (s : State) (d : Nat) : State :=
  if (List.range 8).any fun p => !(chainOf s d p).isEmpty then s
  else match longestChain s with
    | none => s
    | some (e, p) =>
      match chainOf s e p with
      | [] => s
      | r :: t =>
        if e != d && (s.ptime - r.since).toNat < 160 then s
        else match s.resumeTask r d p with
        | none => (s.badTask e r).setChain e p []
        | some (.yes s) => s.setChain e p t
        | some (.gone s) => s.setChain e p t
        | some .later => s
        | some .no => s

/-! ### A pass (05 R111) -/

/-- A pass of a die's distributor, none on a die held in reset (22 R435): by PRIO the tasks and then the slices; then a task of another die. -/
def State.pass (s : State) (d : Nat) : State :=
  let s := if (s.die d).passDue then s.setDie d { s.die d with passDue := false } else s
  if (s.die d).stopped then s else
  let s := [7, 6, 5, 4, 3, 2, 1, 0].foldl (fun s p =>
    let s := if p == 7 then s.placeOrphans d else s
    let s := (s.placeSavedTasks d p).placeTasks (chainOf s d p).length d p 0
    (slicesAt s d p).foldl (fun s g =>
      let n := match s.slice g d with | some x => x.stop - x.next + x.redo.length + (savedOf s g d).length | none => 0
      s.placeSlice (n + 1) g d) s) s
  s.stealTask d

end Sys2Proof.Machine
end

