-- ==== Sys2Proof/Machine/Distributor.lean ====
section
/-! DEFINITION. The steps of the distributors: passes, entry, retirement, reservations, relocation, line cache sizes, quotas, lapse
(02 R25, R26, 04 R92, 05 R101-R118, 18 R372). -/
namespace Sys2Proof.Machine

/-- PLACEMENT_PASS (R111). -/
def execPlacementPass (die : Nat) (s : State) : Host.Outcome State Fault Refusal := .next (if die < 12 then s.pass die else s)

/-- Every cluster of a slice placed at once, or none. -/
def State.placeWhole : Nat → State → Nat → Nat → Option State
  | 0, s, _, _ => some s
  | n + 1, s, g, d =>
    match s.slice g d with
    | none => some s
    | some x => (s.placeNext g x (dieCores d)).bind fun s => s.placeWhole n g d

/-- A die-gang grid's slices are placed on all their dies together, once each die can hold its own and no reservation keeps it back; else they begin to
wait (04 R92, 05 R111). -/
def State.placeGang (s : State) (grid : Nat) : State :=
  let g := s.grid grid
  if !g.active || !g.gang || !g.here || ctxStopped s (rCtx g.rcd) then s
  else
    let r := if g.slices.any fun x => heldBack s grid x.die then none
      else g.slices.foldl (fun (acc : Option State) x => acc.bind fun s => s.placeWhole (x.stop - x.next) grid x.die) (some s)
    match r with
    | some t => t.setGrid grid { t.grid grid with gang := false }
    | none => s.setGrid grid { g with slices := g.slices.map fun x => { x with since := some (x.since.getD (s.timeOf x.die)) } }

/-- DIE_GANG_PLACE (04 R92). -/
def execDieGangPlace (grid : Nat) (s : State) : Host.Outcome State Fault Refusal := .next (s.placeGang grid)

/-- SLICE_RESERVE_DIE: a slice whose next cluster has waited 1 ms of TIME reserves the die (R111). -/
def execSliceReserveDie (die grid : Nat) (s : State) : Host.Outcome State Fault Refusal :=
  match s.slice grid die with
  | some x =>
    .next (if reserves s x then s.setSlice grid { x with reserved := true } else s)
  | none => .next s

/-! ### Entry (02 R25, R26, 05 R101) -/

/-- The lanes of cohort c of a block that hold a thread. -/
def liveLanes (threads w c : Nat) : DWord := maskOf ((List.range w).filter fun l => c * w + l < threads)

/-- The registers of R26 and the state at grid entry. -/
def entryCohort (c : Cohort) (r : List DWord) (b : Blk) (tabs : Option (List Word)) : Cohort :=
  let live := liveLanes b.threads c.w c.cidx
  let c := startAt c (dw (rf r 0 3 61 * 8)) live
  let c := swr (swr (swr (swr c 1 (r.getD 1 0)) 2 (dw b.idx)) 3 (dw c.cidx)) 63 0x10000
  let c := (List.range c.w).foldl (fun c l => vwr c 0 l (BitVec.ofNat 32 (c.cidx * c.w + l))) c
  { c with fslots := rSlots r, ctab := rCtab r, tabs := tabs }

/-- COHORT_ENTRY: the cohorts of a placed block enter, behind the acquires of its grid's record (R26, R101, 04 R87). -/
def execCohortEntry (blk : Nat) (s : State) : Host.Outcome State Fault Refusal :=
  let b := s.blk blk
  if !b.used || b.kind != .grid || b.entered.isSome then .next s
  else
    let g := s.grid b.gid
    let r := g.rcd
    let now := s.timeOf b.die
    let tabs := ((s.slice b.gid b.die).bind (·.tables)).getD none
    let s := s.setBlk blk { b with entered := some now }
    .next (b.cids.foldl (fun s cid =>
      (s.setCohort cid (entryCohort (s.cohort cid) r b tabs)).acquireToks cid g.toks) s)

/-! ### Retirement (05 R114, 09 R200) -/

/-- The lines of a core with bytes that an ended cohort stored are written back. -/
def State.pushStores (s : State) (cid : Nat) : State :=
  let core := coreOf cid
  (s.linesOf core).foldl (fun s l => if (s.lc core l).writers.contains cid then s.writeBack core l else s) s

/-- An atomic or reduction of a block's cohort, which may have ended, is under way, invalidations still to be acknowledged among that (R200, 04
R93); the slot may be another block's by now. -/
def atomsLeft (s : State) (b cid : Nat) : Bool :=
  atomsMoving s (coreOf cid) fun c dead _ => c == cid && (dead || (s.cohort cid).blk == b)

/-- A held ordered reduction of a block (18 R371). -/
def redosHeld (s : State) (b : Nat) : Bool :=
  s.defer.any fun p => p.2.any fun d => match d with | .redo r => r.blk == b | _ => false

/-- All cohorts of a block have ended. -/
def cohortsEnded (s : State) (b : Nat) : Bool :=
  (s.blk b).cids.all fun cid => (s.cohort cid).kind == .vacant || (s.cohort cid).blk != b

/-- Nothing of a block's ended cohorts is left to complete but held reductions (R200). -/
def blockDrained (s : State) (b : Nat) : Bool :=
  let x := s.blk b
  x.cids.all (fun cid => storesHome s cid && !atomsLeft s b cid) &&
  x.cores.all (fun c => !((s.core c).leases.any fun l => l.cid.isNone && l.endAt == some 0)) &&
  !(s.copies.any (·.blk == b)) && !(s.xdmas.any (·.blk == b))

/-- The cores that have freed a block's space: its core, or its quad. -/
def freedCores (b : Blk) : List Nat :=
  if b.cores.length ≤ 1 then b.cores
  else let c := b.cores.headD 0; (List.range 4).map fun i => c / coresPerDie * coresPerDie + c % coresPerDie / 4 * 4 + i

/-- A block's space is freed. Runs that pre-emption frees for another grid's slice are kept for it (20 R415). -/
def State.freeBlk (s : State) (b : Nat) : State :=
  let x := s.blk b
  let s := (s.freeScratch x).setBlk b Blk.none
  if x.askedBy == 0 then s
  else match s.slice x.askedBy x.die with
    | none => s
    | some y => s.setSlice x.askedBy { y with freed := y.freed ++ x.areas ++ x.regs ++ x.scratch.toList }

/-- The refill rule of R114, then a pass. -/
def State.refill (s : State) (g d : Nat) (cores : List Nat) : State :=
  let s := match s.slice g d with
    | none => s
    | some x => if mayPlace s g d then (s.placeNext g x cores).getD s else s
  s.pass d

/-- BLOCK_RETIRE: a block whose cohorts have ended and whose work has drained frees its granules, and the space is refilled; stores
still in a line cache are written back first (R114, R200). -/
def execBlockRetire (blk : Nat) (s : State) : Host.Outcome State Fault Refusal :=
  let b := s.blk blk
  if !b.used || b.option == 3 || !cohortsEnded s blk || (b.kind == .grid && b.entered.isNone && (s.grid b.gid).active) then .next s
  else if !blockDrained s blk then .next (b.cids.foldl (fun s cid => s.pushStores cid) s)
  else if redosHeld s blk then .next s
  else
    let d := s.die b.die
    let span := (s.timeOf b.die - b.entered.getD 0).toNat
    let n := tget (0, 0) d.drained b.gid
    let s := s.setDie b.die { d with drained := if b.kind == .grid then tput (0, 0) d.drained b.gid (n.1 + 1, n.2 + span) else d.drained }
    let s := s.freeBlk blk
    let g := s.grid b.gid
    let s := if b.kind == .grid && g.active then s.setGrid b.gid { g with left := g.left - 1, retAt := s.ptime } else s
    .next (s.refill b.gid b.die (freedCores b))

/-- REDO_DISCARD: a grid whose cohorts have all ended and that has nothing left but held reductions loses them 1 ms of TIME after,
and OLOST is set on their home dies (18 R372). -/
def execRedoDiscard (grid : Nat) (s : State) : Host.Outcome State Fault Refusal :=
  let g := s.grid grid
  let mine := (tkeys s.blks).filter fun b => (s.blk b).used && (s.blk b).kind == .grid && (s.blk b).gid == grid
  let idle := g.active && !g.gang && g.slices.all (fun x => (nextUp s grid x).isNone) && !(s.saved.any (·.blk.gid == grid)) &&
    !mine.isEmpty && mine.all (fun b => cohortsEnded s b && blockDrained s b && redosHeld s b)
  if !idle then .next (if g.active then s.setGrid grid { g with ended := none } else s)
  else match g.ended with
    | none => .next (s.setGrid grid { g with ended := some s.ptime })
    | some t =>
      if (s.ptime - t).toNat < fadeWindow then .next s
      else
        let lost := s.defer.flatMap fun p => p.2.filterMap fun d => match d with
          | .redo r => if r.grid == grid then some (homeDie r.key, r) else none
          | _ => none
        let s := { s with defer := (s.defer.map fun (p : Nat × List Deferred) => (p.1, p.2.filter fun d => match d with
            | .redo r => r.grid != grid
            | _ => true)).filter fun p => !p.2.isEmpty }
        .next (lost.foldl (fun s x => s.redBits x.2.ctx x.1 0x80) s)

/-! ### Line cache size, quotas, lapse (05 R104, R106, R118) -/

/-- Cores of a die that have not applied its LCB. -/
def lcbWaits (s : State) (die : Nat) : Bool := (dieCores die).any fun c => (s.core c).lcb != (s.die die).lcb.toNat
/-- PEND as the cores stand. -/
def State.setPend (s : State) (die : Nat) : State := s.setDie die { s.die die with lcbPend := lcbWaits s die }

/-- LCB_WRITE: 0 or a value above 16 is ignored (R104). -/
def execLcbWrite (die : Nat) (v : DWord) (s : State) : Host.Outcome State Fault Refusal :=
  inService s <|
  let n := bits v 0 5
  .next (if 12 ≤ die || n == 0 || 16 < n then s else (s.setDie die { s.die die with lcb := BitVec.ofNat 5 n }).setPend die)

/-- LCB_APPLY: a core with no block writes back its line cache region, drops it and applies the new size (R104). -/
def execLcbApply (core : Nat) (s : State) : Host.Outcome State Fault Refusal :=
  let die := dieOfCore core
  let n := (s.die die).lcb.toNat
  if 12 ≤ die || (s.core core).lcb == n || s.blks.any (fun p => p.2.used && p.2.cores.contains core) || !(s.core core).leases.isEmpty then
    .next s
  else if (s.linesOf core).any fun l => (s.lc core l).dirty != 0 then
    .next ((s.linesOf core).foldl (fun s l => s.writeBack core l) s)
  else
    let s := (s.linesOf core).foldl (fun s l => s.setLc core l LcEnt.none) s
    let s := s.setCore core { s.core core with lcb := n }
    .next ((s.setPend die).pass die)

/-- QUOTA_ENTRY_WRITE: the entry's fields, then a pass (R106, R111). -/
def execQuotaEntryWrite (die i : Nat) (v : DWord) (s : State) : Host.Outcome State Fault Refusal :=
  inService s <|
  if 12 ≤ die || 256 ≤ i then .next s
  else
    let d := s.die die
    .next ((s.setDie die { d with dqent := tput 0 d.dqent i (v &&& 0xFFFF300000001FFF) }).pass die)

/-- UNTIL_LAPSE: a refresh point at or after its DEADLINE ends an until granule (R118). -/
def execUntilLapse (g : Nat) (s : State) : Host.Outcome State Fault Refusal :=
  let x := s.gran (g * 4096)
  .next (if x.cls == 2 && !x.lapsed && x.deadline.toNat ≤ (s.timeOf (homeDie (g * 4096))).toNat then s.lapseGran g else s)

/-! ### Relocation (05 R113) -/

/-- A cohort may be relocated: none of its fragments goes on, for one is parked, or for it waits on a barrier, an address or, at a switch marker, a J
register; with no result outstanding but a `jget`'s, and no lease or matrix op of its own (R113, 12 R266, 16 R335). -/
def mayRelocate (s : State) (cid : Nat) : Bool :=
  let c := s.cohort cid
  let isJ (p : Pend) : Bool := match p.kind with | .jget _ _ _ _ => true | _ => false
  let parked := c.ents.any fun e => match e.st with | .parked _ => true | _ => false
  let counts (w : Wait) : Bool := match w with
    | .op (.entry _) => true
    | .op (.bytes _) => true
    | .op (.word _ _) => true
    | .switch l => (c.pend.filter fun p => l.contains p.vid).all isJ
    | _ => false
  (if c.waits.isEmpty then (nextFrag c).isNone && (parked || barHeld c) else c.waits.all counts) &&
  c.pend.all isJ && c.reds.isEmpty &&
  !((s.core (coreOf cid)).leases.any fun l => l.cid == some cid) && !((s.core (coreOf cid)).matq.any fun e => e.cid == cid && !e.done)

/-- A stalled slice whose context may have blocks relocated, and whose next cluster fits. -/
def curesStall (s : State) (d : Nat) : Bool :=
  (tkeys s.grids).any fun g => match s.slice g d with
    | some x => x.stalled && relOf s d (rCtx (s.grid g).rcd) && (s.placeNext g x (dieCores d)).isSome
    | none => false

/-- REGISTER_BLOCK_RELOCATE: a register block moves to the run that starts at granule `run` of its core, where that lets a stalled
cluster fit; every register keeps its value (R113). -/
def execRegisterBlockRelocate (cid run : Nat) (s : State) : Host.Outcome State Fault Refusal :=
  let c := s.cohort cid
  let b := s.blk c.blk
  let die := dieOf cid
  let core := coreOf cid
  let old := b.regs.getD c.cidx ⟨0, 0, 0⟩
  let cleared := s.setBlk c.blk { b with regs := b.regs.set c.cidx ⟨core, 0, 0⟩ }
  let moved := s.setBlk c.blk { b with regs := b.regs.set c.cidx ⟨core, run, old.len⟩ }
  if c.kind == .vacant || !mayRelocate s cid || !relOf s die c.ctx || curesStall s die ||
      allocatable (s.core core).lcb < run + old.len || 64 < run % 64 + old.len || !runFree (coreOcc cleared core none) run old.len ||
      !curesStall moved die then .next s
  else
    let d := moved.die die
    .next (moved.setDie die { d with relocs := if d.relocs == 0xFFFFFFFF then d.relocs else d.relocs + 1 })

end Sys2Proof.Machine
end

