-- ==== Sys2Proof/Machine/Matrix.lean ====
section
/-! DEFINITION. The matrix instructions, the matrix queue, unit and budget (08 R179-R182, 12 R245-R266). -/
namespace Sys2Proof.Machine

/-! ### Groups (R245) -/

/-- A group of formats. -/
inductive Group where
  | d | h | b | q
  deriving DecidableEq, Repr
/-- The group of an element format; FP32 has none. -/
def groupOf : Fmt → Option Group
  | .f64 => some .d | .f16 => some .h | .bf16 => some .h | .e4m3 => some .b | .e5m2 => some .b | .int8 _ => some .b
  | .e2m1 => some .q | .int4 _ => some .q | .dbl => some .q | .f32 => none
/-- K of a group. -/
def groupK : Group → Nat
  | .d => 4 | .h => 32 | .b => 64 | .q => 128
/-- N of a group. -/
def groupN : Group → Nat
  | .d => 8 | _ => 16
/-- Fused multiply-adds a core cycle, by the group and the plane's format. -/
def groupRate (g : Group) (plane : Fmt) : Nat :=
  match g with | .d => 48 | .h => 2048 | .b => 4096 | .q => if plane == .dbl then 16384 else 8192
/-- Bytes of a plane row (R248). -/
def rowBytes (g : Group) (f : Fmt) : Nat := groupN g * fmtBits f / 8

/-! ### The queue (08 R179, 12 R263) -/

/-- An entry has finished: a load has read every byte, an op's rows are written and its flags ORed (R263). -/
def matFinished (s : State) (e : MatEnt) : Bool :=
  e.done && (match e.vid with | some v => !((s.cohort e.cid).pend.any (·.vid == v)) | none => true)
/-- The queue without the entries that have finished, each in its cohort's order. -/
def matPrune (s : State) (q : List MatEnt) : List MatEnt :=
  q.filter fun e => (q.filter fun x => x.cid == e.cid && x.seq ≤ e.seq).any fun x => !matFinished s x
/-- The unfinished matrix ops of a cohort. -/
def matLeft (s : State) (cid : Nat) : List MatEnt := (matPrune s (s.core (coreOf cid)).matq).filter (·.cid == cid)
/-- The matrix queue has room (08 R175, R179). -/
def matRoom (s : State) (core : Nat) : Bool := (matPrune s (s.core core).matq).length < 32
/-- An entry joins the queue of the executing cohort's core. -/
def State.matPush (s : State) (e : MatEnt) : State :=
  let core := coreOf s.cur.cid
  let c := s.core core
  s.setCore core { c with seq := c.seq + 1, matq := matPrune s c.matq ++ [{ e with cid := s.cur.cid, seq := c.seq }] }
/-- An entry with nothing in it. -/
def MatEnt.empty (op : Instr) : MatEnt :=
  { cid := 0, seq := 0, vid := none, op := op, lanes := [], u := 0, c := 0, rows := [], scls := [], plane := Plane.zero,
    units := [], todo := [], got := [], bad := [], toks := [], sp := 0, since := none, started := false, done := false }

/-! ### Credit (08 R181, R182) -/

/-- The credit as of the present core cycle: grown by RATE each cycle, up to CAP. -/
def credNow (s : State) (core : Nat) : Int :=
  let c := s.core core
  let cap : Int := c.cap.toNat * 256
  min cap (c.cred + c.rate.toNat * ((s.cycOf (dieOfCore core) : Int) - c.credAt))
/-- The credit brought up to the present core cycle. -/
def State.syncCred (s : State) (core : Nat) : State :=
  s.setCore core { s.core core with cred := credNow s core, credAt := s.cycOf (dieOfCore core) }
/-- MATRIX_CREDIT_REFILL (R182 step 1). -/
def execMatrixCreditRefill (core : Nat) (s : State) : Host.Outcome State Fault Refusal := .next (s.syncCred core)
/-- POWER_MANAGEMENT_RATE_WRITE: the credit keeps what it has gained (R181). -/
def execPowerManagementRateWrite (core : Nat) (rate : BitVec 16) (s : State) : Host.Outcome State Fault Refusal :=
  let s := s.syncCred core
  .next (s.setCore core { s.core core with rate := rate })

/-! ### Loading the shadow plane (R250-R253) -/

/-- The checks of a plane load in their own order (R251): alignment, parks, translation, protection, expiry. -/
def checkPlane (s : State) (sp : BitVec 2) (align : Nat) (addr : DWord) (us : List DWord) : Chk :=
  let c := s.me
  let core := coreOf s.cur.cid
  let b := s.blk c.blk
  if addr.toNat % align != 0 then .bad (.trap .align addr s)
  else
    let tr := us.map fun a => ((⟨0, a, 8⟩ : Acs), translate s core c.ctx b sp .read a)
    let least (p : Tr → Bool) := lowest ((tr.filter fun x => p x.2).map (·.1))
    match least (· == .park) with
    | some a => .bad (s.parkOn c.ctx a false (dieOfCore core))
    | none => match least (· == .xlate) with
      | some a => .bad (.trap .xlate a
          (if sp == 0 then s.noteWalks core c.ctx ((tr.filter (·.2 == .xlate)).map (·.1.addr)) else s))
      | none => match least (fun t => t == .protect || t == .outside) with
        | some a => .bad (.trap .protect a s)
        | none =>
          let l := tr.filterMap fun x => match x.2 with | .ok k h => some (x.1, k, h) | _ => none
          let now := s.timeOf (dieOfCore core)
          match lowest ((l.filter fun x => s.lapsed x.2.1 sp b x.1.addr || s.expired now x.2.1).map (·.1)) with
          | some a => .bad (.trap .expired a s)
          | none => .ok l (if sp == 0 then us.foldl (fun s a => s.fillTlb core c.ctx a) s else s)

/-- A checked load enters the queue; with ORD = 01 the cohort waits for its bytes and acquires (R252). -/
def pushLoad (s : State) (e : MatEnt) (l : List (Acs × Nat × BitVec 2)) (ord : BitVec 2) (sc : BitVec 3) : State :=
  let vid := s.me.nextVid
  let e := { e with units := l.map fun x => (x.2.1, x.1.addr), todo := List.range l.length, vid := some vid }
  if isAcq ord then
    let s := (s.addPend .matrix [] (some sc)).matPush e
    let c := s.me
    s.setMe { c with waits := c.waits ++ [.acquire vid sc []], lastVid := some vid, lastToks := [] }
  else
    let s := s.matPush e
    let c := s.me
    s.setMe { c with nextVid := vid + 1, lastVid := some vid, lastToks := [] }

/-- The rows' units of 8 bytes. -/
def planeUnits (addr : DWord) (k rowb stride : Nat) : List DWord :=
  (List.range k).flatMap fun i => (List.range (rowb / 8)).map fun j => addr + dw (i * stride) + dw (8 * j)

/-- MLD: loads the shadow plane (R250, R251). -/
def execMld (o : M) (x : Ext) (s : State) : Host.Outcome State Fault Refusal :=
  let c := s.me
  op (.mld o x) s
    (match (slotOf c o.sz.toNat).bind fun p => (groupOf p.1.elem).map fun g => (p.1, g) with
     | none => .trap .fSlot 0 s
     | some (sl, g) =>
       let rowb := rowBytes g sl.elem
       let rstr := (x.getD 0).toNat % 2 ^ 24
       let addr := srd c o.sb.toNat + BitVec.ofInt 64 (64 * o.off.toInt)
       match checkPlane s o.sp 8 addr (planeUnits addr (groupK g) rowb (if rstr == 0 then rowb else 8 * rstr)) with
       | .bad r => r
       | .ok l s =>
         if !matRoom s (coreOf s.cur.cid) then .wait .room s
         else
           let c := s.me
           let s := s.setMe { c with shd := ⟨.loading, o.sz.toNat, [], [], .none0, 0⟩ }
           .done (pushLoad s { MatEnt.empty (.mld o x) with sp := o.sp } l o.ord o.sc))

/-- MLDSC: loads the shadow plane's block scales (R251, R253). -/
def execMldsc (o : M) (s : State) : Host.Outcome State Fault Refusal :=
  let c := s.me
  op (.mldsc o) s
    (match (slotOf c o.sz.toNat).bind fun p => (groupOf p.1.elem).map fun g => (p.1, g) with
     | none => .trap .fSlot 0 s
     | some (sl, g) =>
       if sl.sf == 0 || c.shd.st == .empty || c.shd.slot != o.sz.toNat then .trap .fSlot 0 s
       else
         let addr := srd c o.sb.toNat + BitVec.ofInt 64 (32 * o.off.toInt)
         match checkPlane s o.sp 32 addr (planeUnits addr (groupK g / sl.bs) (groupN g) (groupN g)) with
         | .bad r => r
         | .ok l s =>
           if !matRoom s (coreOf s.cur.cid) then .wait .room s
           else .done (pushLoad s { MatEnt.empty (.mldsc o) with sp := o.sp } l o.ord o.sc))

/-- The bytes of a load's unit as its core reads them (R252): its line cache's, its own on their way home, else its home's. -/
def unitBytes (s : State) (core key : Nat) : List Byte :=
  (List.range 8).map fun i => if isScratch key then s.byte (key + i)
    else (lcByte s core (key + i)).getD ((ownByte s core (key + i)).getD (s.byte (key + i)))
/-- The tokens those bytes carry (15 R309). -/
def unitToks (s : State) (core key : Nat) : List Token :=
  toksOf (if !isScratch key && (lcByte s core key).isSome then (s.lc core (lineOf key)).toks else s.tokens) ((List.range 8).map (key + ·))
/-- Why a unit's byte cannot be read (R251): its granule has expired or lapsed, or it is poisoned. -/
def unitFault (s : State) (core : Nat) (b : Blk) (sp : BitVec 2) (u : Nat × DWord) : Option (Cause × DWord) :=
  if s.lapsed u.1 sp b u.2 || s.expired (s.timeOf (dieOfCore core)) u.1 then some (.expired, u.2)
  else ((List.range 8).find? fun i => unitPoisoned s (u.1 + i) 1 || unitDown s (u.1 + i)).map fun i => (.poison, u.2 + dw i)
/-- The element codes of a plane's bytes, k·N + n (R248). -/
def planeCodes (f : Fmt) (bs : List Byte) : List Nat :=
  let w := fmtBits f
  if w == 4 then bs.flatMap fun b => [b.toNat % 16, b.toNat / 16]
  else (List.range (bs.length * 8 / w)).map fun i => leNat ((bs.drop (i * (w / 8))).take (w / 8))

/-- A matrix op that loads a plane. -/
def isLoad (i : Instr) : Bool := match i with | .mld _ _ => true | .mldsc _ => true | _ => false

/-- A load can read a unit now (R252): no claim and no lease of its core stands on the line, no earlier atomic or load of its cohort on the unit is
still to be made. -/
def unitCan (s : State) (core : Nat) (e : MatEnt) (u : Nat × DWord) : Bool :=
  let earlier (x : MatEnt) : Bool := x.cid == e.cid && x.seq < e.seq && x.left.any fun v => overlap u.1 8 v.1 8
  !((s.core core).matq.any earlier) &&
  (isScratch u.1 ||
    (((lcByte s core u.1).isSome || (s.dirEnt (lineOf u.1)).clm.isEmpty) &&
      !((s.core core).leases.any fun x => x.line == lineOf u.1 && x.cid != some e.cid) && !atomLate s e.cid [(u.1, 8)] &&
      !((s.cohort e.cid).pend.any fun p => match p.kind with
        | .load lanes _ need => lanes.any fun r => need.any (·.1 == lineOf r.key) && overlap u.1 8 r.key r.size
        | _ => false)))

/-- A load reads one of its units (R251, R252). -/
def MatEnt.readUnit (s : State) (core : Nat) (e : MatEnt) (i : Nat) : MatEnt :=
  match e.units[i]? with
  | none => e
  | some u =>
    { e with
      todo := e.todo.erase i, got := tput 0 e.got i (dw (leNat (unitBytes s core u.1))), toks := e.toks ++ unitToks s core u.1,
      bad := e.bad ++ (unitFault s core (s.blk (s.cohort e.cid).blk) e.sp u).toList }

/-- The shadow plane after a load has read its bytes, or has failed (R250, R251, R253). -/
def loadedPlane (c : Cohort) (e : MatEnt) : Plane :=
  let p := c.shd
  let bs := (List.range e.units.length).flatMap fun i => leBytes 8 (tget 0 e.got i).toNat
  match minBy (fun f => f.2.toNat) e.bad, e.op with
  | some f, .mld _ _ => { p with st := .failed, cause := f.1, info := f.2 }
  | some f, _ => if p.st == .failed then p else { p with st := .failed, cause := f.1, info := f.2 }
  | none, .mld o _ =>
    match slotOf c o.sz.toNat with
    | none => p
    | some (sl, _) =>
      let n := match groupOf sl.elem with | some g => groupK g / sl.bs * groupN g | none => 0
      { p with st := .valid, codes := planeCodes sl.elem bs,
               scales := if sl.sf == 1 then List.replicate n 0x7F else if sl.sf == 2 then List.replicate n 0x38 else [] }
  | none, _ => { p with scales := bs.map (·.toNat) }

/-- Entry `seq` of a core's matrix queue replaced. -/
def State.setMat (s : State) (core : Nat) (e : MatEnt) : State :=
  let k := s.core core
  s.setCore core { k with matq := k.matq.map fun x => if x.seq == e.seq then e else x }

/-- A load all of whose units are read, after every earlier load of its cohort: the shadow plane is written, an acquire goes on. -/
def State.planeDone (s : State) (core : Nat) : State :=
  let q := (s.core core).matq
  match q.find? fun e => isLoad e.op && !e.done && e.todo.isEmpty &&
      q.all (fun x => !(x.cid == e.cid && x.seq < e.seq && isLoad x.op && !x.done)) with
  | none => s
  | some e =>
    let c := s.cohort e.cid
    let c := { c with
      shd := loadedPlane c e, pend := c.pend.map fun p => if some p.vid == e.vid then { p with kind := .known } else p }
    (s.setCohort e.cid (noteToks c (e.vid.getD 0) e.toks.eraseDups)).setMat core { e with done := true }

/-- PLANE_LOAD_COMPLETE: a load of the core reads one more of its 8-byte units, in whatever order; one that has read them all writes its plane (R251,
R252). -/
def execPlaneLoadComplete (core : Nat) (s : State) : Host.Outcome State Fault Refusal :=
  let q := (s.core core).matq
  let cands := q.flatMap fun e => (e.todo.filter fun i => (e.units[i]?).any (unitCan s core e)).map fun i => (e, i)
  let p := s.choose cands.length
  .next (match cands[p.1]? with
    | none => s.planeDone core
    | some (e, i) => (p.2.setMat core (e.readUnit p.2 core i)).planeDone core)

/-- MSWP: joins the queue, and exchanges the planes once the cohort's loads have read their bytes (R254, 08 R179). -/
def execMswp (o : G3) (s : State) : Host.Outcome State Fault Refusal :=
  let core := coreOf s.cur.cid
  let mine (e : MatEnt) : Bool := e.cid == s.cur.cid && e.op == .mswp o && !e.done
  let queued := (s.core core).matq.any mine
  op (.mswp o) s
    (if !queued && !matRoom s core then .wait .room s
     else
       let s := if queued then s else s.matPush (MatEnt.empty (.mswp o))
       let k := s.core core
       let c := s.me
       if k.matq.any fun e => e.cid == s.cur.cid && isLoad e.op && !e.done then .wait .other s
       else if c.shd.st == .failed then .trap c.shd.cause c.shd.info (s.setCore core { k with matq := k.matq.filter fun e => !mine e })
       else .done ((s.setCore core { k with matq := k.matq.map fun e => if mine e then { e with done := true } else e }).setMe
         { c with act := c.shd, shd := c.act }))

/-! ### Multiply and accumulate (R256-R262) -/

/-- Element k of a lane's A row (R247). -/
def aCode (c : Cohort) (g : Group) (f : Fmt) (va l k : Nat) : Nat :=
  if g == .d then (vrd2 c (va + 2 * k) l).toNat else runCode c (fmtBits f) va l k
/-- Registers a lane's A row takes. -/
def aRegs (g : Group) (f : Fmt) : Nat := if g == .d then 8 else groupK g * fmtBits f / 32
/-- Registers a lane's A scales take. -/
def sRegs (g : Group) (sl : Slot) : Nat := if sl.sf == 0 then 0 else (groupK g / sl.bs + 3) / 4
/-- KLIM and CSKIP of an op (R256). -/
def klimOf (x : Ext) : Nat := (x.getD 0).toNat / 2 ^ 16 % 256
def cskipOf (x : Ext) (n : Nat) : Bool := (x.getD 0).getLsbD n
/-- The sum is an INT32 one (R73). -/
def intAcc (pa pb : Slot) : Bool :=
  (pa.elem == .int8 false || pa.elem == .int4 false) && !pa.cen && (pb.elem == .int8 false || pb.elem == .int4 false) && !pb.cen
/-- The charge U and the cycles c of an op (08 R180). -/
def matCharge (w : Nat) (g : Group) (pa pb : Fmt) (rows : List (List Nat)) : Nat × Nat :=
  let rate := groupRate g pb
  let c := (w * groupK g * groupN g + rate - 1) / rate
  let bw := fmtBits pa
  let t := (rows.map fun r => ((List.range (groupK g - 1)).map fun k => popcount bw (r.getD k 0 ^^^ r.getD (k + 1) 0)).sum).sum
  let tmax := rows.length * (groupK g - 1) * bw
  let q := if tmax == 0 then 0 else 12 * t / tmax
  ((c * (4 + q) + 15) / 16, c)

/-- The shared meaning of `mmac` and `mmacz` at issue (R257, R258): checks, the A rows and scales read, the entry queued, its charge
added to MUSED (R264). -/
def matIssue (i : Instr) (o : G3) (x : Ext) (s : State) : Host.Outcome State Fault Refusal :=
  let c := s.me
  let lanes := s.active o.g
  let pa := (slotOf c o.ty.toNat).bind fun p => (groupOf p.1.elem).map fun g => (p.1, g)
  let regsA := match pa with
    | some (sl, g) => (List.range (aRegs g sl.elem)).map (o.va.toNat + ·) ++ (List.range (sRegs g sl)).map (o.vb.toNat + ·)
    | none => []
  opReading i (regsA.flatMap fun r => lanes.map fun l => (r, l)) s
    (match pa with
     | none => .trap .fSlot 0 s
     | some (sl, g) =>
       if c.act.st == .empty then .trap .illegal 0 s
       else match slotOf c c.act.slot with
         | none => .trap .fSlot 0 s
         | some (pb, _) =>
           let tops := [o.va.toNat + aRegs g sl.elem - 1, o.vd.toNat + 15] ++
             (if sl.sf == 0 then [] else [o.vb.toNat + sRegs g sl - 1])
           if groupOf pb.elem != some g then .trap .fSlot 0 s
           else if groupK g < klimOf x || (g == .d && (o.va.toNat % 2 == 1 || o.vd.toNat % 2 == 1)) then .trap .illegal 0 s
           else match runBad c tops with
             | some info => .trap .regRange info s
             | none =>
               if !matRoom s (coreOf s.cur.cid) then .wait .room s
               else
                 let rows := lanes.map fun l => (List.range (groupK g)).map fun k => aCode c g sl.elem o.va.toNat l k
                 let scls := lanes.map fun l => if sl.sf == 0 then [] else
                   (List.range (groupK g / sl.bs)).map fun b => scaleByte c (o.vb.toNat + b / 4) l (b % 4)
                 let ch := matCharge c.w g sl.elem pb.elem rows
                 let s := (s.addPend .matrix [] none).matPush { MatEnt.empty i with
                   vid := some c.nextVid, lanes := lanes, u := ch.1, c := ch.2, rows := rows, scls := scls, plane := c.act }
                 let c := s.me
                 .done (s.setMe { c with mused := c.mused + dw ch.1 }))

/-- MMAC (R258). -/
def execMmac (o : G3) (x : Ext) (s : State) := matIssue (.mmac o x) o x s
/-- MMACZ (R258). -/
def execMmacz (o : G3) (x : Ext) (s : State) := matIssue (.mmacz o x) o x s

/-- Column n of a lane: the accumulator's new code and its flags. `row` and `scl` are the lane's A codes and scales, `acc` its old
code, none for a zeroed accumulator (R258). -/
def matCell (g : Group) (pa pb : Slot × Comp) (plane : Plane) (kk n : Nat) (row scl : List Nat) (acc : Option Nat) : Nat × Flags :=
  let ks := List.range kk
  let a := ks.map fun k => fetchElem pa.1 pa.2 (row.getD k 0) (scl.getD (k / pa.1.bs) 0)
  let b := ks.map fun k => fetchElem pb.1 pb.2 (plane.codes.getD (k * groupN g + n) 0)
    (plane.scales.getD (k / pb.1.bs * groupN g + n) 0)
  let fl := orFlags ((a ++ b).map (·.2))
  let r := if g == .d then matChain (a.map (·.1)) (b.map (·.1)) (acc.getD (2 ^ 63)) 0
    else if intAcc pa.1 pb.1 then
      let iv (w : Nat) (v : Nat) : Int := tyVal ⟨w, true⟩ v
      matInt (ks.map fun k => iv (fmtBits pa.1.elem) (row.getD k 0))
        (ks.map fun k => iv (fmtBits pb.1.elem) (plane.codes.getD (k * groupN g + n) 0)) (acc.getD 0)
    else matSum (a.map (·.1)) (b.map (·.1)) (match acc with | some v => decodeFloat .f32 v | none => .fin true 0 1)
  (r.1, fl ||| r.2)

/-- What a started op computes from the accumulators as they stand: its rows and flags (R258). -/
def matResult (c : Cohort) (e : MatEnt) : List Wr × Flags :=
  let go (o : G3) (x : Ext) (zeroed : Bool) : List Wr × Flags :=
    match slotOf c o.ty.toNat, slotOf c e.plane.slot with
    | some pa, some pb =>
      match groupOf pa.1.elem with
      | none => ([], 0)
      | some g =>
        let kk := if klimOf x == 0 then groupK g else klimOf x
        let cells := (List.range e.lanes.length).flatMap fun i =>
          ((List.range (groupN g)).filter fun n => !cskipOf x n).map fun n =>
            let l := e.lanes.getD i 0
            let old := if g == .d then (vrd2 c (o.vd.toNat + 2 * n) l).toNat else (vrd c (o.vd.toNat + n) l).toNat
            (l, n, matCell g pa pb e.plane kk n (e.rows.getD i []) (e.scls.getD i []) (if zeroed then none else some old))
        let ws := cells.flatMap fun t =>
          if g == .d then [⟨.v (o.vd.toNat + 2 * t.2.1) t.1, dw t.2.2.1⟩, ⟨.v (o.vd.toNat + 2 * t.2.1 + 1) t.1, dw (t.2.2.1 / 2 ^ 32)⟩]
          else [(⟨.v (o.vd.toNat + t.2.1) t.1, dw t.2.2.1⟩ : Wr)]
        (ws, orFlags (cells.map fun t => t.2.2.2))
    | _, _ => ([], 0)
  match e.op with
  | .mmac o x => go o x false
  | .mmacz o x => go o x true
  | _ => ([], 0)

/-- The oldest entry of each cohort, where it is a multiply still to start (R182 step 2). -/
def matCandidates (q : List MatEnt) : List MatEnt :=
  q.filter fun e => !e.started && (match e.op with | .mmac _ _ => true | .mmacz _ _ => true | _ => false) &&
    q.all fun x => !(x.cid == e.cid && x.seq < e.seq)
/-- The entry the unit chooses: the oldest passed over for 1,024 cycles, else the lowest U, ties to the older (R182). -/
def matChoose (q : List MatEnt) (now : Nat) : Option MatEnt :=
  let l := matCandidates q
  match minBy (·.seq) (l.filter fun e => match e.since with | some t => t + 1024 ≤ now | none => false) with
  | some e => some e
  | none => minBy (fun e => e.u * 2 ^ 64 + e.seq) l

/-- The entry the unit has chosen and which waits for credit, else the one it chooses (R182 steps 2, 5). -/
def matNext (c : CoreSt) (now : Nat) : Option MatEnt :=
  match c.matPick.bind fun n => (matCandidates c.matq).find? (·.seq == n) with
  | some e => some e
  | none => matChoose c.matq now

/-- MATRIX_START: with the unit free, an entry is chosen, those passed over note it; it starts once the credit suffices, reads its accumulators and
computes, and until then no other starts (R182, R258). -/
def execMatrixStart (core : Nat) (s : State) : Host.Outcome State Fault Refusal :=
  let s := s.syncCred core
  let c := { s.core core with matq := matPrune s (s.core core).matq }
  let now := s.cycOf (dieOfCore core)
  match c.matRun, matNext c now with
  | none, some e =>
    let cap : Int := c.cap.toNat * 256
    let cost : Int := (e.u : Int) * 256
    let cands := matCandidates c.matq
    let passed (x : MatEnt) : MatEnt :=
      if x.seq != e.seq && x.since.isNone && cands.any (·.seq == x.seq) then { x with since := some now } else x
    let q := c.matq.map passed
    if c.rate == 0 || cost ≤ c.cred || (cap < cost && c.cred == cap) then
      let r := matResult (s.cohort e.cid) e
      .next (s.setCore core { c with
        cred := if c.rate == 0 then c.cred else c.cred - cost, matPick := none,
        matq := q.map fun x => if x.seq == e.seq then { x with started := true } else x, matRun := some ⟨e, now + e.c, r.1, r.2⟩ })
    else .next (s.setCore core { c with matq := q, matPick := some e.seq })
  | _, _ => .next (s.setCore core c)

/-- MATRIX_COMPLETE: after its cycles the op's result has come (R260, R261). `bad1` are the lanes whose first result mismatches its
residue, `bad2` those whose second does: they keep their old rows and the cohort traps E_SOFT. -/
def execMatrixComplete (core : Nat) (bad1 bad2 : DWord) (s : State) : Host.Outcome State Fault Refusal :=
  let k := s.core core
  match k.matRun with
  | none => .next s
  | some r =>
    if s.cycOf (dieOfCore core) < r.endAt then .next s
    else
      let e := r.ent
      let c := s.cohort e.cid
      let lanes := maskOf e.lanes
      let bad := if bad1 &&& lanes == 0 then 0 else bad2 &&& lanes
      let keep (w : Wr) : Bool := match w.dst with | .v _ l => !bad.getLsbD l | .s _ => true
      let pend := c.pend.map fun p =>
        if some p.vid == e.vid then { p with kind := .known, writes := r.writes.filter keep, flags := r.flags } else p
      let frag := ((c.pend.find? fun p => some p.vid == e.vid).map (·.frag)).getD 0
      let c := { c with pend := pend }
      let c := if bad == 0 then c else deferTrap c frag .soft bad false
      let s := (s.setCohort e.cid c).setCore core { k with
        matRun := none,
        matq := k.matq.map fun x => if x.cid == e.cid && x.seq == e.seq then { x with done := true } else x }
      .next (if bad1 &&& lanes == 0 then s
        else s.mcRecord c.ctx (if bad == 0 then 0 else 1) 7 (dieOfCore core) (core % coresPerDie) 0)

/-! ### Waiting and the budget (R263, R264) -/

/-- MWAIT: until at most n earlier matrix ops remain unfinished and their traps are delivered (R263). -/
def execMwait (o : G3) (s : State) : Host.Outcome State Fault Refusal :=
  op (.mwait o) s (if !s.me.dtraps.isEmpty then .stop s else if (matLeft s s.cur.cid).length ≤ o.vb.toNat then .done s else .wait .other s)
/-- MBUD.USED (R264). -/
def execMbudUsed (o : G3) (s : State) : Host.Outcome State Fault Refusal :=
  writeS (.mbudUsed o) s o.vd s.me.mused
/-- CRED of MBUDGET: the floor of the present credit in 16 bits, two's complement (08 R181). -/
def credField (s : State) (core : Nat) : BitVec 16 := BitVec.ofInt 16 (Int.fdiv (credNow s core) 256)
/-- MBUD.CRED: CRED, sign-extended (R264, 08 R181). -/
def execMbudCred (o : G3) (s : State) : Host.Outcome State Fault Refusal :=
  writeS (.mbudCred o) s o.vd ((credField s (coreOf s.cur.cid)).signExtend 64)

end Sys2Proof.Machine
end

