-- ==== Sys2Proof/Machine/Time.lean ====
section
/-! DEFINITION. Clocks, TIME, event records, accounting and self-test (15 R303-R313, 22 R438-R444). -/
namespace Sys2Proof.Machine

/-! ### Clocks and TIME (15 R303, R305, R313) -/

/-- CYC_CNT: the core cycles of this die since its last die reset (R305). -/
def execCycCnt (o : G3) (s : State) : Host.Outcome State Fault Refusal :=
  writeS (.cycCnt o) s o.vd (s.die (dieOf s.cur.cid)).cyc
/-- CYC_MHZ: FCUR of this die (R305). -/
def execCycMhz (o : G3) (s : State) : Host.Outcome State Fault Refusal :=
  writeS (.cycMhz o) s o.vd ((s.die (dieOf s.cur.cid)).fcur.zeroExtend 64)

/-- The bounds `tget` reports: against external time from TERR, and 64 units of package time (R313). -/
def timeBounds (terr : DWord) : DWord :=
  dw ((if terr.getLsbD 63 then bits terr 0 32 else 0xFFFFFFFF) * 2 ^ 32 + 64)
/-- TGET (R313). -/
def execTget (o : G3) (s : State) : Host.Outcome State Fault Refusal :=
  let n := o.vd.toNat
  op (.tget o) s (.done ((s.setS n (s.timeOf (dieOf s.cur.cid))).setS (n + 1) (timeBounds s.terr)))

/-- CLOCK_CHANGE: power management sets FCUR within FMIN to FMAX; no cycle is lost or repeated (R303). -/
def execClockChange (die : Nat) (mhz : BitVec 16) (s : State) : Host.Outcome State Fault Refusal :=
  let d := s.die die
  .next (if die < 12 && d.fmin.toNat ≤ mhz.toNat && mhz.toNat ≤ d.fmax.toNat then s.setDie die { d with fcur := mhz } else s)

/-! ### Event records (22 R442, R443) -/

/-- log2 of the records of a ring register, where it names a ring. -/
def ringLgn (r : DWord) : Option Nat := let n := bits r 0 5; if 4 ≤ n && n ≤ 16 then some n else none

/-- An event is given its number, and a record where its slot holds no unread one; `place` is the word at 0x10 (R442). With no ring
there is no event. -/
def State.eventRecord (s : State) (time place val : DWord) : Option (DWord × State) :=
  match ringLgn s.evring with
  | none => none
  | some lgn =>
    let w := bits s.evidx 0 32
    let t := { s with evseq := s.evseq + 1, evidx := setBits s.evidx 0 32 (w + 1) }
    let full := 2 ^ lgn ≤ (w + 2 ^ 32 - bits s.evidx 32 32) % 2 ^ 32
    let a := bits s.evring 12 52 * 4096 + 32 * (w % 2 ^ lgn)
    some (s.evseq, if full then t
      else (((t.setSysWord a s.evseq).setSysWord (a + 8) time).setSysWord (a + 16) place).setSysWord (a + 24) val)

/-- The place of a mark: context, KIND 0, tag, die, core, slot. -/
def markPlace (ctx tag cid : Nat) : DWord :=
  dw (ctx * 2 ^ 48 + tag * 2 ^ 32 + dieOf cid * 2 ^ 28 + coreOf cid % coresPerDie * 2 ^ 21 + cid % slotsPerCore)

/-- MON_MARK (R443). -/
def execMonMark (o : GI) (s : State) : Host.Outcome State Fault Refusal :=
  let c := s.me
  op (.monMark o) s
    (match s.eventRecord (s.timeOf (dieOf s.cur.cid)) (markPlace c.ctx o.imm.toNat s.cur.cid) (sreg c o.va) with
     | some (n, s) => .done (s.setS o.vd.toNat n)
     | none => .done (s.setS o.vd.toNat allOnes))

/-! ### Accounting (22 R444)

Ctx.acct holds what a die has counted and not yet added, keyed 16·die + field; field i stands at offset 8i of the record. -/

/-- The record of a context in a die's accounting area. -/
def acctAddr (s : State) (die ctx : Nat) : Nat := bits (s.die die).acctBase 23 41 * 2 ^ 23 + 128 * ctx

/-- A die adds its counts of a context into the record; under TOTAL only RES. A word it cannot read is a lost update (13 R461). -/
def State.account (s : State) (die ctx : Nat) : State :=
  let x := s.ctx ctx
  let s := s.setCtx ctx { x with acct := x.acct.filter fun p => p.1 / 16 != die }
  if (s.die die).acctBase.getLsbD 0 then
    (List.range (if x.acctmode.getLsbD 0 then 13 else 1)).foldl (fun s i =>
      let n := tget 0 x.acct (16 * die + i)
      let a := acctAddr s die ctx + 8 * i
      if n == 0 then s
      else if sysOk s a then s.setSysWord a (sysWord s a + dw n)
      else s.mcRecord ctx 1 9 die 0 (dw a)) s
  else s

/-- ACCOUNTING_UPDATE (R444). -/
def execAccountingUpdate (die ctx : Nat) (s : State) : Host.Outcome State Fault Refusal :=
  .next (if die < 12 then s.account die ctx else s)

/-- Every die adds its counts of a context. -/
def State.accountAll (s : State) (ctx : Nat) : State := (List.range 12).foldl (fun s d => s.account d ctx) s

/-- A write of ACCTMODE: every die adds its counts first; when MODE changes, the DETAIL words start again from 0 (R404, R444). -/
def State.setAcctMode (s : State) (ctx : Nat) (v : DWord) : State :=
  let s := s.accountAll ctx
  let x := s.ctx ctx
  if x.acctmode.getLsbD 0 == v.getLsbD 0 then s
  else
    (List.range 12).foldl (fun s d =>
      if (s.die d).acctBase.getLsbD 0 then
        (List.range 12).foldl (fun s i => s.setSysWord (acctAddr s d ctx + 8 * (i + 1)) 0) s
      else s) (s.setCtx ctx { x with acctmode := v &&& 1 })

/-! ### Self-test (22 R438, R439) -/

/-- The unit a suite tests, where its operand names one; the issuing core for suites 1 to 3. -/
def bistUnit (cid suite : Nat) (a : DWord) : Option Nat :=
  match suite with
  | 4 => if a.toNat ≤ 23 then some (dieOf cid * 24 + a.toNat) else none
  | 5 => if a.toNat ≤ 19 then some a.toNat else none
  | _ => some (coreOf cid)

/-- Another `bist` holds the unit. -/
def bistBusy (s : State) (cid suite unit : Nat) : Bool :=
  s.cohorts.any fun p => p.1 != cid && p.2.bist.any fun b => b.suite == suite && b.unit == unit && b.result.isNone

/-- The free allocatable granules of a core. -/
def freeRuns (s : State) (core : Nat) : Occ :=
  let occ := coreOcc s core none
  ((List.range (allocatable (s.core core).lcb)).filter fun g => runFree occ g 1).map fun g => (g, 1)

/-- BIST: a privileged suite starts, the op waits for itself, and the result is written once the suite has ended (R438). A suite on the
line cache first waits until no lease lasts, then writes back and empties the region (R439). -/
def execBist (o : GI) (s : State) : Host.Outcome State Fault Refusal :=
  let cid := s.cur.cid
  let c := s.me
  let suite := o.imm.toNat
  let core := coreOf cid
  op (.bist o) s
    (if !c.priv then .trap .priv (dw suite) s
     else if suite == 0 || 5 < suite then .trap .illegal (dw suite) s
     else match bistUnit cid suite (sreg c o.va) with
       | none => .trap .illegal 0 s
       | some unit =>
         match c.bist with
         | some b =>
           (match b.result with
            | some v => .done ((s.setMe { c with bist := none }).setS o.vd.toNat v)
            | none => .wait .other s)
         | none =>
           if bistBusy s cid suite unit then .done (s.setS o.vd.toNat 2)
           else if suite == 3 && !(s.core core).leases.isEmpty then .wait .lease s
           else
             let s := if suite == 3 then (s.linesOf core).foldl (fun s l => s.writeBack core l) s
               else if suite == 4 then s.flushSram unit else s
             .wait .other (s.setMe { s.me with bist := some ⟨suite, unit, if suite == 2 then freeRuns s core else [], s.ptime, none⟩ }))

/-- What a suite finds is the hardware's own: pass, or fail with a count of failing units and the lowest; suite 5 may find no spare
lane unused (R438, R439). -/
def bistResult (s : State) (suite : Nat) : DWord × State :=
  let (n, s) := s.choose (if suite == 5 then 3 else 2)
  let w := Config.word s.free
  let s := { s with free := s.free + 1 }
  (match n with
   | 0 => 0
   | 1 => dw (max 1 (bits w 32 32) * 2 ^ 32 + bits w 8 24 * 256 + 1)
   | _ => 2, s)

/-- BIST_SUITE_END: the suite ends (R439); one on the line cache leaves the region empty once its write-backs are made, and the
granules of one on scratch are free again, which placement sees (05 R111). -/
def execBistSuiteEnd (cid : Nat) (s : State) : Host.Outcome State Fault Refusal :=
  let c := s.cohort cid
  let core := coreOf cid
  match c.bist with
  | none => .next s
  | some b =>
    if b.result.isSome then .next s
    else if b.suite == 3 && ((s.linesOf core).any fun l => (s.lc core l).dirty != 0) then
      .next ((s.linesOf core).foldl (fun s l => s.writeBack core l) s)
    else
      let s := if b.suite == 3 then
          (s.linesOf core).foldl (fun s l => if (leased s core l).isSome then s else s.setLc core l LcEnt.none) s else s
      let p := bistResult s b.suite
      let s := p.2.setCohort cid { p.2.cohort cid with bist := some { b with held := [], result := some p.1 } }
      .next (if b.suite == 2 then s.passSoon (dieOf cid) else s)

end Sys2Proof.Machine
end

