-- ==== Sys2Proof/Machine/System.lean ====
section
/-! DEFINITION. System registers, traps and the host's trap records (03 R68, R69, 08 R181, 16 R330, 18 R369, 19 R395, R398,
20 R399-R411). -/
namespace Sys2Proof.Machine

/-! ### System registers (20 R402-R405) -/

/-- FREDFLAGS: the OR of the context's words on all dies (18 R369). -/
def fredAll (x : Ctx) : DWord := (List.range 12).foldl (fun v d => v ||| tget 0 x.fred d) 0

/-- MBUDGET as a read finds it: the credit rounded down, CAP, RATE (08 R181). -/
def mbudget (s : State) (core : Nat) : DWord :=
  let c := s.core core
  dw ((credField s core).toNat * 2 ^ 32 + c.cap.toNat * 2 ^ 16 + c.rate.toNat)

/-- A system register as the executing cohort reads it; none where the number is unassigned. -/
def sysReg (s : State) (n : Nat) : Option DWord :=
  let c := s.me
  let x := s.ctx c.ctx
  let core := coreOf s.cur.cid
  match n with
  | 0x000 => some c.fstat
  | 0x001 => some c.fmode
  | 0x002 => some (dw (c.lprio.toNat * 256 + c.prio.toNat))
  | 0x003 => some c.tcause
  | 0x004 => some c.tinfo
  | 0x005 => some c.tpc
  | 0x006 => some c.sav0
  | 0x007 => some c.sav1
  | 0x010 => some (dw ((if c.priv then 2 ^ 16 else 0) + c.ctx))
  | 0x011 => some x.traphdr
  | 0x012 => some x.tskfmt
  | 0x013 => some (fredAll x)
  | 0x014 => some x.wdogcfg
  | 0x015 => some x.wdogxw
  | 0x016 => some x.acctmode
  | 0x020 => some (mbudget s core)
  | 0x021 => some ((s.core core).leasecfg.zeroExtend 64)
  | 0x030 => some s.terr
  | _ => none

/-- The registers no `sys.wr` writes. -/
def sysReadOnly (n : Nat) : Bool := [0x003, 0x004, 0x005, 0x010, 0x030].contains n
/-- The registers only a privileged context writes. -/
def sysPrivileged (n : Nat) : Bool := [0x014, 0x015, 0x016, 0x020, 0x021].contains n

/-- FMODE after a write: a RM of 000 or 111 leaves RM (03 R69). -/
def fmodeWrite (old v : DWord) : DWord :=
  let rm := if bits v 5 3 == 0 || bits v 5 3 == 7 then bits old 5 3 else bits v 5 3
  dw (bits v 8 5 * 256 + rm * 32 + bits v 0 5)

/-- WDOGCFG after a write: a PERIOD of 0 is ignored (19 R398). -/
def wdogWrite (old v : DWord) : DWord :=
  dw ((if bits v 16 16 == 0 then bits old 16 16 else bits v 16 16) * 2 ^ 16 + bits v 0 1)

/-- The write of a system register that may be written, by its field map (00 R4). -/
def State.setSysReg (s : State) (n : Nat) (v : DWord) : State :=
  let c := s.me
  let x := s.ctx c.ctx
  let core := coreOf s.cur.cid
  match n with
  | 0x000 => s.setMe { c with fstat := v &&& 0x3F }
  | 0x001 => s.setMe { c with fmode := fmodeWrite c.fmode v }
  | 0x002 =>
    let p : BitVec 3 := v.extractLsb' 0 3
    s.setMe { c with prio := if !c.priv && c.lprio.toNat < p.toNat then c.lprio else p }
  | 0x006 => s.setMe { c with sav0 := v }
  | 0x007 => s.setMe { c with sav1 := v }
  | 0x011 => s.setCtx c.ctx { x with traphdr := v &&& ~~~(6#64) }
  | 0x012 => s.setCtx c.ctx { x with tskfmt := v &&& ~~~(0xFE#64) }
  | 0x013 =>
    s.setCtx c.ctx { x with fred := (List.range 12).foldl (fun t d => tput 0 t d (tget 0 t d &&& ~~~(v &&& 0xDD))) x.fred }
  | 0x014 => s.setCtx c.ctx { x with wdogcfg := wdogWrite x.wdogcfg v }
  | 0x015 => s.setCtx c.ctx { x with wdogxw := v &&& 0x0000FFFFFFFFF03F }
  | 0x016 => s.setAcctMode c.ctx v
  | 0x020 =>
    let s := s.syncCred core
    let k := s.core core
    let cap := if bits v 16 16 == 0 then k.cap else v.extractLsb' 16 16
    s.setCore core { k with cap := cap, rate := v.extractLsb' 0 16, cred := min k.cred ((cap.toNat : Int) * 256) }
  | 0x021 =>
    let k := s.core core
    let l := if 4 < bits v 0 3 then k.leasecfg.toNat % 8 else bits v 0 3
    s.setCore core { k with leasecfg := BitVec.ofNat 4 (bits v 3 1 * 8 + l) }
  | _ => s

/-- SYS_RD (R410). -/
def execSysRd (o : GI) (s : State) : Host.Outcome State Fault Refusal :=
  op (.sysRd o) s
    (match sysReg s o.imm.toNat with
     | none => .trap .illegal (o.imm.zeroExtend 64) s
     | some v => if s.me.pend.isEmpty then .done (s.setS o.vd.toNat v) else .wait .results s)

/-- SYS_WR (R403, R410). -/
def execSysWr (o : GI) (s : State) : Host.Outcome State Fault Refusal :=
  let n := o.imm.toNat
  op (.sysWr o) s
    (match sysReg s n with
     | none => .trap .illegal (o.imm.zeroExtend 64) s
     | some _ =>
       if sysReadOnly n || (sysPrivileged n && !s.me.priv) then .trap .priv (o.imm.zeroExtend 64) s
       else .done (s.setSysReg n (sreg s.me o.va)))

/-! ### Traps (20 R406-R411) -/

/-- TRAP: a code outside 0x01-0x16 is illegal; else the op completes and then raises it (R410). -/
def execTrap (o : GI) (s : State) : Host.Outcome State Fault Refusal :=
  let c := s.me
  op (.trap o) s
    (match if o.imm.toNat == 0 then none else causes[o.imm.toNat - 1]? with
     | none => .trap .illegal (o.imm.zeroExtend 64) s
     | some k => .done (s.setMe (deferTrap c s.cur.frag k (sreg c o.va) true none (wordNo c s.cur.frag))))

/-- The shared meaning of `rett` and its variants (R411). -/
def rett (s : State) (how : Return) : Res :=
  if !inHandler s.me then .trap .illegal 0 s
  else match how with
    | .to h => if h.toNat % 8 != 0 then .trap .badTarget h s else .done (s.returnTrap s.cur.cid how)
    | _ => .done (s.returnTrap s.cur.cid how)

/-- RETT (R411). -/
def execRett (o : G3) (s : State) : Host.Outcome State Fault Refusal := op (.rett o) s (rett s .again)
/-- RETT_SKIP (R411). -/
def execRettSkip (o : G3) (s : State) : Host.Outcome State Fault Refusal := op (.rettSkip o) s (rett s .skip)
/-- RETT_TO (R411). -/
def execRettTo (o : G3) (s : State) : Host.Outcome State Fault Refusal := op (.rettTo o) s (rett s (.to (sreg s.me o.va)))

/-- HALT: once the results are written, a host record with CODE 0x00, and every fragment stops; the resume point is the next word
(R410). -/
def execHalt (o : G3) (s : State) : Host.Outcome State Fault Refusal :=
  let cid := s.cur.cid
  let c := s.me
  let e := s.frag.placeAt (afterWord s.frag)
  let cause := trapCause e .none0 false (bits c.tcause 62 1 == 1) ||| (if inHandler c then inhBit else 0)
  op (.halt o) s
    (if !quiet c then .wait .results s
     else .done ((s.setMe { c with waits := c.waits ++ [.host false] }).hostRecord c.ctx cause 0 e.hdr (placeWord c.ctx cid)
       (s.timeOf (dieOf cid)) (sreg c o.va)))

/-- TRAP_DELIVERY: between words, with every result written, a cohort takes the trap it owes (R407). -/
def execTrapDelivery (cid : Nat) (s : State) : Host.Outcome State Fault Refusal :=
  let c := s.cohort cid
  .next (if c.kind != .vacant && c.waits.isEmpty && betweenWords c && quiet c then s.deliverTrap cid else s)

/-- The ring of a context's host records (20 R401, R408): its address, log2 of its records, HTWIDX and HTRIDX. -/
def trapRing (s : State) (ctx : Nat) : Option (Nat × Nat × DWord × DWord) :=
  if ctxValid s ctx then
    some (bits (ctxWord s ctx 4) 12 52 * 4096, bits (ctxWord s ctx 4) 0 5, ctxWord s ctx 5, ctxWord s ctx 6)
  else none

/-- A run of words written in system physical memory. -/
def State.setSysWords (s : State) (a : Nat) : List DWord → State
  | [] => s
  | v :: t => (s.setSysWord a v).setSysWords (a + 8) t

/-- HOST_TRAP_RECORD: the oldest record waiting is written once the ring has room, HTWIDX incremented, MSI-X vector VEC sent
(R408). -/
def execHostTrapRecord (ctx : Nat) (s : State) : Host.Outcome State Fault Refusal :=
  let x := s.ctx ctx
  match x.records, trapRing s ctx with
  | r :: t, some (base, lgn, w, rd) =>
    if 2 ^ lgn ≤ (w - rd).toNat || (isHost (sysKey s base) && !hostUp s) then .next s
    else
      let s := (s.setCtx ctx { x with records := t }).setSysWords (base + 64 * (w.toNat % 2 ^ lgn)) r
      .next ((s.setSysWord (ctxEntryAddr s ctx + 0x28) (w + 1)).emit (.msix (bits (ctxWord s ctx 1) 20 11)))
  | _, _ => .next s

/-- The record of an orphan trap: die, core and slot of all ones (R408). -/
def State.orphanRecord (s : State) (ctx : Nat) (cause : Cause) (info : DWord) (die : Nat) : State :=
  s.hostRecord ctx ((1#64 <<< 62) ||| dw (causeCode cause)) info 0
    (dw (ctx * 2 ^ 48 + 0xF * 2 ^ 39 + 0x7F * 2 ^ 32 + 0x7FF)) (s.timeOf die) 0

/-- ORPHAN_TRAP: with TRAPHDR.EN = 1 the die is to place an orphan handler; with EN = 0 the host gets a record (R408). -/
def execOrphanTrap (ctx : Nat) (cause : Cause) (info : DWord) (die : Nat) (s : State) : Host.Outcome State Fault Refusal :=
  let d := if die < 12 then die else 0
  .next (if (s.ctx ctx).traphdr.getLsbD 0 then s.setDie d { s.die d with orphans := (s.die d).orphans ++ [(ctx, cause, info)] }
    else s.orphanRecord ctx cause info d)

end Sys2Proof.Machine
end

