-- ==== Sys2Proof/Machine/Translate.lean ====
section
/-! DEFINITION. Page walks, page request responses, translation invalidation and changes of a carve region (13 R272-R278). -/
namespace Sys2Proof.Machine

/-- PAGE_WALK_COMPLETE: a walk that maps the address is kept in the translation cache of its core; one that meets an entry it cannot read
makes a machine-check record (R272, R276, R461). -/
def execPageWalkComplete (core ctx : Nat) (va : DWord) (s : State) : Host.Outcome State Fault Refusal :=
  if 12 * coresPerDie ≤ core || !globalAddr va then .next s
  else
    .next (match walkBad s ctx va.toNat with
      | some a => s.mcRecord ctx 1 10 (dieOfCore core) (core % coresPerDie) (dw a)
      | none => s.fillTlb core ctx va)

/-! ### Page request responses (R275) -/

/-- How a parked access goes on: it is tried again, or it fails with a cause. -/
inductive Answer where
  | again | fail (c : Cause)
  deriving DecidableEq, Repr

/-- What a response means for the accesses of its page: after Success the walker walks again; a write still refused is E_PROTECT. -/
def answerOf (s : State) (p : PageReq) (ans : PriAnswer) (write : Bool) : Answer :=
  match ans with
  | .success =>
    match walk s p.ctx p.page.toNat with
    | .none _ => .fail .xlate
    | .leaf e _ => if write && !e.getLsbD 61 then .fail .protect else .again
  | _ => .fail .xlate

/-- The cached translations of a context that overlap a range are dropped. -/
def State.dropTlb (s : State) (ctx lo n : Nat) : State :=
  { s with tlb := s.tlb.filter fun t => !(t.ctx == ctx && overlap t.base t.size lo n) }

/-- A fragment that a request no longer parks: it stands where it stood, at a header or in its word. -/
def unpark (e : Ent) : Ent :=
  { e with st := if e.blk.words.isEmpty then .fetch else .run, triedA := false, triedB := false }

/-- What of a fragment waits on a request: it is parked, or about to be once its word's other slot has been tried, or a transfer its word
still owes leads to a park. -/
def parkedOn (n : Nat) (e : Ent) : Option Parked :=
  let on (p : Parked) : Bool := p.req == n
  match e.st, e.park with
  | .parked p, _ => if on p then some p else none
  | _, some p => if on p then some p else none
  | _, none => none

/-- A place whose park a request has answered: its header is fetched when the fragment issues. -/
def Dest.answered (n : Nat) (d : Dest) : Dest :=
  match d.st with
  | .parked p => if p.req == n then { d with st := .fetch } else d
  | _ => d
/-- A transfer a word owes, once a request has been answered (09 R195). -/
def Xfer.answered (n : Nat) : Xfer → Xfer
  | .go d => .go (d.answered n)
  | .split m r t f => .split m r (t.answered n) (f.answered n)
  | .exit => .exit

/-- A cohort's fragments parked on a request go on or trap, as their own accesses fare (R275). A transfer still owed goes to its header,
which is fetched anew. -/
def answerCohort (n : Nat) (answer : Bool → Answer) (c : Cohort) : Cohort :=
  c.ents.foldl (fun c e =>
    let e := { e with xfer := e.xfer.map (·.answered n) }
    let c := setEnt c e
    match parkedOn n e with
    | none => c
    | some p =>
      let now := match e.st with | .parked _ => true | _ => false
      let c := setEnt c (if now then unpark e else { e with park := none })
      match answer p.write with
      | .again => c
      | .fail k => deferTrap (setEnt c { entOf c e.id with triedA := e.runA, triedB := e.runB }) e.id k p.addr false) c

/-- The lowest address of a request's far side on a page. -/
def copyPageAddr (r : CopyReq) (p : PageReq) : DWord :=
  (minBy (·.toNat) ((r.todo.map r.farAddr).filter fun (a : DWord) => (a >>> 12) <<< 12 == p.page)).getD p.page

/-- Copy requests that paused on a request resume, claiming their lines again, or abort (14 R292, 16 R338). -/
def State.answerCopies (s : State) (p : PageReq) (a : Answer) : State :=
  (s.copies.filter (·.paused == some p.n)).foldl (fun s r =>
    match a with
    | .again =>
      let q := s.claimFor { r with paused := none }
      q.1.setCopy q.2
    | .fail _ => s.abortCopy r (copyPageAddr r p)) s

/-- Transfers that paused on a request resume or abort; a completion store that cannot be made is not made (14 R299). -/
def State.answerXdmas (s : State) (p : PageReq) (a : Answer) : State :=
  (s.xdmas.filter (·.paused == some p.n)).foldl (fun s x =>
    match a with
    | .again =>
      let q := s.claimXdma { x with paused := none }
      q.1.setXdma q.2
    | .fail _ =>
      if x.abort || x.spans.isEmpty then { s with xdmas := s.xdmas.filter (·.id != x.id) }
      else s.setXdma { x with paused := none, abort := true }) s

/-- Waits of head records on a request are evaluated again, or fail the record (04 R86). -/
def State.answerQueues (s : State) (p : PageReq) (a : Answer) : State :=
  (tkeys s.queues).foldl (fun s q =>
    let x := s.queue q
    if !(x.waitReq.contains (some p.n)) then s
    else
      let s := s.setQueue q { x with waitReq := x.waitReq.map fun w => if w == some p.n then none else w }
      match a with
      | .again => ((List.range 4).foldl (fun s i => if x.waitReq.getD i none == some p.n then s.evalWait q i else s) s).tryReady q
      | .fail _ => s.queueError q 3 (qRidx x) true) s

/-- Completion stores parked on a request are tried again, or are lost (04 R95). -/
def State.answerGrids (s : State) (p : PageReq) (a : Answer) : State :=
  (tkeys s.grids).foldl (fun s g =>
    let x := s.grid g
    if x.parked != some p.n then s
    else match a with
      | .again => s.setGrid g { x with parked := none }
      | .fail _ => s.loseStore g) s

/-- PAGE_REQUEST_RESPONSE (R275). -/
def execPageRequestResponse (n : Nat) (ans : PriAnswer) (s : State) : Host.Outcome State Fault Refusal :=
  match s.preqs.find? (·.n == n) with
  | none => .next s
  | some p =>
    let s := { s.dropTlb p.ctx p.page.toNat 4096 with preqs := s.preqs.filter (·.n != n) }
    let s := s.nextReq p.die
    let a := answerOf s p ans p.write
    let s := { s with cohorts := s.cohorts.map fun (c : Nat × Cohort) =>
      (c.1, if c.2.ctx == p.ctx then answerCohort n (answerOf s p ans) c.2 else c.2) }
    .next ((((s.answerCopies p a).answerXdmas p a).answerQueues p a).answerGrids p a)

/-! ### TINV (R276) -/

/-- The first byte and the size of the range a TINV value names; none is a whole context. -/
def tinvRange (v : DWord) : Option (Nat × Nat) :=
  let va := bits v 12 36 * 4096
  match bits v 10 2 with
  | 0 => some (va, 2 ^ 12)
  | 1 => some (va / 2 ^ 21 * 2 ^ 21, 2 ^ 21)
  | 2 => some (va / 2 ^ 30 * 2 ^ 30, 2 ^ 30)
  | _ => none

/-- TINV_WRITE: ignored while PEND = 1; else the fields are written and PEND becomes 1 (R276). -/
def execTinvWrite (v : DWord) (s : State) : Host.Outcome State Fault Refusal :=
  inService s <|
  .next (if s.tinv.getLsbD 0 then s else { s with tinv := (v &&& 0xFFFFFFFFFFFFFC00) ||| 1 })

/-- An access a cohort has made is not performed yet: a load, an atomic, a future's request, or a store. -/
def accessOut (s : State) (cid : Nat) : Bool :=
  loadsOut s cid || atomsOut s cid || !storesHome s cid ||
  (s.cohort cid).pend.any fun p => match p.kind with | .futGet _ _ _ _ _ => true | _ => false

/-- An access an ended cohort of the slot may have left is not performed yet: a store or an atomic (R276). -/
def leftOut (s : State) (cid : Nat) : Bool :=
  !storesHome s cid || atomsMoving s (coreOf cid) fun c _ _ => c == cid

/-- TINV_COMPLETE: the cached translations of the range are dropped; PEND falls once every access that may have used one is performed: those of the
context's cohorts, and the stores and atomics that ended cohorts left, written back (R276). Walks end in the step that makes them. -/
def execTinvComplete (s : State) : Host.Outcome State Fault Refusal :=
  let ctx := bits s.tinv 48 16
  if !s.tinv.getLsbD 0 then .next s
  else
    let s := match tinvRange s.tinv with
      | some (lo, n) => s.dropTlb ctx lo n
      | none => { s with tlb := s.tlb.filter (·.ctx != ctx) }
    let mine := (tkeys s.cohorts).filter fun cid => (s.cohort cid).kind != .vacant && (s.cohort cid).ctx == ctx
    let all := tkeys s.cohorts
    .next (if mine.any (accessOut s) || all.any (leftOut s) then all.foldl (fun s cid => s.pushStores cid) s
      else { s with tinv := s.tinv &&& ~~~(1#64) })

/-! ### The carve region (R277, R278) -/

/-- MCARVE_WRITE: a SIZE above 384 is ignored; a change of CTX or SIZE sets PEND (R277). -/
def execMcarveWrite (die : Nat) (v : DWord) (s : State) : Host.Outcome State Fault Refusal :=
  inService s <|
  let d := s.die die
  let c : BitVec 16 := v.extractLsb' 48 16
  let z : BitVec 9 := v.extractLsb' 0 9
  .next (if 12 ≤ die || 384 < z.toNat || (c == d.mcCtx && z == d.mcSize) then s
    else s.setDie die { d with mcCtx := c, mcSize := z, mcPend := true })

/-- A line lies in the carve storage of a die. -/
def carveLine (die line : Nat) : Bool := isCarve (line * 128) && homeDie (line * 128) == die

/-- The line a message between a core and a home speaks of. -/
def msgLine (m : Instr) : Option Nat :=
  match wayOf m with
  | .toHome _ l _ => some l
  | .toCore _ l => some l
  | .eng _ l => some l
  | _ => (writeOf m).map (·.2)

/-- Anything of a carve line of a die is under way: a message, an invalidation, a write-back. -/
def carveBusy (s : State) (die : Nat) : Bool :=
  (s.net ++ s.heldAll).any (fun m => (msgLine m).any (carveLine die)) ||
  s.dir.any (fun p => carveLine die p.1 && !p.2.txns.isEmpty) ||
  s.cores.any (fun c => c.2.wbufs.any fun b => carveLine die b.line)

/-- The new carve region of a die: zero bytes, no poison, every granule on hold, no token of what stood there. -/
def State.zeroCarve (s : State) (die : Nat) : State :=
  let lo := carveKey die 0
  let n := (s.die die).mcSize.toNat * 2 ^ 21
  let out (u : Nat) (k : Nat) : Bool := k * u + u ≤ lo || lo + n ≤ k * u
  { s with
    mem := s.mem.filter fun c => out 1 c.1
    pois := s.pois.filter fun p => out 128 p.1
    grans := s.grans.filter fun p => out 4096 p.1
    tokens := s.tokens.filter fun p => out 1 p.1 }

/-- MCARVE_COMPLETE: once no lease and no claim holds a carve line of the die, every copy is invalidated and its bytes come back; then
the new region is zero-filled and PEND falls (R277). -/
def execMcarveComplete (die : Nat) (s : State) : Host.Outcome State Fault Refusal :=
  if 12 ≤ die || !(s.die die).mcPend then .next s
  else
    let mine := (tkeys s.dir).filter (carveLine die)
    if mine.any fun l => !homeFree s l then .next s
    else
      let due := mine.filter fun l =>
        !(s.dirEnt l).hold.isEmpty && !((s.dirEnt l).txns.any (·.done == .carve die))
      if !due.isEmpty then .next (due.foldl (fun s l => s.invalidate l none (.carve die)) s)
      else if carveBusy s die then .next s
      else .next (((s.zeroCarve die).setDie die { s.die die with mcPend := false }).fitMsc die)

end Sys2Proof.Machine
end

