-- ==== Sys2Proof/Machine/Preempt.lean ====
section
/-! DEFINITION. Saving, flushing and aborting blocks; pre-emption, context save and restore, and the host's context commands (05 R120,
06 R133, 12 R266, 16 R335, 17 R357, 19 R385, R391, 20 R409-R417). -/
namespace Sys2Proof.Machine

/-! ### Blocks of a die -/

/-- Resident blocks that meet a test. -/
def resident (s : State) (p : Blk → Bool) : List Nat := (tkeys s.blks).filter fun b => (s.blk b).used && p (s.blk b)
/-- The cohorts a block has left. -/
def liveCohorts (s : State) (b : Nat) : List Nat :=
  (s.blk b).cids.filter fun cid => (s.cohort cid).kind != .vacant && (s.cohort cid).blk == b

/-- The deferred loads of a cohort are withdrawn from every home (19 R390). -/
def State.dropGets (s : State) (p : Nat → Nat → Bool) : State :=
  { s with defer := (s.defer.map fun (x : Nat × List Deferred) => (x.1, x.2.filter fun d => match d with
      | .get cid _ _ _ ctx => !p cid ctx
      | _ => true)).filter fun x => !x.2.isEmpty }

/-- The matrix ops of a cohort leave its core's queue and unit. -/
def State.dropMatrix (s : State) (cid : Nat) : State :=
  let k := s.core (coreOf cid)
  s.setCore (coreOf cid) { k with
    matq := k.matq.filter (·.cid != cid), matRun := k.matRun.filter (·.ent.cid != cid) }

/-- A cohort ends by force: its deferred loads and matrix ops go; its futures are abandoned, or its list discarded (19 R391). -/
def State.killCohort (s : State) (cid : Nat) (abandon : Bool) : State :=
  let s := (s.dropGets fun c _ => c == cid).dropMatrix cid
  let s := if abandon then s else s.setCohort cid { s.cohort cid with bound := [] }
  s.endCohort cid

/-- The copy requests of a block are abandoned (14 R293, 16 R338). -/
def State.dropCopiesOf (s : State) (b : Nat) : State := (s.copies.filter (·.blk == b)).foldl (fun s r => s.dropCopy r) s

/-- Every cohort of a block ends by force, its copy requests are abandoned. -/
def State.killBlk (s : State) (b : Nat) (abandon : Bool) : State :=
  ((liveCohorts s b).foldl (fun s cid => s.killCohort cid abandon) s).dropCopiesOf b

/-- Saved blocks are dropped, and the futures their cohorts bound abandoned. -/
def State.dropSaved (s : State) (p : Saved → Bool) : State :=
  (s.saved.filter p).foldl (fun s v =>
    v.cohorts.foldl (fun s c => c.bound.foldl (fun s f => s.send (.abandonRequest c.ctx f.2)) s) s)
    { s with saved := s.saved.filter fun v => !p v }

/-- A grid is aborted: its blocks end and retire, no completion store is made, MSI-X vector VEC of its queue reports it (04 R96, 20 R409). -/
def State.abortGrid (s : State) (g : Nat) : State :=
  if !(s.grid g).active then s
  else
    let s := (resident s fun b => b.gid == g && b.kind == .grid).foldl (fun s b => s.killBlk b true) s
    let s := s.dropSaved fun v => v.blk.gid == g && v.blk.kind == .grid
    (s.emit (.msix (qVec (s.queue (s.grid g).q)))).endGrid g false

/-! ### Sizes and the save pool (20 R416) -/

/-- S: the bytes a save of a block writes. -/
def saveSize (s : State) (b : Nat) : Nat :=
  let x := s.blk b
  let c := s.cohort ((liveCohorts s b).headD 0)
  let scr := match x.scratch with | some r => (r.len - x.lapsed.length) * 4096 | none => 0
  4096 + 64 * (x.bars.filter (·.2.isSome)).length + scr + x.cids.length * (6400 + 4 * c.w * c.nreg)

/-- Bytes free in a context's save pool: those of saved blocks, and those promised to blocks being saved, are taken. -/
def poolFree (s : State) (ctx : Nat) : Nat :=
  if !ctxValid s ctx then 0
  else (ctxWord s ctx 3).toNat - ((s.saved.filter fun v => v.ctx == ctx && v.image.isNone).map (·.size)).sum -
    ((resident s fun b => b.ctx == ctx && b.option == 2).map (saveSize s)).sum

/-- Free words the image of a save is made of; its layout is not visible (20 R412). -/
def imageWords (seed n : Nat) : List DWord := (List.range n).map fun i => Config.word (seed + i)

/-- The bytes of a save go to a place in the pool, as words nothing can foresee. -/
def State.fillPool (s : State) (ctx size : Nat) : State :=
  let len := (ctxWord s ctx 3).toNat
  let base := bits (ctxWord s ctx 2) 12 52 * 4096
  let p := s.choose ((len - size) / 64 + 1)
  let n := size / 8
  { p.2.setSysWords (base + 64 * p.1) (imageWords p.2.free n) with free := p.2.free + n }

/-! ### Saving a block (20 R417) -/

/-- A fragment issues nothing from its block yet. -/
def fragAtHeader (e : Ent) : Bool :=
  e.st == .header || e.st == .fetch || e.st == .joined || e.blk.words.isEmpty || (e.widx == 0 && !e.inWord)

/-- A cohort whose fragments all stand at headers; one that waits, is trapped, or is in its handler counts as inside (06 R133). -/
def allAtHeaders (c : Cohort) : Bool :=
  c.waits.isEmpty && c.trap.isNone && c.dtraps.isEmpty && c.handler.isNone && c.ents.all fun e => e.join.isSome || fragAtHeader e

/-- The header a fragment stands at, where it can be read. -/
def headerAt (s : State) (core ctx : Nat) (e : Ent) : Option Header :=
  if !e.blk.words.isEmpty then some e.header
  else match translateG s core ctx e.hdr .exec with
    | .ok k _ =>
      if unitPoisoned s k 8 || unitDown s k then none
      else some (decodeHeader (dw (leNat ((List.range 8).map fun i => (lcByte s core (k + i)).getD (s.byte (k + i))))))
    | _ => none

/-- The vector and scalar registers a save writes: all, or the union of what the headers name live (06 R132, R133). -/
def savedRegs (s : State) (cid : Nat) (c : Cohort) : Cohort :=
  let hs := (c.ents.filter (·.join.isNone)).map fun e => headerAt s (coreOf cid) c.ctx e
  if !allAtHeaders c || hs.any (·.isNone) then c
  else
    let v := maxOf (hs.map fun h => (h.map (·.livev.toNat)).getD 0)
    let n := maxOf (hs.map fun h => (h.map (·.lives.toNat)).getD 0)
    { c with
      vr := c.vr.filter fun p => p.1 / 64 < v
      lost := c.lost.filter fun p => p.1 / 64 < v
      sr := c.sr.filter fun p => p.1 ≤ n }

/-- A cohort as a save writes it: a parked op incomplete (13 R275), a deferred load to be sent again, each lease slot with how its lease
ended (18 R377). -/
def savedCohort (s : State) (cid : Nat) : Cohort :=
  let c := savedRegs s cid (s.cohort cid)
  { c with
    ents := c.ents.map fun (e : Ent) => match e.st with | .parked _ => unpark e | _ => { e with park := none }
    pend := c.pend.map fun (p : Pend) => match p.kind with
      | .futGet a k sd _ _ => { p with kind := .futGet a k sd (some 0) 256 }
      | _ => p
    leases := c.leases.map fun (l : LeaseSlot) => { l with ended := some (l.ended.getD 1) } }

/-- A cohort can be saved now: between words, or waiting in an op; its results written but for a deferred load and a `jget` that waits;
no lease lasts or is asked for, no matrix op is unfinished, no self-test runs (R171, R266, R335, R390). -/
def savable (s : State) (cid : Nat) : Bool :=
  let c := s.cohort cid
  let k := s.core (coreOf cid)
  (betweenWords c || c.waits.any fun w => match w with | .op _ => true | _ => false) &&
  c.pend.all (fun p => match p.kind with
    | .futGet _ _ _ _ _ => true
    | .jget _ _ _ _ => (pendReady c p).isNone
    | _ => false) &&
  c.reds.isEmpty && c.bist.isNone && !(k.leases.any fun l => l.cid == some cid) &&
  !((s.net ++ s.heldAll).any fun m => match m with
    | .lreq d _ _ ⟨_, imp⟩ => d == cid && !imp
    | .lgrant d _ _ _ ⟨_, imp, _⟩ => d == cid && !imp
    | _ => false) &&
  !(k.matq.any fun e => e.cid == cid && !e.done) && !(k.matRun.any (·.ent.cid == cid)) &&
  storesHome s cid && !atomsOut s cid

/-- A block can be saved now: the stores and atomics of its ended cohorts are performed, its copy requests and transfers over or paused (17 R357, 14
R293, R299). -/
def blkSavable (s : State) (b : Nat) : Bool :=
  let x := s.blk b
  x.used && (x.kind != .grid || x.entered.isSome) && (liveCohorts s b).all (savable s) && x.cids.all (fun cid => storesHome s cid && !atomsLeft s b cid) &&
  (s.copies.filter (·.blk == b)).all (·.paused.isSome) && (s.xdmas.filter (·.blk == b)).all (·.paused.isSome)

/-- Scratch bytes a save writes: not those of lapsed or expired granules (05 R120). -/
def savedBytes (s : State) (x : Blk) (now : DWord) : List (Nat × Byte) × List Nat × List Gran :=
  match x.scratch with
  | none => ([], [], [])
  | some r =>
    let lo := scratchKey r.core (r.start * 4096)
    let keep (o : Nat) : Bool := o < r.len * 4096 && !x.lapsed.contains (o / 4096) && !s.expired now (lo + o)
    ((s.mem.filter fun c => lo ≤ c.1 && keep (c.1 - lo)).map fun c => (c.1 - lo, c.2),
     (s.pois.filter fun p => 2 ^ 70 + lo ≤ p.1 && p.2 && keep (p.1 - (2 ^ 70 + lo))).map fun p => p.1 - (2 ^ 70 + lo),
     (List.range r.len).map fun i => if x.lapsed.contains i then Gran.hold else s.gran (lo + 4096 * i))

/-- A block is saved: its state leaves the operand store (05 R120, 20 R417). -/
def State.saveBlk (s : State) (b : Nat) (image : Option Nat) : State :=
  let x := s.blk b
  let m := savedBytes s x (s.timeOf x.die)
  let mine := s.copies.filter (·.blk == b)
  let place (cid : Nat) : Nat := (x.cids.findIdx? (· == cid)).getD 0
  let v : Saved :=
    { id := b, ctx := x.ctx, image := image, size := saveSize s b, blk := { x with option := 0, askedBy := 0 },
      cohorts := x.cids.map fun cid => if (liveCohorts s b).contains cid then savedCohort s cid else Cohort.vacant,
      bytes := m.1, pois := m.2.1, grans := m.2.2,
      copies := mine.map fun (r : CopyReq) => { r with cid := place r.cid, claims := [] } }
  let cs := liveCohorts s b
  let s := cs.foldl (fun s cid => (s.dropGets fun c _ => c == cid).orphanWork cid) s
  let s := cs.foldl (fun s cid => s.setCohort cid Cohort.vacant) (s.dropCopiesOf b)
  { s.freeBlk b with saved := s.saved ++ [v] }

/-- The stores of a block's cohorts are begun to be written back. -/
def State.pushBlk (s : State) (b : Nat) : State := (s.blk b).cids.foldl (fun s cid => s.pushStores cid) s

/-- The resident blocks of a block's cluster, which are saved at one moment, so that none of them finds another gone (05 R103). -/
def clusterMates (s : State) (b : Nat) : List Nat :=
  let x := s.blk b
  if x.kind != .grid then [b] else resident s fun y => y.kind == .grid && y.gid == x.gid && y.cluster == x.cluster

/-- BLOCK_SAVE: a block that pre-emption saves goes, with its cluster, to its context's pool once their work has drained (R417). -/
def execBlockSave (blk : Nat) (s : State) : Host.Outcome State Fault Refusal :=
  let x := s.blk blk
  let l := clusterMates s blk
  .next (if !x.used || x.option != 2 then s
    else if !(l.all (blkSavable s)) then l.foldl (fun s b => s.pushBlk b) s
    else (l.foldl (fun s b => (s.fillPool x.ctx (saveSize s b)).saveBlk b none) s).pass x.die)

/-! ### Flushing (R417) -/

/-- A block number comes back to its slice, with the others of its cluster, ahead of the unplaced (R110, R417). -/
def addRedo (l : List (Nat × List Nat)) (k j : Nat) : List (Nat × List Nat) :=
  if l.any (·.1 == k) then l.map fun p => if p.1 == k then (k, insBy id j p.2) else p else (k, [j]) :: l

/-- A block is unplaced again: its space is freed, its cluster at the head of its slice, the arrivals at its cluster's barrier gone. -/
def State.unplace (s : State) (b : Nat) : State :=
  let x := s.blk b
  let s := s.freeBlk b
  let s := match s.slice x.gid x.die with
    | some y => s.setSlice x.gid { y with redo := addRedo y.redo x.cluster x.j }
    | none => s
  let g := s.grid x.gid
  s.setGrid x.gid { g with cbars := tput none g.cbars x.cluster none }

/-- BLOCK_FLUSH: between words, with no lease lasting and no matrix op unfinished, the block's cohorts end without abandoning a
future and its copy requests are abandoned; once its stores and atomics are performed, its cluster goes back unplaced (R391, R417). -/
def execBlockFlush (blk : Nat) (s : State) : Host.Outcome State Fault Refusal :=
  let x := s.blk blk
  let still (cid : Nat) : Bool :=
    let c := s.cohort cid
    let k := s.core (coreOf cid)
    (betweenWords c || c.waits.any fun w => match w with | .op _ => true | _ => false) &&
    !(k.leases.any fun l => l.cid == some cid) && !(k.matq.any fun e => e.cid == cid && !e.done) &&
    !(k.matRun.any (·.ent.cid == cid))
  let group := resident s fun y => y.gid == x.gid && y.cluster == x.cluster && y.kind == .grid && y.option == 3
  if !x.used || x.option != 3 then .next s
  else if !cohortsEnded s blk then .next (if (liveCohorts s blk).all still then s.killBlk blk false else s)
  else if !(group.all fun b => cohortsEnded s b && blockDrained s b) then .next (s.pushBlk blk)
  else .next ((group.foldl (fun s b => s.unplace b) s).pass x.die)

/-! ### Choosing victims (R415, R416) -/

/-- An estimate in µs, as a fraction. -/
structure Est where
  num : Nat
  den : Nat
  deriving DecidableEq, Repr

/-- PLB, RST and DG of a record. -/
def rPlb (r : List DWord) : Nat := rf r 6 32 16
def rRst (r : List DWord) : Bool := rf r 6 28 1 == 1

/-- Bytes of a block's copy requests not delivered. -/
def copyBytes (s : State) (b : Nat) : Nat := ((s.copies.filter (·.blk == b)).map fun r => 16 * r.todo.length).sum

/-- The estimates of drain, save and flush for the blocks of a cluster, where available (R416). -/
def options (s : State) (die : Nat) (bs : List Nat) : List (Nat × Est) :=
  let x := s.blk (bs.headD 0)
  let r := (s.grid x.gid).rcd
  let n := tget (0, 0) (s.die die).drained x.gid
  let f := (s.die die).fcur.toNat
  let age (b : Nat) : Nat := (s.timeOf die - (s.blk b).entered.getD (s.timeOf die)).toNat
  let leased (b : Nat) : Bool := (liveCohorts s b).any fun cid => (s.core (coreOf cid)).leases.any fun l => l.cid == some cid
  (if n.1 != 0 then [(1, ⟨(bs.map fun b => n.2 - age b * n.1).sum, n.1 * 16000⟩)] else []) ++
  (if !rGang r && (bs.map (saveSize s)).sum ≤ poolFree s x.ctx then
    [(2, ⟨(bs.map fun b => 32 * f + saveSize s b + copyBytes s b + (if leased b then 512 * 32 else 0)).sum, 32 * f⟩)] else []) ++
  (if !rGang r && rRst r then [(3, ⟨bs.length, 1⟩)] else [])

/-- The option of the smallest estimate, ties to the first. -/
def smallest : List (Nat × Est) → Nat
  | [] => 1
  | a :: t => (t.foldl (fun (m : Nat × Est) b => if b.2.num * m.2.den < m.2.num * b.2.den then b else m) a).1

/-- The choice of R416 under a bound of `plb` µs. -/
def chooseOption (plb : Nat) (l : List (Nat × Est)) : Nat :=
  match l.find? fun p => p.2.num ≤ plb * p.2.den with
  | some p => p.1
  | none => smallest l

/-- The resident clusters a request may take, lowest PRIO first, most recently placed first (R415). -/
def candidates (s : State) (die prio : Nat) : List (List Nat) :=
  let bs := resident s fun b => b.die == die && b.kind == .grid && b.option == 0 && (s.grid b.gid).active && rPrio (s.grid b.gid).rcd < prio
  let key (b : Nat) : Nat := rPrio (s.grid (s.blk b).gid).rcd * 2 ^ 64 + (2 ^ 64 - 1 - (s.blk b).order)
  (sortBy key bs).foldl (fun (acc : List (List Nat)) b =>
    if acc.any (·.contains b) then acc
    else acc ++ [bs.filter fun c => (s.blk c).gid == (s.blk b).gid && (s.blk c).cluster == (s.blk b).cluster]) []

/-- The die as it would be without some blocks. -/
def State.without (s : State) (bs : List Nat) : State :=
  bs.foldl (fun s b => (liveCohorts s b).foldl (fun s cid => s.setCohort cid Cohort.vacant) s |>.setBlk b Blk.none) s

/-- The clusters taken in order until the requester's cluster fits, if ever. -/
def victims (g die : Nat) : List (List Nat) → State → List (List Nat) → Option (List (List Nat))
  | l, s, acc =>
    match s.slice g die with
    | none => none
    | some x =>
      if (s.placeNext g x (dieCores die)).isSome then some acc
      else match l with
        | [] => none
        | c :: t => victims g die t (s.without c) (acc ++ [c])

/-- An option is set for the blocks of a victim, for a grid that asked. -/
def State.setOption (s : State) (g : Nat) (bs : List Nat) (o : Nat) : State :=
  bs.foldl (fun s b => s.setBlk b { s.blk b with option := o, askedBy := g }) s

/-- PREEMPTION_REQUEST: the grid scheduler asks for a grid whose next cluster a die cannot place; the distributor picks its victims and
an option for each (04 R90, R415, R416). -/
def execPreemptionRequest (grid die : Nat) (s : State) : Host.Outcome State Fault Refusal :=
  let r := (s.grid grid).rcd
  match s.slice grid die with
  | none => .next s
  | some x =>
    if !(s.grid grid).active || rPlb r == 0 || ctxStopped s (rCtx r) || (nextUp s grid x).isNone || (x.since.isNone && !(s.grid grid).gang) ||
        !(resident s fun b => b.askedBy == grid && b.die == die && b.option != 0).isEmpty ||
        (s.placeNext grid x (dieCores die)).isSome then .next s
    else
      .next (match victims grid die (candidates s die (rPrio r)) s [] with
        | none => s
        | some l => l.foldl (fun s bs => s.setOption grid bs (chooseOption (rPlb r) (options s die bs))) s)

/-! ### Context save and restore (R412) -/

/-- The resident blocks and tasks of a context. -/
def ctxBlks (s : State) (ctx : Nat) : List Nat := resident s fun b => b.ctx == ctx
/-- Bytes a save of a context needs. -/
def ctxSize (s : State) (ctx : Nat) : Nat := 64 + ((ctxBlks s ctx).map (saveSize s)).sum
/-- The entry of a context has V = 1. -/
def ctxV (s : State) (ctx : Nat) : Bool := sysOk s (ctxEntryAddr s ctx) && (ctxWord s ctx 0).getLsbD 0

/-- Why a save into `len` bytes cannot be made; 0 where it can. -/
def saveStatus (s : State) (ctx len : Nat) : Nat :=
  if !ctxV s ctx || (s.ctx ctx).image.isSome then 3
  else if (ctxBlks s ctx).isEmpty then 1
  else if len < ctxSize s ctx then 2
  else 0

/-- A save begins: dispatch and placement of the context stop. Its image's number and size are fixed. -/
def State.beginSave (s : State) (ctx by' : Nat) : State :=
  let n := ctxSize s ctx
  let s := { s with images := s.images ++ [(⟨s.next, ctx, s.free, n⟩ : Image)], next := s.next + 1, free := s.free + n / 8 }
  s.setCtx ctx { s.ctx ctx with image := some (s.next - 1), saver := some by' }

/-- A save goes on: blocks that have drained are saved, the others write back. Answers whether none is left. -/
def State.saveMore (s : State) (ctx : Nat) : Bool × State :=
  let s := (ctxBlks s ctx).foldl (fun s b =>
    if !(s.blk b).used then s
    else
      let l := clusterMates s b
      if l.all (blkSavable s) then l.foldl (fun s b => s.saveBlk b (s.ctx ctx).image) s else s.pushBlk b) s
  ((ctxBlks s ctx).isEmpty, s)

/-- A save is over: the dies add their counts (22 R444). -/
def State.endSave (s : State) (ctx : Nat) : State :=
  let s := s.accountAll ctx
  s.setCtx ctx { s.ctx ctx with saver := none }

/-- The image a context is saved in, once its save is over. -/
def imageOf (s : State) (ctx : Nat) : Option Image :=
  if (s.ctx ctx).saver.isSome then none else (s.ctx ctx).image.bind fun n => s.images.find? (·.id == n)

/-- The blocks of an image are queued for placement again. -/
def State.loadImage (s : State) (m : Image) : State :=
  let s := { s with
    saved := s.saved.map fun (v : Saved) => if v.image == some m.id then { v with image := none } else v
    images := s.images.filter (·.id != m.id) }
  s.setCtx m.ctx { s.ctx m.ctx with image := none, saver := none }

/-- The words an image occupies after its length. -/
def imageLen (m : Image) : Nat := m.size / 8 - 1

/-- The pages of `n` bytes from an address, as units of a check. -/
def areaUnits (a : DWord) (n : Nat) : List Acs := (List.range (ceilDiv (max n 8) 4096)).map fun i => ⟨0, a + dw (4096 * i), 8⟩

/-- An area an op names: its length L, checked over all of it (09 R192). -/
def withArea (s : State) (a : DWord) (kind : Acc) (k : Nat → State → Res) : Res :=
  match checkMine s 0 kind true false (areaUnits a 8) with
  | .bad r => r
  | .ok ((_, key, _) :: _) s =>
    let core := coreOf s.cur.cid
    if srcPois s key 8 then .trap .poison a s
    else
      let len := leNat ((List.range 8).map fun i => srcByte s core (key + i))
      match checkMine s 0 kind true false (areaUnits a len) with
      | .bad r => r
      | .ok _ s => k len s
  | .ok [] s => .stop s

/-- The keys of the `n` words of an area after its length. -/
def imageKeys (s : State) (a : DWord) (n : Nat) (kind : Acc) : List Nat :=
  (List.range n).filterMap fun i => match translateG s (coreOf s.cur.cid) s.me.ctx (a + dw (8 * (i + 1))) kind with
    | .ok k _ => some k
    | _ => none

/-- An area of an op of format M: sB + 4,096·off. -/
def areaAddr (c : Cohort) (o : M) : DWord := srd c o.sb.toNat + BitVec.ofInt 64 (4096 * o.off.toInt)

/-- The number that names the executing cohort wherever its block stands. -/
def saverId (s : State) : Nat := s.me.blk * 4096 + s.me.cidx

/-- The image is written to its area once no lease, claim or newer byte of the core stands on it; a release at system scope (R412). -/
def writeImage (s : State) (a : DWord) (ctx vd : Nat) : Res :=
  let core := coreOf s.cur.cid
  match (s.ctx ctx).image.bind fun n => s.images.find? (·.id == n) with
  | none => .done (s.setS vd 3)
  | some m =>
    let ks := imageKeys s a (imageLen m) .write
    let lines := (ks.map lineOf).eraseDups
    if lines.any fun l => ownDirty s core (l * 128) 128 then .wait .other (lines.foldl (fun s l => s.writeBack core l) s)
    else match lines.find? fun l => !homeFree s l with
      | some l => .wait .other (s.recallHead l)
      | none =>
        releaseOp s 5 fun s =>
          let s := (ks.zip (imageWords m.seed (imageLen m))).foldl (fun s p => s.putWord p.1 p.2) s
          .done ((s.endSave ctx).setS vd 0)

/-- CTX_SAVE (R412): the op waits for itself while the context's blocks are saved. -/
def execCtxSave (o : M) (s : State) : Host.Outcome State Fault Refusal :=
  let a := areaAddr s.me o
  let ctx := (sreg s.me o.vd).toNat % 2 ^ 16
  op (.ctxSave o) s
    (if !s.me.priv then .trap .priv 0 s
     else if a.toNat % 4096 != 0 then .trap .align a s
     else withArea s a .write fun len s =>
       if (s.ctx ctx).saver == some (saverId s) then
         match s.saveMore ctx with
         | (true, s) => writeImage s a ctx o.vd.toNat
         | (false, s) => .wait .other s
       else
         let st := if ctx == s.me.ctx then 3 else saveStatus s ctx len
         if st != 0 then .done (s.setS o.vd.toNat (dw st)) else .wait .other (s.beginSave ctx (saverId s)))

/-- CTX_LOAD (R412): an acquire at system scope; an image is valid where its words stand in the area. -/
def execCtxLoad (o : M) (s : State) : Host.Outcome State Fault Refusal :=
  let a := areaAddr s.me o
  let ctx := (sreg s.me o.vd).toNat % 2 ^ 16
  op (.ctxLoad o) s
    (if !s.me.priv then .trap .priv 0 s
     else if a.toNat % 4096 != 0 then .trap .align a s
     else withArea s a .read fun len s =>
       match imageOf s ctx with
       | none => .done (s.setS o.vd.toNat 3)
       | some m =>
         let core := coreOf s.cur.cid
         let ks := imageKeys s a (imageLen m) .read
         if ks.any fun k => srcPois s k 8 then .trap .poison a s
         else if ks.any fun k => claimedBy s k none then .wait .other (ks.foldl (fun s k => s.recallHead (lineOf k)) s)
         else
           let w := ks.map fun k => dw (leNat ((List.range 8).map fun i => srcByte s core (k + i)))
           if len < m.size || w != imageWords m.seed (imageLen m) then .done (s.setS o.vd.toNat 2)
           else .done (((s.loadImage m).acquire s.cur.cid 5 []).setS o.vd.toNat 0))

/-! ### CTXCMD (R409) -/

/-- The fields of CTXCMD that a write sets. -/
def ctxcmdMask : DWord := 0xFFFF3FFF000007FF
/-- A command done with a status. -/
def State.cmdDone (s : State) (v : DWord) (st : Nat) : State := { s with ctxcmd := setBits (v &&& ctxcmdMask) 29 2 st }
/-- A write of CTXCMD that carries a command is taken up: PEND = 0, and CMD as named. -/
def cmdTaken (s : State) (v : DWord) (cmd : Nat) : Bool := !s.ctxcmd.getLsbD 31 && bits v 43 3 == cmd

/-- The stopped cohort a command names, with whether a resume is refused. -/
def stoppedCohort (s : State) (v : DWord) : Option (Nat × Bool) :=
  let cid := (bits v 39 4 * coresPerDie + bits v 32 7) * slotsPerCore + bits v 0 11
  let c := s.cohort cid
  if 12 ≤ bits v 39 4 || coresPerDie ≤ bits v 32 7 || c.kind == .vacant || c.ctx != bits v 48 16 then none
  else (c.waits.findSome? fun w => match w with | .host n => some n | _ => none).map fun n => (cid, n)

/-- A stopped cohort goes on as after `rett`, or after its `halt`; one whose state area was lost ends. -/
def State.resumeHost (s : State) (cid : Nat) : State :=
  let c := s.cohort cid
  let c := { c with waits := c.waits.filter fun w => match w with | .host _ => false | _ => true }
  if c.doomed then (s.setCohort cid c).endLanes cid c.live
  else s.setCohort cid (reissue c (s.cycOf (dieOf cid)))

/-- CTXCMD_RESUME: a nested trap is refused (R409). -/
def execCtxcmdResume (v : DWord) (s : State) : Host.Outcome State Fault Refusal :=
  inService s <|
  .next (if !cmdTaken s v 1 then s
    else match stoppedCohort s v with
      | none => s.cmdDone v 1
      | some (_, true) => s.cmdDone v 3
      | some (cid, false) => (s.resumeHost cid).cmdDone v 0)

/-- CTXCMD_ABORT: the stopped cohort's grid ends, or that task alone (R409). -/
def execCtxcmdAbort (v : DWord) (s : State) : Host.Outcome State Fault Refusal :=
  inService s <|
  .next (if !cmdTaken s v 2 then s
    else match stoppedCohort s v with
      | none => s.cmdDone v 1
      | some (cid, _) =>
        let c := s.cohort cid
        ((if c.kind == .grid then s.abortGrid c.gid else s.killBlk c.blk true).cmdDone v 0))

/-- A context's tasks, orphan handlers and waiting orphan traps end. -/
def State.endTasks (s : State) (ctx : Nat) : State :=
  let s := (resident s fun b => b.ctx == ctx && b.kind != .grid).foldl (fun s b => s.killBlk b true) s
  let s := s.dropSaved fun v => v.ctx == ctx
  (List.range 12).foldl (fun s d => s.setDie d { s.die d with orphans := (s.die d).orphans.filter (·.1 != ctx) }) s

/-- A context's residency handles are freed on every die (13 R280). -/
def State.freeHandles (s : State) (ctx : Nat) : State :=
  (List.range 12).foldl (fun s d =>
    let x := s.die d
    s.setDie d { x with handles := x.handles.map fun p =>
      (p.1, if bits p.2.1 48 16 == ctx then (p.2.1, setBits p.2.2 63 1 0) else p.2) }) s

/-- CTXCMD_TEARDOWN: the context's grids are aborted, its tasks end, its handles are freed, its deferred loads dropped; nothing of it is
dispatched until its entry is written again (R409). -/
def execCtxcmdTeardown (v : DWord) (s : State) : Host.Outcome State Fault Refusal :=
  inService s <|
  let ctx := bits v 48 16
  if !cmdTaken s v 3 then .next s
  else
    let gs := (tkeys s.grids).filter fun g => (s.grid g).active && rCtx (s.grid g).rcd == ctx
    let none' := gs.isEmpty && (ctxBlks s ctx).isEmpty && !(s.saved.any (·.ctx == ctx))
    let s := s.accountAll ctx
    let s := gs.foldl (fun s g => s.abortGrid g) s
    let s := ((s.endTasks ctx).freeHandles ctx).dropGets fun _ c => c == ctx
    let s := s.setCtx ctx { s.ctx ctx with torn := true, started := false, image := none, saver := none }
    .next ({ s with images := s.images.filter (·.ctx != ctx) }.cmdDone v (if none' then 1 else 0))

/-- The host's number among those who save. -/
def hostSaver : Nat := 2 ^ 80

/-- The pool of a context: its address and length. -/
def poolOf (s : State) (ctx : Nat) : Nat × Nat := (bits (ctxWord s ctx 2) 12 52 * 4096, (ctxWord s ctx 3).toNat)

/-- A save the host asked for goes on; once every block is saved the image stands at the start of the pool. -/
def State.hostSave (s : State) (v : DWord) : State :=
  let ctx := bits v 48 16
  match s.saveMore ctx with
  | (false, s) => s
  | (true, s) =>
    let s := match (s.ctx ctx).image.bind fun n => s.images.find? (·.id == n) with
      | some m => s.setSysWords ((poolOf s ctx).1 + 8) (imageWords m.seed (imageLen m))
      | none => s
    (s.endSave ctx).cmdDone v 0

/-- CTXCMD_SAVE: as `ctx.save` with the context's own pool; PEND stands until it is over, and while it does this step carries it on
(R409). -/
def execCtxcmdSave (v : DWord) (s : State) : Host.Outcome State Fault Refusal :=
  inService s <|
  if s.ctxcmd.getLsbD 31 then .next (if bits s.ctxcmd 43 3 == 4 then s.hostSave s.ctxcmd else s)
  else if bits v 43 3 != 4 then .next s
  else
    let ctx := bits v 48 16
    .next (match saveStatus s ctx (poolFree s ctx) with
      | 0 => { s.beginSave ctx hostSaver with ctxcmd := (v &&& ctxcmdMask) ||| (1#64 <<< 31) }
      | 1 => s.cmdDone v 1
      | 2 => s.cmdDone v 2
      | _ => s.cmdDone v 3)

/-- CTXCMD_RESTORE: as `ctx.load` with the context's own pool (R409). -/
def execCtxcmdRestore (v : DWord) (s : State) : Host.Outcome State Fault Refusal :=
  inService s <|
  let ctx := bits v 48 16
  .next (if !cmdTaken s v 5 then s
    else match imageOf s ctx with
      | none => s.cmdDone v 1
      | some m =>
        let a := (poolOf s ctx).1 + 8
        let w := (List.range (imageLen m)).map fun i => sysWord s (a + 8 * i)
        if w != imageWords m.seed (imageLen m) then s.cmdDone v 3 else (s.loadImage m).cmdDone v 0)

end Sys2Proof.Machine
end

