-- ==== Sys2Proof/Machine/Outside.lean ====
section
/-! DEFINITION. Bridge flits, the host port, peers and external time (15 R312-R314, 20 R413, R414, 21 R421-R430). -/
namespace Sys2Proof.Machine

/-! ### Routes (01 R11, R12, 22 R437) -/

/-- The ends of a bridge: the row bridges, the cross-row bridges, those to the I/O dies, which count as 12 and 13. -/
def bridgeEnds (b : Nat) : Nat × Nat :=
  if b < 5 then (b, b + 1) else if b < 10 then (b + 1, b + 2) else if b < 16 then (b - 10, b - 4)
  else if b == 16 then (0, 12) else if b == 17 then (6, 12) else if b == 18 then (5, 13) else (11, 13)

/-- Along row `r` from column `x` to column `y`: each bridge with the die that receives on it. -/
def rowHops (r x y : Nat) : List (Nat × Nat) :=
  (List.range (y - x)).map (fun i => (5 * r + x + i, 6 * r + x + i + 1)) ++
  (List.range (x - y)).map (fun i => (5 * r + x - 1 - i, 6 * r + x - 1 - i))

/-- The bridges traffic from agent `a` to agent `b` crosses, each with the agent that receives on it (R12). From an I/O die to a compute die it
crosses the I/O die's bridge in the destination's row and goes along that row; between the I/O dies it crosses none (DEDUCED as the way out
reversed, log entry 1). -/
def hops (a b : Nat) : List (Nat × Nat) :=
  let edge (io : Nat) : Nat := if io == 12 then 0 else 5
  if a < 12 && b < 12 then
    (if a / 6 == b / 6 then [] else [(10 + a % 6, 6 * (b / 6) + a % 6)]) ++ rowHops (b / 6) (a % 6) (b % 6)
  else if a < 12 then rowHops (a / 6) (a % 6) (edge b) ++ [(16 + 2 * (b - 12) + a / 6, b)]
  else if b < 12 then (16 + 2 * (a - 12) + b / 6, 6 * (b / 6) + edge a) :: rowHops (b / 6) (edge a) (b % 6)
  else []

/-- The agent that receives a message on a bridge it crosses. -/
def receiver (s : State) (m : Instr) (b : Nat) : Option Nat :=
  (msgEnds s m).bind fun p => ((hops p.1 p.2).find? (·.1 == b)).map (·.2)

/-! ### Accesses that fail outside their die (R422, R424, R428) -/

/-- A far atomic answered as poison. -/
def State.failAtom (s : State) (r : AtomReq) : State :=
  (s.send (.aresp (respOf r 0 0 true []))).performed (dieOf r.cid) r.car

/-- A lease request whose grant arrives poisoned: the lease is over at its home, and the `lsa` traps (R422). -/
def State.failGrant (s : State) (cid line : Nat) : State :=
  let s := s.send (.lend (coreOf cid) line 0 0 ⟨false, Carry.none⟩)
  match wake s cid 0 with
  | some (.lsa o, t) =>
    let va := leaseLine t.me o
    match translate t (coreOf cid) t.me.ctx (t.blk t.me.blk) o.sp .write va with
    | .ok k _ => if lineOf k == line then { (t.raise .poison va).slotFailed none with cur := s.cur } else s
    | _ => s
  | _ => s

/-- An implicit lease whose grant arrives poisoned: it is over, and the atomics that wait for it are answered as poisoned (R422). -/
def State.failNears (s : State) (cid line : Nat) : State :=
  let core := coreOf cid
  let s := s.send (.lend core line 0 0 ⟨false, Carry.none⟩)
  let c := s.core core
  (c.nears.filter fun x => lineOf x.r.key == line).foldl (fun s x => s.answerAtom (respOf x.r 0 0 true []))
    (s.setCore core { c with nears := c.nears.filter fun x => lineOf x.r.key != line })

/-- The payload of a message in flight becomes poisoned, where it has one (R422). -/
def State.poisonMsg (s : State) (k : Nat) (m : Instr) : State :=
  let put (x : Instr) : State := { s with net := s.net.set k x }
  let home (key : Nat) : State := s.setPoison (lineOf key) true
  match m with
  | .wb c l w d _ ⟨n, car⟩ => put (.wb c l w d true ⟨n, car⟩)
  | .data c l d ⟨_, toks⟩ => put (.data c l d ⟨true, toks⟩)
  | .iackData c l t w d ⟨_, car⟩ => put (.iackData c l t w d ⟨true, car⟩)
  | .fack c l t w d ⟨p, car⟩ => put (.fack c l t w d ⟨(p || w != 0), car⟩)
  | .lend c l w d ⟨p, car⟩ => put (.lend c l w d ⟨(p || w != 0), car⟩)
  | .aresp r => put (.aresp { r with pois := r.pois || r.ret })
  | .lgrant cid l _ _ ⟨_, imp, _⟩ => if imp then (s.unsend k).failNears cid l else (s.unsend k).failGrant cid l
  | .atom r => if isHost r.key || isPeer r.key then (s.unsend k).failAtom r else home r.key
  | .redoRequest r => home r.key
  | .redoRetry r => home r.key
  | _ => s

/-! ### Bridge flits (R421) -/

/-- Corrected symbols of a bridge counted, saturating (22 R437). -/
def State.countCorr (s : State) (b n : Nat) : State :=
  let x := tget Bridge.reset s.bridges b
  { s with bridges := tput Bridge.reset s.bridges b { x with res := setBits x.res 32 32 (min 0xFFFFFFFF (bits x.res 32 32 + n)) } }

/-- A bridge fails past recovery: a record of SEV 3, and the package stops until it is reset. -/
def State.fatalBridge (s : State) (b die : Nat) : State := { s.mcRecord 0 3 6 die b 0 with fatal := true }

/-- BRIDGE_FLIT_RECEIVE: the flit that carries message `k` over a bridge it crosses; a flit of other traffic, where no message has that
number, carries no payload of the model (R421). -/
def execBridgeFlitReceive (bridge k : Nat) (f : FlitOutcome) (s : State) : Host.Outcome State Fault Refusal :=
  let (who, s) : Option Nat × State := match s.net[k]? with
    | some m => (receiver s m bridge, s)
    | none =>
      let p := s.choose 2
      (some (if p.1 == 0 then (bridgeEnds bridge).1 else (bridgeEnds bridge).2), p.2)
  match who with
  | none => .next s
  | some die =>
    if 20 ≤ bridge then .next s
    else .next (match f with
      | .good => s
      | .corrected n => if n == 0 || 12 < n then s else (s.mcRecord 0 0 6 die bridge 0).countCorr bridge n
      | .payloadLost =>
        (match s.net[k]? with
         | some m => (s.poisonMsg k m).mcRecord 0 1 6 die bridge 0
         | none => s)
      | .headersLost => s.fatalBridge bridge die)

/-- LINK_TRAINING_LOST (R421). -/
def execLinkTrainingLost (bridge : Nat) (s : State) : Host.Outcome State Fault Refusal :=
  if 20 ≤ bridge then .next s
  else
    let p := s.choose 2
    .next (p.2.fatalBridge bridge (if p.1 == 0 then (bridgeEnds bridge).1 else (bridgeEnds bridge).2))

/-! ### The host port (R423, R424) -/

/-- HOST_LINK_DOWN: the port's link is down; host accesses leave through the other (R424). -/
def execHostLinkDown (io : Nat) (s : State) : Host.Outcome State Fault Refusal :=
  .next (if io < 2 && portUp s io then { s with links := tput 0 s.links io (tget 0 s.links io + 2) } else s)

/-- HOST_LINK_UP: a port that trains for the first time since package reset chooses its protocol; one that trains again keeps it
(R423, R424). -/
def execHostLinkUp (io : Nat) (cxl : Bool) (s : State) : Host.Outcome State Fault Refusal :=
  .next (if 2 ≤ io || portUp s io then s
    else
      let v := match tget 0 s.links io with
        | 3 => 1
        | 4 => 2
        | _ => if cxl then 2 else 1
      { s with links := tput 0 s.links io v })

/-- A read or an atomic of a page outside the package is answered: by the page's bytes, or as failed. -/
def State.answerOutside (s : State) (k : Nat) (m : Instr) (ok : Bool) : State :=
  let t := s.unsend k
  match m with
  | .rd core line _ =>
    t.send (.data core line (t.lineData line) ⟨(!ok || t.poisoned line || unitDown t (line * 128)), (lineToks t line)⟩)
  | .atom r => if ok then t.homeMsg (lineOf r.key) m else t.failAtom r
  | .wb core line w d p ⟨n, car⟩ => if ok then t.homeMsg line (.wb core line w d p ⟨n, car⟩) else t.failWb core line n w car
  | _ => s

/-- The first unit of a copy request whose far side lies outside the package in a given way. -/
def outUnit (s : State) (r : CopyReq) (p : Nat → Bool) : Option (Nat × Nat) :=
  r.todo.findSome? fun u =>
    match r.trans s false (if r.toNear then .read else .write) (r.farAddr u) with
    | .ok k _ => if p k then some (u, k) else none
    | _ => none

/-- A copy unit's or a transfer's read of a line fails: its bytes are delivered poisoned (14 R292). -/
def State.underPoison (s : State) (key : Nat) (f : State → Option State) : State :=
  match f (s.setPoison (lineOf key) true) with
  | some t => t.setPoison (lineOf key) (s.poisoned (lineOf key))
  | none => s

/-- A started copy request's access to a page outside the package fails: a read delivers poison, a write aborts the request. -/
def State.failCopy (s : State) (r : CopyReq) (p : Nat → Bool) : State :=
  if !r.started || r.paused.isSome then s
  else match outUnit s r p with
    | some (u, k) => if r.toNear then s.underPoison k fun t => t.copyUnit r u else s.abortCopy r (r.farAddr u)
    | none => s

/-- The source byte a transfer next moves, where it lies outside the package in a given way: its offset and key. -/
def outSource (s : State) (x : Xdma) (p : Nat → Bool) : Option (Nat × Nat) :=
  match x.spans with
  | [] => none
  | (o, _) :: _ =>
    match translateG s 0x10000 x.ctx (x.src + dw o) .read with
    | .ok k _ => if p k then some (o, k) else none
    | _ => none

/-- A cohort's access that reads a host page at once, a fetch, a `wadr` or an `xdma` descriptor, meets a failed completion: as with both
links down (R424). -/
def State.failDirect (s : State) (cid : Nat) : State :=
  let down := { s with links := [(0, 3), (1, 3)] }
  let back (o : Host.Outcome State Fault Refusal) : State := match o with
    | .next t => { t with links := s.links }
    | _ => s
  let run (p : Instr × State) : State :=
    match p.1 with
    | .wadr o => back (execWadr o p.2)
    | .xdma o x => back (execXdma o x p.2)
    | _ => s
  match (if ready down cid then issue down cid else none), wake down cid 0 with
  | some p, _ => run p
  | none, some p => run p
  | none, none =>
    match (s.cohort cid).ents.find? fun e => e.st == .header || e.st == .fetch with
    | some e => back (execBlockFetchComplete cid e.id down)
    | none => s

/-- HOST_COMPLETION: the completion of message `k`, or, past the messages, a failed one of a transfer, a copy request or a cohort's own
read, in that order (R424). -/
def execHostCompletion (k : Nat) (ok : Bool) (s : State) : Host.Outcome State Fault Refusal :=
  match s.net[k]? with
  | some m =>
    let host := match m with
      | .rd _ l _ => isHost (l * 128)
      | .atom r => isHost r.key
      | _ => false
    .next (if host && mayArrive s k m then s.answerOutside k m ok else s)
  | none =>
    let i := k - s.net.length
    let j := i - s.xdmas.length
    if ok then .next s
    else match s.xdmas[i]?, s.copies[j]? with
      | some x, _ => .next (match outSource s x isHost with
          | some (o, key) => if x.paused.isSome || x.abort then s else s.underPoison key fun t => t.xdmaUnit x o
          | none => s)
      | none, some r => .next (if r.toNear then s.failCopy r isHost else s)
      | none, none => .next (match (tkeys s.cohorts)[j - s.copies.length]? with
          | some cid => s.failDirect cid
          | none => s)

/-! ### The host's accesses (R425, 13 R461) -/

/-- A range that is written touches a context's entry, but for HTRIDX and the words the SC12 writes (20 R401). -/
def entryHit (s : State) (c lo n : Nat) : Bool :=
  let k := sysKey s (ctxEntryAddr s c)
  overlap lo n k 40 || overlap lo n (k + 56) 8

/-- The entries of contexts that the host writes: a torn-down context may be dispatched again, and its registers start anew
(20 R403, R409). -/
def State.entriesWritten (s : State) (lo n : Nat) : State :=
  (tkeys s.ctxs).foldl (fun s c =>
    if entryHit s c lo n then s.setCtx c { s.ctx c with torn := false, started := false } else s) s

/-- The pieces of a run of bytes of the interleaved space by line: key and bytes. -/
def ilvPieces (s : State) (off : Nat) (bs : List Byte) : List (Nat × List Byte) :=
  let first := 128 - off % 128
  (List.range (bs.length / 128 + 2)).filterMap fun i =>
    let lo := if i == 0 then 0 else first + 128 * (i - 1)
    let hi := min bs.length (first + 128 * i)
    if lo < hi then some (ilvKey s (off + lo), (bs.drop lo).take (hi - lo)) else none

/-- Writes of the host or a peer performed at their lines' homes, all or, while one is held, none. -/
def State.ilvWrite (s : State) (off : Nat) (bs : List Byte) : Option State :=
  let ps := ilvPieces s off bs
  if !(ps.all fun p => homeFree s (lineOf p.1)) then none
  else some (ps.foldl (fun (s : State) p => ((s.devWrite p.1 p.2).getD s).entriesWritten p.1 p.2.length) s)

/-- Lines of a run of the interleaved space. -/
def ilvLines (s : State) (off n : Nat) : List Nat := (ilvPieces s off (List.replicate n 0)).map fun p => lineOf p.1

/-- A run of the interleaved space, as its homes hold it. -/
def ilvRead (s : State) (off n : Nat) : List Byte := (List.range n).map fun i => s.byte (ilvKey s (off + i))

/-- HOST_INBOUND_ACCESS: a write or a read of the host through BAR 4 or CXL.mem, uncached at the lines' homes; one that a claim or a
lease holds back waits (R425). -/
def execHostInboundAccess (io off : Nat) (wr : Option (List Byte)) (len : Nat) (s : State) : Host.Outcome State Fault Refusal :=
  let n := match wr with | some bs => bs.length | none => len
  if recovery s || !portUp s io || ilvSize s < off + n then .next s
  else match wr with
    | some bs => .next ((s.ilvWrite off bs).getD ((ilvLines s off n).foldl (fun s l => s.recallHead l) s))
    | none =>
      let ls := ilvLines s off len
      if ls.any fun l => !(s.dirEnt l).clm.isEmpty then .next (ls.foldl (fun s l => s.recallHead l) s)
      else .next (s.emit (.read io (ilvRead s off len) (!(ls.any s.poisoned))))

/-- The host, or a peer, writes its own memory. A line written whole is poisoned no longer. -/
def State.outsideWrite (s : State) (key : Nat) (bs : List Byte) : State :=
  if !(isHost key || (isPeer key && isPeer (key + bs.length))) then s
  else
    let whole := ((List.range (bs.length / 128 + 2)).map (lineOf key + ·)).filter fun l =>
      key ≤ 128 * l && 128 * l + 128 ≤ key + bs.length
    (whole.foldl (fun s l => s.setPoison l false) (s.setBytes key bs)).entriesWritten key bs.length

/-! ### Peers (R426-R428) -/

/-- Word i of PEERn. -/
def peerWord (s : State) (n i : Nat) : DWord := tget 0 s.peers (2 * n + i)

/-- A peer's atomic performed at its line's home. -/
def State.peerAtom (s : State) (peer off : Nat) (fn : AtomFn) (size : Nat) (d c m : BitVec 128) : State :=
  let key := ilvKey s off
  if s.poisoned (lineOf key) then s.emit (.peer peer [] 0 false)
  else
    let old := s.bytes key size
    let x := atomStep fn size (leNat old) d.toNat c.toNat m.toNat
    let s := match x.1 with
      | some v => (s.homeWrite key (leBytes size v)).entriesWritten key size
      | none => s
    s.emit (.peer peer old x.2 true)

/-- PEER_REQUEST: refused where IN = 0 or the bytes lie past the interleaved space; else performed at the lines' homes, a request that a
lease or a claim holds back waiting (R427). -/
def execPeerRequest (peer off : Nat) (req : PeerOp) (s : State) : Host.Outcome State Fault Refusal :=
  let refuse : State := s.emit (.peer peer [] 0 false)
  let n := match req with | .read n => n | .write bs => bs.length | .atom _ z _ _ _ => z
  if 64 ≤ peer || recovery s then .next s
  else if !(peerWord s peer 1).getLsbD 0 || ilvSize s < off + n then .next refuse
  else
    let ls := ilvLines s off n
    let wait : State := ls.foldl (fun s l => s.recallHead l) s
    match req with
    | .read n =>
      .next (if ls.any fun l => !(s.dirEnt l).clm.isEmpty then wait
        else s.emit (.peer peer (ilvRead s off n) 0 (!(ls.any s.poisoned))))
    | .write bs => .next (((s.ilvWrite off bs).map fun t => t.emit (.peer peer [] 0 true)).getD wait)
    | .atom fn size d c m =>
      .next (if off % size != 0 || !([4, 8, 16].contains size) then refuse
        else if ls.any fun l => !homeFree s l then wait
        else s.peerAtom peer off fn size d c m)

/-- A message to a peer's page. -/
def toPeer : Instr → Bool
  | .rd _ l _ => isPeer (l * 128)
  | .atom r => isPeer r.key
  | .wb _ l _ _ _ _ => isPeer (l * 128)
  | _ => false

/-- PEER_RESPONSE: the peer's answer to message `k`; or, past the messages, the failure of a transfer, which aborts, or of a copy
request (R428). -/
def execPeerResponse (k : Nat) (ok : Bool) (s : State) : Host.Outcome State Fault Refusal :=
  match s.net[k]? with
  | some m =>
    .next (if toPeer m && mayArrive s k m then { s.answerOutside k m ok with tries := s.tries.filter (·.1 != m) } else s)
  | none =>
    let i := k - s.net.length
    if ok then .next s
    else match s.xdmas[i]?, s.copies[i - s.xdmas.length]? with
      | some x, _ =>
        let peer (a : DWord) (k : Acc) : Bool := match translateG s 0x10000 x.ctx a k with | .ok key _ => isPeer key | _ => false
        let o := (x.spans.head?.map (·.1)).getD 0
        .next (if !x.abort && !x.spans.isEmpty && (peer (x.src + dw o) .read || peer (x.dst + dw o) .write) then
          s.freeXdma { x with abort := true } else s)
      | none, some r => .next (s.failCopy r isPeer)
      | none, none => .next s

/-- PEER_RETRANSMIT: a frame not acknowledged 10 µs after it was sent is sent again, at most 8 times; after that its request fails (R426,
R428). -/
def execPeerRetransmit (k : Nat) (s : State) : Host.Outcome State Fault Refusal :=
  match s.net[k]? with
  | none => .next s
  | some m =>
    let n := ((s.tries.find? (·.1 == m)).map (·.2)).getD 0
    let rest := s.tries.filter (·.1 != m)
    .next (if !toPeer m || !mayArrive s k m || (s.ptime - s.sentAt.getD k 0).toNat < 160000 then s
      else if n < 8 then { s with tries := rest ++ [(m, n + 1)], sentAt := s.sentAt.set k s.ptime }
      else { s.answerOutside k m false with tries := rest })

/-! ### External time (15 R312, R314, R430) -/

/-- PTP_EVENT_MESSAGE: the port stamps the message with TIME. One of the port the servo runs over, which the service chooses, gives the servo its new
state: it stands in TERR, and TIME is steered by a slew of at most 1 part in 4,096, in parts of 2^32 (R312, R314, R430). A bound includes the
package's own 64 units. -/
def execPtpEventMessage (port : Nat) (lock : Bool) (bound : Word) (slew : Int) (s : State) : Host.Outcome State Fault Refusal :=
  .next (if 8 ≤ port || 2 ^ 20 < slew.natAbs then s
    else
      let s := { s with ptpStamp := tput 0 s.ptpStamp port s.ptime }
      let p := if port == bits s.terr 32 4 then (0, s) else s.choose 2
      let s := p.2
      if p.1 != 0 then s
      else
      let b := if lock && 64 ≤ bound.toNat then bound.toNat else 0xFFFFFFFF
      { s with
        slew := slew
        terr := dw ((if lock then 2 ^ 63 else 0) + port * 2 ^ 32 + b) })

end Sys2Proof.Machine
end

