-- ==== Sys2Proof/Machine/Firmware.lean ====
section
/-! DEFINITION. Firmware commands, SPDM, secure sessions and IDE keys (21 R431-R434). -/
namespace Sys2Proof.Machine

/-! ### Firmware commands (R432) -/

/-- STATE when nothing is in progress: running or recovery. -/
def restState (s : State) : BitVec 4 := if recovery s then 2 else 1
/-- FWCMD with its reserved bits 0. -/
def fwcmdOf (v : DWord) : DWord := v &&& 0xFFFFFFFFFFFFF003
/-- A write of FWCMD with a command is taken up: STATE is neither 3 nor 4. -/
def fwTaken (s : State) (v : DWord) (cmd : Nat) : Bool := s.fw.state != 3 && s.fw.state != 4 && bits v 0 2 == cmd

/-- The staged image in host memory at an address: the length its header gives, or the error met: 5 where it cannot be read, 4 where its
length is more than 64 MiB. -/
def stagedImage (s : State) (a : Nat) : Except Nat (List Byte) :=
  let lost (n : Nat) : Bool := !hostUp s || (List.range (n / 128 + 2)).any fun i => s.poisoned (lineOf (hostKey a) + i)
  let n := Config.imageLen (s.bytes (hostKey a) 4096)
  if lost 4096 then .error 5 else if 2 ^ 26 < n then .error 4 else if lost n then .error 5 else .ok (s.bytes (hostKey a) n)

/-- Steps 2 and 3 of R431: both signatures, then the SVN against the fused minimum. -/
def imageCheck (minSvn : BitVec 16) (img : List Byte) : Nat :=
  if Config.imageErr img != 0 then Config.imageErr img else if (Config.imageSvn img).toNat < minSvn.toNat then 3 else 0

/-- What the service core ends a verification with. -/
def State.endVerify (s : State) : State :=
  let f := s.fw
  match stagedImage s (bits f.cmd 12 52 * 4096) with
  | .error e => { s with fw := { f with state := restState s, err := BitVec.ofNat 8 e, staged := none } }
  | .ok img =>
    let e := imageCheck f.minSvn img
    { s with fw := { f with
        state := restState s
        err := BitVec.ofNat 8 e
        staged := if e == 0 then some img else none } }

/-- FW_STAGE_VERIFY: STATE becomes 3; from then on this step ends the verification (R432). -/
def execFwStageVerify (v : DWord) (s : State) : Host.Outcome State Fault Refusal :=
  .next (if s.fw.state == 3 then s.endVerify
    else if fwTaken s v 1 then { s with fw := { s.fw with cmd := fwcmdOf v, state := 3 } }
    else s)

/-- FW_COMMIT: a verified staged image begins to be written, STATE 4; from then on this step ends the write, which may fail and leave the
slot as it was or unverifiable (R432). -/
def execFwCommit (v : DWord) (ok : Bool) (s : State) : Host.Outcome State Fault Refusal :=
  let f := s.fw
  if f.state == 4 then
    .next (if ok then { s with fw := { f with state := restState s, err := 0, slot := f.staged } }
      else
        let p := s.choose 2
        { p.2 with fw := { f with state := restState s, err := 6, slot := if p.1 == 0 then f.slot else none } })
  else .next (if fwTaken s v 2 then
      { s with fw := { f with cmd := fwcmdOf v, state := if f.staged.isSome then 4 else f.state } }
    else s)

/-- FW_RAISE_MINSVN: refused with no change where no verified image is staged (R432). -/
def execFwRaiseMinsvn (v : DWord) (s : State) : Host.Outcome State Fault Refusal :=
  .next (match s.fw.staged with
    | some img => if fwTaken s v 3 then { s with fw := { s.fw with cmd := fwcmdOf v, minSvn := Config.imageSvn img } } else s
    | none => s)

/-! ### SPDM (R433) -/

/-- A request on an I/O die's management channel can be answered: its port carries messages and the firmware runs. -/
def spdmUp (s : State) (io : Nat) : Bool := portUp s io && !recovery s
/-- An answer. -/
def State.spdm (s : State) (io code : Nat) (args : List Nat) : State := s.emit (.spdm io code (Config.spdm code args))
/-- ERROR with a code: 1 invalid request, 4 unexpected request, 6 decrypt error, 7 unsupported request, 10 session limit. -/
def State.spdmErr (s : State) (io e : Nat) : State := s.emit (.spdm io 0x7F [e])
/-- A signed answer: the RSA signature stands in it, and the transcript is kept for the vendor-defined request that follows. -/
def State.spdmSigned (s : State) (io code : Nat) (args : List Nat) : State :=
  { s.spdm io code args with signed := tput [] s.signed io (code :: args) }

/-- What measurement `idx` measures. -/
def measured (s : State) (idx : Nat) : List Nat :=
  match idx with
  | 1 => [Config.digest (s.fw.running.getD [])]
  | 2 => [s.fw.svn.toNat, s.fw.minSvn.toNat] ++ (List.range 12).map fun d => (Config.fuse d).toNat
  | 3 => Config.spdm 0x200 []
  | _ => []

/-- GET_DIGESTS (R433). -/
def execGetDigests (io : Nat) (s : State) : Host.Outcome State Fault Refusal :=
  .next (if spdmUp s io then s.spdm io 0x01 [] else s)

/-- GET_CERTIFICATE: slot 0 holds the RSA chain, slot 1 the SLH-DSA chain (R433). -/
def execGetCertificate (io slot off len : Nat) (s : State) : Host.Outcome State Fault Refusal :=
  .next (if !spdmUp s io then s else if 2 ≤ slot then s.spdmErr io 1 else s.spdm io 0x02 [slot, off, len])

/-- CHALLENGE (R433). -/
def execChallenge (io slot : Nat) (nonce : BitVec 256) (s : State) : Host.Outcome State Fault Refusal :=
  .next (if !spdmUp s io then s else if 2 ≤ slot then s.spdmErr io 1 else s.spdmSigned io 0x03 [slot, nonce.toNat])

/-- GET_MEASUREMENTS: index 0 asks for their number, 255 for all (R433). -/
def execGetMeasurements (io idx : Nat) (sign : Bool) (nonce : BitVec 256) (s : State) : Host.Outcome State Fault Refusal :=
  let args := (if idx == 255 then [1, 2, 3].flatMap (measured s) else if idx == 0 then [3] else measured s idx) ++ [nonce.toNat]
  .next (if !spdmUp s io then s
    else if 3 < idx && idx != 255 then s.spdmErr io 1
    else if sign then s.spdmSigned io 0x60 (idx :: args) else s.spdm io 0x60 (idx :: args))

/-- VENDOR_DEFINED_REQUEST: the SLH-DSA signature over the transcript of the signed answer it follows (R433). -/
def execVendorDefinedRequest (io : Nat) (s : State) : Host.Outcome State Fault Refusal :=
  .next (if !spdmUp s io then s
    else match tget [] s.signed io with
      | [] => s.spdmErr io 4
      | t => { s.spdm io 0x7E t with signed := terase s.signed io })

/-! ### Secure sessions (R434) -/

/-- A session of a port. -/
def sessOf (s : State) (io sess : Nat) : Option Sess := s.sess.find? fun x => x.io == io && x.id == sess
/-- An established session. -/
def upSess (s : State) (io sess : Nat) : Option Sess := (sessOf s io sess).filter (·.up)
/-- A session replaced. -/
def State.setSess (s : State) (x : Sess) : State :=
  { s with sess := s.sess.map fun y => if y.io == x.io && y.id == x.id then x else y }
/-- A session ends. -/
def State.dropSess (s : State) (io sess : Nat) : State := { s with sess := s.sess.filter fun y => !(y.io == io && y.id == sess) }

/-- KEY_EXCHANGE: a session begins, at most 4 to a port; the answer is signed (R433, R434). -/
def execKeyExchange (io slot : Nat) (data : BitVec 768) (s : State) : Host.Outcome State Fault Refusal :=
  .next (if !spdmUp s io then s
    else if 2 ≤ slot then s.spdmErr io 1
    else if 4 ≤ (s.sess.filter (·.io == io)).length then s.spdmErr io 10
    else
      let args := [s.next, slot, data.toNat]
      { s.spdmSigned io 0x64 args with
        next := s.next + 1, sess := s.sess ++ [⟨io, s.next, false, 0, 0, 0x64 :: args⟩] })

/-- FINISH: with the right HMAC the handshake is complete; else the session ends (R434). -/
def execFinish (io sess : Nat) (mac : BitVec 384) (s : State) : Host.Outcome State Fault Refusal :=
  .next (if !spdmUp s io then s
    else match sessOf s io sess with
      | some x =>
        if x.up then s.spdmErr io 4
        else if Config.macOk x.trans mac then (s.setSess { x with up := true }).spdm io 0x65 x.trans
        else (s.dropSess io sess).spdmErr io 6
      | none => s.spdmErr io 1)

/-- A request within an established session. -/
def inSess (s : State) (io sess : Nat) (k : Sess → State) : State :=
  if !spdmUp s io then s else match upSess s io sess with | some x => k x | none => s.spdmErr io 1

/-- KEY_UPDATE: UpdateKey renews the requester's keys, UpdateAllKeys both directions' (R434). -/
def execKeyUpdate (io sess : Nat) (all : Bool) (s : State) : Host.Outcome State Fault Refusal :=
  .next (inSess s io sess fun x =>
    let t := s.setSess { x with reqKeys := x.reqKeys + 1, rspKeys := if all then x.rspKeys + 1 else x.rspKeys }
    t.spdm io 0x69 [sess, if all then 2 else 1])

/-- HEARTBEAT (R434). -/
def execHeartbeat (io sess : Nat) (s : State) : Host.Outcome State Fault Refusal :=
  .next (inSess s io sess fun _ => s.spdm io 0x68 [sess])

/-- END_SESSION (R434). -/
def execEndSession (io sess : Nat) (s : State) : Host.Outcome State Fault Refusal :=
  .next (inSess s io sess fun _ => (s.dropSess io sess).spdm io 0x6C [sess])

/-- PSK_EXCHANGE: ERROR UnsupportedRequest (R434). -/
def execPskExchange (io : Nat) (s : State) : Host.Outcome State Fault Refusal :=
  .next (if spdmUp s io then s.spdmErr io 7 else s)

/-! ### IDE keys (R434) -/

/-- The key sets of a port. -/
def ideOf (s : State) (io : Nat) : List IdeKey := s.ide.filter (·.io == io)
/-- A port's key set for a stream. -/
def ideKey (s : State) (io stream : Nat) : Option IdeKey := s.ide.find? fun k => k.io == io && k.stream == stream
/-- An answer of IDE_KM, its object numbered past the SPDM codes, with a status: 0 done, 1 refused. -/
def State.ideAck (s : State) (io obj st : Nat) : State := s.emit (.spdm io (0x100 + obj) [st])
/-- A stream's key set is active or not. -/
def State.setIde (s : State) (io stream : Nat) (on : Bool) : State :=
  { s with ide := s.ide.map fun (k : IdeKey) => if k.io == io && k.stream == stream then { k with active := on } else k }

/-- IDE_KM QUERY (R434). -/
def execIdeKmQuery (io sess : Nat) (s : State) : Host.Outcome State Fault Refusal :=
  .next (inSess s io sess fun _ => s.spdm io 0x101 ((ideOf s io).map (·.stream)))

/-- KEY_PROG: a selective stream's key, at most 4 streams to a port; refused outside a session, with no key changed (R434). -/
def execKeyProg (io : Nat) (sess : Option Nat) (stream : Nat) (key : BitVec 256) (s : State) : Host.Outcome State Fault Refusal :=
  .next (match sess with
    | none => if spdmUp s io then s.ideAck io 3 1 else s
    | some n => inSess s io n fun _ =>
      let rest := s.ide.filter fun k => !(k.io == io && k.stream == stream)
      if (ideKey s io stream).isNone && 4 ≤ (ideOf s io).length then s.ideAck io 3 1
      else { s with ide := rest ++ [({ io := io, stream := stream, key := key, active := false } : IdeKey)] }.ideAck io 3 0)

/-- K_SET_GO (R434). -/
def execKSetGo (io sess stream : Nat) (s : State) : Host.Outcome State Fault Refusal :=
  .next (inSess s io sess fun _ =>
    if (ideKey s io stream).isSome then (s.setIde io stream true).ideAck io 6 0 else s.ideAck io 6 1)

/-- K_SET_STOP (R434). -/
def execKSetStop (io sess stream : Nat) (s : State) : Host.Outcome State Fault Refusal :=
  .next (inSess s io sess fun _ =>
    if (ideKey s io stream).isSome then (s.setIde io stream false).ideAck io 6 0 else s.ideAck io 6 1)

end Sys2Proof.Machine
end

