-- ==== Sys2Proof/Machine/Monitors.lean ====
section
/-! DEFINITION. Margining, monitor channels, registers that a read clears, and registers with no row of their own (00 R4, 05 R104-R106,
13 R269, 15 R303, 20 R400, R409, R414, 21 R427, R432, 22 R436-R444). -/
namespace Sys2Proof.Machine

def State.bridge (s : State) (b : Nat) : Bridge := tget Bridge.reset s.bridges b
def State.setBridge (s : State) (b : Nat) (x : Bridge) : State := { s with bridges := tput Bridge.reset s.bridges b x }
def State.mon (s : State) (ch : Nat) : Mon := tget Mon.reset s.mons ch
def State.setMon (s : State) (ch : Nat) (x : Mon) : State := { s with mons := tput Mon.reset s.mons ch x }

/-- TIME units of a µs. -/
def usTime : Nat := 16000

/-! ### Margining (22 R436, R437) -/

/-- BMCTL's fields as a write sets them: RUN as given, a LANE above 527 as 527. -/
def bmctlOf (v : DWord) : DWord := setBits (v &&& 0xC00003FF00FFFFFF) 32 10 (min 527 (bits v 32 10))

/-- MARGIN_DWELL_START: ignored while RUN = 1 (R437). -/
def execMarginDwellStart (b : Nat) (v : DWord) (s : State) : Host.Outcome State Fault Refusal :=
  .next (if recovery s || 20 ≤ b || !v.getLsbD 63 || (s.bridge b).ctl.getLsbD 63 then s
    else s.setBridge b { s.bridge b with ctl := bmctlOf v, dwellAt := s.ptime })

/-- MARGIN_DWELL_END: once DWELL has passed, RUN falls and MISM holds what the dwell counted, which nothing here can foresee (R437). -/
def execMarginDwellEnd (b : Nat) (s : State) : Host.Outcome State Fault Refusal :=
  let x := s.bridge b
  .next (if !x.ctl.getLsbD 63 || (s.ptime - x.dwellAt).toNat < max 1 (bits x.ctl 0 8) * 10 * usTime then s
    else { s.setBridge b { x with
        ctl := setBits x.ctl 63 1 0
        res := setBits x.res 0 32 (Config.word s.free).toNat } with free := s.free + 1 })

/-- BMRES_READ: CORR is cleared, MISM stays (R437). -/
def execBmresRead (b : Nat) (s : State) : Host.Outcome State Fault Refusal :=
  let x := s.bridge b
  .next (if recovery s || 20 ≤ b then s else (s.setBridge b { x with res := setBits x.res 32 32 0 }).emit (.reg x.res))

/-- VMARG_ACT_STEP: ACT moves a step of 5 mV toward OFS, 5 µs after the last at the earliest (R436). -/
def execVmargActStep (die : Nat) (s : State) : Host.Outcome State Fault Refusal :=
  let d := s.die die
  .next (if 12 ≤ die || d.vmAct == d.vmOfs || (s.ptime - d.vmAt).toNat < 5 * usTime then s
    else s.setDie die { d with
      vmAct := if d.vmAct < d.vmOfs then d.vmAct + 1 else d.vmAct - 1
      vmAt := s.ptime })

/-! ### Monitor channels (22 R440, R441) -/

/-- The sample a channel takes: FCUR, 0 where there is no sensor, else what the sensor gives. -/
def sampleOf (s : State) (ch : Nat) (v : BitVec 16) : BitVec 16 :=
  let d := ch / 8
  match ch % 8 with
  | 3 => if d < 12 then v else 0
  | 4 => if d < 12 then (s.die d).fcur else v
  | 5 => 0
  | 6 => 0
  | 7 => 0
  | _ => v

/-- The bin of a sample. -/
def binOf (ctl : DWord) (v : BitVec 16) : Nat :=
  let base : BitVec 16 := ctl.extractLsb' 32 16
  (max 0 (min 15 ((v.toInt - base.toInt) / 2 ^ bits ctl 28 4))).toNat

/-- A sample updates LAST, MAX, MIN and its bin as one. -/
def takeSample (x : Mon) (v : BitVec 16) (now : DWord) : Mon :=
  let i := binOf x.ctl v
  let n := tget 0 x.bins i
  { x with
    last := v
    max := if x.max.toInt < v.toInt then v else x.max
    min := if v.toInt < x.min.toInt then v else x.min
    bins := tput 0 x.bins i (if n == 0xFFFFFFFF then n else n + 1)
    sampleAt := now }

/-- The word at 0x10 of a threshold event: KIND 1, the channel, its agent, no core and no slot (R442). -/
def threshPlace (ch : Nat) : DWord := dw (2 ^ 47 + ch * 2 ^ 32 + ch / 8 * 2 ^ 28 + 0xFFFFFFF)

/-- MONITOR_SAMPLE: every PER µs while EN = 1; a rising crossing of THR makes an event where TEV = 1 (R440-R442). -/
def execMonitorSample (ch : Nat) (v : BitVec 16) (s : State) : Host.Outcome State Fault Refusal :=
  let x := s.mon ch
  if 112 ≤ ch || !x.ctl.getLsbD 0 || (s.ptime - x.sampleAt).toNat < bits x.ctl 4 12 * usTime then .next s
  else
    let v := sampleOf s ch v
    let thr : BitVec 16 := x.ctl.extractLsb' 48 16
    let t := s.setMon ch (takeSample x v s.ptime)
    let time := if ch / 8 < 12 then s.timeOf (ch / 8) else s.ptime
    .next (if x.ctl.getLsbD 2 && thr.toInt < v.toInt && x.last.toInt ≤ thr.toInt then
        (match t.eventRecord time (threshPlace ch) (v.signExtend 64) with | some p => p.2 | none => t)
      else t)

/-- MONVAL as it reads. -/
def monval (x : Mon) : DWord := dw (x.max.toNat * 2 ^ 48 + x.min.toNat * 2 ^ 32 + x.last.toNat * 2 ^ 16)

/-- MONVAL_READ: MAX and MIN become LAST (R440). -/
def execMonvalRead (ch : Nat) (s : State) : Host.Outcome State Fault Refusal :=
  let x := s.mon ch
  .next (if recovery s || 112 ≤ ch then s else (s.setMon ch { x with max := x.last, min := x.last }).emit (.reg (monval x)))

/-- HIST_READ: the bin is cleared (R440). -/
def execHistRead (ch i : Nat) (s : State) : Host.Outcome State Fault Refusal :=
  let x := s.mon ch
  .next (if recovery s || 112 ≤ ch || 16 ≤ i then s
    else (s.setMon ch { x with bins := terase x.bins i }).emit (.reg ((tget 0 x.bins i).zeroExtend 64)))

/-- DSTAT_READ: both counts are cleared (05 R105). -/
def execDstatRead (die : Nat) (s : State) : Host.Outcome State Fault Refusal :=
  let d := s.die die
  .next (if recovery s || 12 ≤ die then s
    else (s.setDie die { d with fstalls := 0, relocs := 0 }).emit (.reg (d.fstalls ++ d.relocs)))

/-! ### Registers with no row of their own (00 R4) -/

/-- A write of DCLK: a range that breaks 800 ≤ FMIN ≤ FMAX ≤ 1,900 changes nothing; FCUR is brought within it, and the old range is kept for
the 2 µs in which the union is reported (15 R303). -/
def writeDclk (d : Die) (v : DWord) : Die :=
  let hi : BitVec 16 := v.extractLsb' 16 16
  let lo : BitVec 16 := v.extractLsb' 0 16
  if lo.toNat < 800 || hi.toNat < lo.toNat || 1900 < hi.toNat then d
  else { d with
    fmax := hi
    fmin := lo
    fcur := if d.fcur.toNat < lo.toNat then lo else if hi.toNat < d.fcur.toNat then hi else d.fcur
    fold := some (BitVec.ofNat 16 (dieRange d).1, BitVec.ofNat 16 (dieRange d).2, d.time) }

/-- A write of a distributor window's register: DCLK, VMARG, ACCTBASE. -/
def State.writeWindow (s : State) (die off : Nat) (v : DWord) : State :=
  let d := s.die die
  match off with
  | 0x020 => s.setDie die (writeDclk d v)
  | 0x040 =>
    let o := (v.extractLsb' 0 8).toInt
    if o < -20 || 20 < o then s else s.setDie die { d with vmOfs := o }
  | 0x050 => s.setDie die { d with acctBase := v &&& 0xFFFFFFFFFF800001 }
  | _ => s

/-- A write of MONCTL: a PER of 0 is ignored; sampling that is turned on counts its period from now (22 R440). -/
def State.writeMonctl (s : State) (ch : Nat) (v : DWord) : State :=
  let x := s.mon ch
  let c := v &&& 0xFFFFFFFFF000FFF5
  let c := if bits v 4 12 == 0 then setBits c 4 12 (bits x.ctl 4 12) else c
  s.setMon ch { x with
    ctl := c
    sampleAt := if v.getLsbD 0 && !x.ctl.getLsbD 0 then s.ptime else x.sampleAt }

/-- A write of CTXCMD that carries no command. -/
def State.writeCtxcmd (s : State) (v : DWord) : State :=
  let cmd := bits v 43 3
  if s.ctxcmd.getLsbD 31 || !(cmd == 0 || cmd == 6 || cmd == 7) then s
  else { s with ctxcmd := (s.ctxcmd &&& 0x60000000) ||| (v &&& 0xFFFF3FFF000007FF) }

/-- A write to BAR 0 at an offset (04 R79, 13 R269, 20 R400, R409, R414, 21 R427, R432, 22 R437, R440, R442); registers reached through
I/O die 0 alone take no write through I/O die 1. -/
def State.writeBar0 (s : State) (io off : Nat) (v : DWord) : State :=
  let ring := v &&& 0xFFFFFFFFFFFFF01F
  if off == 0x1000 then { s with qtbase := v &&& 0xFFFFFFFFFFFF0001 }
  else if off == 0x1100 then (if 64 < bits v 0 7 then s else { s with pmap := v.extractLsb' 0 7 })
  else if off == 0x1200 then { s with ctxtbase := v &&& 0xFFFFFFFFFFC00001 }
  else if off == 0x1208 then s.writeCtxcmd v
  else if off == 0x1300 then (if io == 0 then { s with mcring := ring } else s)
  else if off == 0x1308 then (if io == 0 then { s with mcidx := setBits s.mcidx 32 32 (bits v 32 32) } else s)
  else if off == 0x1C00 then { s with evring := ring }
  else if off == 0x1C08 then { s with evidx := setBits s.evidx 32 32 (bits v 32 32) }
  else if 0x1A00 ≤ off && off < 0x1A00 + 320 && off % 16 == 0 then
    let b := (off - 0x1A00) / 16
    if v.getLsbD 63 || (s.bridge b).ctl.getLsbD 63 then s else s.setBridge b { s.bridge b with ctl := bmctlOf v }
  else if 0x4000 ≤ off && off < 0x4400 && off % 8 == 0 then
    let i := (off - 0x4000) / 8
    { s with peers := tput 0 s.peers i (v &&& (if i % 2 == 0 then 0x8007FFFFFFFFFFFF else 0xFFFF000000000001)) }
  else if 0x100000 ≤ off && off < 0x10C000 && io == 0 then s.writeWindow ((off - 0x100000) / 4096) (off % 4096) v
  else if 0x300000 ≤ off && off < 0x300000 + 128 * 112 && off % 128 == 0 && io == 0 then s.writeMonctl ((off - 0x300000) / 128) v
  else s

/-- REGISTER_WRITE: the host writes a register that no other row writes, through the BAR 0 of an I/O die whose port is up; in recovery only
FWCMD is exposed (R431). Offset 2^24 stands for the base the host assigns to the die's BAR 4 (13 R461). -/
def execRegisterWrite (io off : Nat) (v : DWord) (s : State) : Host.Outcome State Fault Refusal :=
  .next (if !portUp s io then s
    else if off == 2 ^ 24 then { s with bar4 := tput 0 s.bar4 io (v &&& ~~~(0xF#64)) }
    else if off == 0x1508 then
      (if s.fw.state == 3 || s.fw.state == 4 || bits v 0 2 != 0 then s
       else { s with fw := { s.fw with cmd := v &&& 0xFFFFFFFFFFFFF003 } })
    else if recovery s then s
    else s.writeBar0 io off v)

/-! ### Reads of BAR 0 (00 R4) -/

/-- A register of a distributor window: DCFG, MCARVE, DCLK, DRSTAT, VMARG, ACCTBASE, DQENTi (05 R104, R106, 13 R277, 15 R303, 20 R418,
22 R436, R444). -/
def windowReg (s : State) (die off : Nat) : DWord :=
  let d := s.die die
  match off with
  | 0x000 => dw ((if d.lcbPend then 32 else 0) + d.lcb.toNat)
  | 0x010 => dw (d.mcCtx.toNat * 2 ^ 48 + (if d.mcPend then 512 else 0) + d.mcSize.toNat)
  | 0x020 => dw (d.fcur.toNat * 2 ^ 32 + d.fmax.toNat * 2 ^ 16 + d.fmin.toNat)
  | 0x030 => dw (d.rstCount.toNat * 2 ^ 32 + d.rstCause.toNat * 16 + (if d.rstBusy then 1 else 0))
  | 0x040 => dw ((BitVec.ofInt 8 d.vmAct).toNat * 256 + (BitVec.ofInt 8 d.vmOfs).toNat)
  | 0x050 => d.acctBase
  | _ => if 0x800 ≤ off && off < 0x1000 && off % 8 == 0 then tget 0 d.dqent ((off - 0x800) / 8) else 0

/-- FWSTAT (21 R432). -/
def fwstat (f : Firmware) : DWord := dw (f.svn.toNat * 2 ^ 32 + f.minSvn.toNat * 2 ^ 16 + f.err.toNat * 16 + f.state.toNat)

/-- A register of BAR 0 of an I/O die as a plain read returns it: each as its field map has it, what is reserved and where no register is as 0
(00 R4, 04 R79, 13 R269, R276, R280, 20 R400, R409, R414, 21 R427, R432, 22 R435, R437, R440, R442). The registers a read clears have rows of
their own. -/
def bar0Reg (s : State) (io off : Nat) : DWord :=
  if off == 0x1000 then s.qtbase
  else if off == 0x1008 then tget 0 s.qdoorbell io
  else if off == 0x1100 then s.pmap.zeroExtend 64
  else if off == 0x1110 then s.tinv
  else if off == 0x1200 then s.ctxtbase
  else if off == 0x1208 then s.ctxcmd
  else if off == 0x1300 then (if io == 0 then s.mcring else 0)
  else if off == 0x1308 then (if io == 0 then s.mcidx else 0)
  else if off == 0x1500 then fwstat s.fw
  else if off == 0x1508 then s.fw.cmd
  else if 0x1900 ≤ off && off < 0x1960 && off % 8 == 0 then (Config.fuse ((off - 0x1900) / 8)).zeroExtend 64
  else if 0x1A00 ≤ off && off < 0x1A00 + 320 && off % 16 == 0 then (s.bridge ((off - 0x1A00) / 16)).ctl
  else if off == 0x1C00 then s.evring
  else if off == 0x1C08 then s.evidx
  else if 0x2000 ≤ off && off < 0x4000 && off % 8 == 0 then tget 0 s.qappend (1024 * io + (off - 0x2000) / 8)
  else if 0x4000 ≤ off && off < 0x4400 && off % 8 == 0 then tget 0 s.peers ((off - 0x4000) / 8)
  else if io != 0 then 0
  else if 0x100000 ≤ off && off < 0x10C000 then windowReg s ((off - 0x100000) / 4096) (off % 4096)
  else if 0x200000 ≤ off && off < 0x20C000 && off % 8 == 0 then
    let h := handleOf s ((off - 0x200000) / 4096) (off % 4096 / 16)
    if off % 16 == 0 then h.1 else h.2
  else if 0x300000 ≤ off && off < 0x300000 + 128 * 112 && off % 128 == 0 then (s.mon ((off - 0x300000) / 128)).ctl
  else 0

/-- The host reads a register through an I/O die whose port is up; in recovery only the firmware's registers and DFMAP answer (21 R431, 22
R435). -/
def State.hostRead (s : State) (io off : Nat) : State :=
  let fw := off == 0x1500 || off == 0x1508 || (0x1900 ≤ off && off < 0x1960)
  if 2 ≤ io || !portUp s io || (recovery s && !fw) then s else s.emit (.reg (bar0Reg s io off))

end Sys2Proof.Machine
end

