-- ==== Sys2Proof/Machine/Reset.lean ====
section
/-! DEFINITION. Soft errors, die reset, package reset and loss of power (15 R310, 16 R341, 18 R372, 20 R413, R414, R418-R420, 21 R431,
R432, 22 R435). -/
namespace Sys2Proof.Machine

/-! ### Die reset: what is in flight (16 R341) -/

/-- The engines of a die's copy unit. -/
def engsOf (s : State) (d : Nat) : List Nat := (s.copies.filter fun r => dieOfCore r.core == d).map (·.id)

/-- A message comes from, or goes to, a core, an engine of `es` or the distributor of die `d`. -/
def msgOf (d : Nat) (es : List Nat) (m : Instr) : Bool :=
  match m with
  | .recall e _ => es.contains e
  | .beaconRequest a b => a == d || b == d
  | _ =>
    match wayOf m with
    | .toHome c _ _ => dieOfCore c == d
    | .toCore c _ => dieOfCore c == d
    | .eng e _ => es.contains e
    | .beacon a b => a == d || b == d
    | .free => (writeOf m).any fun p => dieOfCore p.1 == d

/-- Far atomics and reductions on their way are applied, and their answers meet an ended cohort. -/
def outlives : Instr → Bool
  | .atom _ => true
  | .aresp _ => true
  | .redoRequest _ => true
  | _ => false

/-- The line whose bytes a lost message carries, where the line is of the package. -/
def lostLine (m : Instr) : Option Nat :=
  let own (l : Nat) (w : LineMask) : Option Nat := if w == 0 || isHost (l * 128) || isPeer (l * 128) then none else some l
  match m with
  | .wb _ l w _ _ _ => own l w
  | .lend _ l w _ _ => own l w
  | .iackData _ l _ w _ _ => own l w
  | .fack _ l _ w _ _ => own l w
  | _ => none

/-- A message of a reset die is lost. -/
def msgLost (d : Nat) (es : List Nat) (m : Instr) : Bool := msgOf d es m && !outlives m

/-- Cores of a die announced as writers of a line whose write-back has not merged since (16 R341). -/
def unmergedWriters (e : DirEnt) (d : Nat) : List Nat := e.wrt.filter fun c => dieOfCore c == d

/-- The lines of the package with a write that a die's reset loses (16 R341, 17 R358): announced and not merged, dirty in its cores, or on its
way. -/
def lostLines (s : State) (d : Nat) : List Nat :=
  let es := engsOf s d
  let dirty := (dieCores d).flatMap fun c => (s.linesOf c).filter fun l =>
    (s.lc c l).dirty != 0 && !isHost (l * 128) && !isPeer (l * 128)
  let sent := (s.net ++ s.heldAll).filterMap fun m => if msgLost d es m then lostLine m else none
  let wrt := (tkeys s.dir).filter fun l => !(unmergedWriters (s.dirEnt l) d).isEmpty
  (dirty ++ sent ++ wrt).eraseDups

/-- A home treats the cores and engines of a reset die as gone. -/
def goneEnt (d : Nat) (es : List Nat) (e : DirEnt) : DirEnt :=
  { e with
    hold := e.hold.filter fun c => dieOfCore c != d
    wrt := e.wrt.filter fun c => dieOfCore c != d
    lse := e.lse.filter fun l => dieOfCore l.1 != d
    recalled := e.recalled && !(e.clm.head?.any es.contains)
    clm := e.clm.filter fun c => !es.contains c
    held := e.held.filter fun m => !msgLost d es m
    txns := e.txns.map fun t => { t with
      cores := t.cores.filter fun c => dieOfCore c != d
      wbs := t.wbs.filter fun p => dieOfCore p.1 != d
      done := match t.done with
        | .wback c _ => if dieOfCore c == d then .victim else t.done
        | .lend c => if dieOfCore c == d then .victim else t.done
        | .wrote c => if dieOfCore c == d then .victim else t.done
        | .claim g => if es.contains g then .victim else t.done
        | _ => t.done } }

/-- The directory of a reset die's own slices is rebuilt empty: what it waited for is over. The requests of other dies that waited there are served
then (R341). -/
def emptyEnt (e : DirEnt) : DirEnt :=
  { e with
    hold := [], wrt := [], lse := none, clm := [], recalled := false
    txns := e.txns.map fun t => { t with cores := [], wbs := [] } }

/-! ### Die reset: what the die holds (R419) -/

/-- A lost line is poisoned at its home, every copy of it invalidated (17 R358), and recorded. -/
def State.loseLine (s : State) (line : Nat) : State :=
  let k := line * 128
  let s := (s.setPoison line true).invalidate line none .victim
  if isHbm k || isCarve k then s.mcRecord 0 1 3 (homeDie k) (sliceOf line % 24) (dw (homeOff k)) else s

/-- The blocks, tasks and orphan handlers of a die are lost (R419, R420): a block of a grid with RST = 1 goes back unplaced, the others' grids
are aborted, and each abort and each lost task is told to the host. -/
def State.loseBlocks (s : State) (d : Nat) : State :=
  let bs := resident s fun b => b.die == d
  let s := bs.foldl (fun s b => s.killBlk b true) s
  bs.foldl (fun s b =>
    let x := s.blk b
    let g := s.grid x.gid
    if !x.used then s
    else match x.kind with
      | .grid =>
        if !g.active then s.freeBlk b
        else if rRst g.rcd then s.unplace b
        else ((s.abortGrid x.gid).freeBlk b).orphanRecord x.ctx .soft (dw d) d
      | .task => (s.freeBlk b).orphanRecord x.ctx .soft (dw x.idx) d
      | _ => s.freeBlk b) s

/-- Context saves that cohorts of a lost block were making are given up, and what they saved is placed again. -/
def State.loseSavers (s : State) (bs : List Nat) : State :=
  (tkeys s.ctxs).foldl (fun s c =>
    match (s.ctx c).saver with
    | some n =>
      if n != hostSaver && bs.contains (n / 4096) then
        match (s.ctx c).image.bind fun i => s.images.find? (·.id == i) with
        | some m => s.loadImage m
        | none => s.setCtx c { s.ctx c with image := none, saver := none }
      else s
    | none => s) s

/-- A core of a reset die: empty, with its configuration. -/
def clearedCore (c : CoreSt) : CoreSt :=
  { CoreSt.reset with cap := c.cap, rate := c.rate, leasecfg := c.leasecfg, lcb := c.lcb, cred := c.cap.toNat * 256 }

/-- The cores of a die lose their lines, buffers, queues, translations, code and scratch. -/
def State.clearCores (s : State) (d : Nat) : State :=
  let s := (dieCores d).foldl (fun s c => s.setCore c (clearedCore (s.core c))) s
  let lo := scratchKey (d * coresPerDie) 0
  let hi := scratchKey ((d + 1) * coresPerDie) 0
  { s with
    lines := s.lines.filter fun p => dieOfCore (p.1 / 2 ^ 70) != d
    tlb := s.tlb.filter fun t => dieOfCore t.core != d
    code := s.code.filter fun t => dieOfCore t.core != d
    mem := s.mem.filter fun c => c.1 < lo || hi ≤ c.1
    pois := s.pois.filter fun p => p.1 < 2 ^ 70 + lo || 2 ^ 70 + hi ≤ p.1 }

/-- The slices of a die begin their waits anew. -/
def State.clearSlices (s : State) (d : Nat) : State :=
  (tkeys s.grids).foldl (fun s g =>
    match s.slice g d with
    | some x => s.setSlice g { x with
        since := none
        stalled := false
        reserved := false
        freed := []
        tables := none
        bar := (Slice.fresh d 0 0).bar }
    | none => s) s

/-! ### Die reset: tokens and channels (15 R310) -/

/-- A cohort's waits for marks: those of a restarted channel count as reached (R310). -/
def cutWaits (d : Nat) (c : Cohort) : Cohort :=
  { c with waits := (c.waits.map fun w => match w with
      | .tokens ms => .tokens (ms.filter fun m => m.1 != d && m.2.1 != d)
      | w => w).filter fun w => w != .tokens [] }

/-- What an operation carries once channels to and from a die have restarted: no number of one. -/
def cutCarry (d a : Nat) (c : Carry) : Carry := if a == d || c.home == d then { c with home := a, num := 0 } else c
/-- The same for a message. -/
def cutMsg (d : Nat) : Instr → Instr
  | .wb c l w b p ⟨n, car⟩ => .wb c l w b p ⟨n, (cutCarry d (dieOfCore c) car)⟩
  | .iackData c l t w b ⟨p, car⟩ => .iackData c l t w b ⟨p, (cutCarry d (dieOfCore c) car)⟩
  | .fack c l t w b ⟨p, car⟩ => .fack c l t w b ⟨p, (cutCarry d (dieOfCore c) car)⟩
  | .lend c l w b ⟨p, car⟩ => .lend c l w b ⟨p, (cutCarry d (dieOfCore c) car)⟩
  | .atom r => .atom { r with car := cutCarry d (dieOf r.cid) r.car }
  | .redoRequest r => .redoRequest { r with car := cutCarry d (dieOf r.cid) r.car }
  | .redoRetry r => .redoRetry { r with car := cutCarry d (dieOf r.cid) r.car }
  | m => m

/-- Every channel to and from a die restarts, with a new epoch; marks of the old one count as reached wherever they are kept. -/
def State.cutChannels (s : State) (d : Nat) : State :=
  let onChan (k : Nat) : Bool := k / 16 == d || k % 16 == d
  let x := s.die d
  let s := s.setDie d { x with epoch := x.epoch + 1 }
  { s with
    net := s.net.map (cutMsg d)
    dir := s.dir.map fun (p : Nat × DirEnt) => (p.1, { p.2 with held := p.2.held.map (cutMsg d) })
    defer := s.defer.map fun p => (p.1, p.2.map fun x => match x with
      | .redo r => .redo { r with car := cutCarry d (dieOf r.cid) r.car }
      | x => x)
    chanSeq := s.chanSeq.filter fun p => !onChan p.1
    chanOpen := s.chanOpen.filter fun p => !onChan p.1
    beacons := s.beacons.filter fun p => !(onChan (p.1 % 256) || p.1 / 256 == d)
    cohorts := s.cohorts.map fun p => (p.1, cutWaits d p.2)
    saved := s.saved.map fun v => { v with cohorts := v.cohorts.map (cutWaits d) } }

/-! ### Die reset: the die's own home slices (16 R341, 18 R372) -/

/-- Held reductions of a die's slices are lost: the die's FREDFLAGS words are cleared, and OLOST is set where one was lost. -/
def State.loseRedos (s : State) (d : Nat) : State :=
  let mine (p : Nat × List Deferred) : Bool := p.1 / 24 == d
  let lost := (s.defer.filter mine).flatMap fun p => p.2.filterMap fun x => match x with
    | .redo r => some r.ctx
    | _ => none
  let keep (p : Nat × List Deferred) : Nat × List Deferred :=
    if mine p then (p.1, p.2.filter fun x => match x with | .redo _ => false | _ => true) else p
  let s := { s with
    defer := (s.defer.map keep).filter fun p => !p.2.isEmpty
    ctxs := s.ctxs.map fun (p : Nat × Ctx) => (p.1, { p.2 with fred := terase p.2.fred d }) }
  lost.foldl (fun s c => s.redBits c d 0x80) s

/-- The lines held dirty in the SRAM of a die's slices are poisoned; the memory-side cache and the carve region keep theirs (R341). -/
def State.loseSram (s : State) (d : Nat) : State := ((sramDirty s d).foldl (fun s l => s.loseLine l) s).clearSram d

/-! ### Die reset (R418, R419) -/

/-- Every home is told of the reset, and then serves what waited on the die. -/
def State.tellHomes (s : State) (d : Nat) (es : List Nat) : State :=
  let own (l : Nat) : Bool := homeDie (l * 128) == d
  let s := (tkeys s.dir).foldl (fun s l =>
    let e := goneEnt d es (s.dirEnt l)
    s.setDir l (if own l then emptyEnt e else e)) s
  (tkeys s.dir).foldl (fun s l => (s.settleTxns l).settleHome l) s

/-- The messages of a reset die are lost. -/
def State.loseMsgs (s : State) (d : Nat) (es : List Nat) : State :=
  let keep := (s.net.zip s.sentAt).filter fun p => !msgLost d es p.1
  { s with net := keep.map (·.1), sentAt := keep.map (·.2) }

/-- A die is reset with a cause. -/
def State.resetDie (s : State) (d cause : Nat) : State :=
  let es := engsOf s d
  let lost := lostLines s d
  let bs := resident s fun b => b.die == d
  let s := (s.loseBlocks d).loseSavers bs
  let s := State.loseMsgs { s with copies := s.copies.filter fun r => !es.contains r.id } d es
  let s := ((lost.foldl (fun s l => s.loseLine l) s).clearCores d).clearSlices d
  let s := (((s.cutChannels d).tellHomes d es).loseRedos d).loseSram d
  let x := s.die d
  let s := s.setDie d { x with
    cyc := 0
    rem := 0
    drained := []
    rstCount := if x.rstCount == 0xFFFFFFFF then x.rstCount else x.rstCount + 1
    rstCause := BitVec.ofNat 4 cause
    rstBusy := false }
  (s.mcRecord 0 2 10 d 0 0).pass d

/-- COMMANDED_RESET: a write of 1 to RST starts a reset (R418). -/
def execCommandedReset (die : Nat) (v : DWord) (s : State) : Host.Outcome State Fault Refusal :=
  inService s <|
  .next (if 12 ≤ die || !v.getLsbD 0 then s else s.setDie die { s.die die with rstBusy := true })

/-- DIE_RESET: on an uncorrected logic error, the fabric watchdog, or a reset that has been commanded (R418, R419). -/
def execDieReset (die : Nat) (cause : BitVec 4) (s : State) : Host.Outcome State Fault Refusal :=
  let due := cause == 1 || cause == 2 || (cause == 3 && (s.die die).rstBusy)
  .next (if 12 ≤ die || (s.die die).stopped || !due then s else s.resetDie die cause.toNat)

/-! ### Soft errors (R413, R414) -/

/-- SEV of an error that ECC corrected, or that it did not. -/
def sevOf (corrected : Bool) : Nat := if corrected then 0 else 1

/-- A line of a line cache region is lost: dirty bytes go home poisoned, a clean line is dropped. -/
def State.loseLc (s : State) (core line : Nat) : State :=
  let e := s.lc core line
  let t := s.setLc core line LcEnt.none
  if e.dirty == 0 then t
  else
    let c := t.core core
    let t := t.setCore core { c with wbn := (c.wbn + 1) % 2 ^ 32, wbufs := c.wbufs ++ [⟨line, c.wbn, e.dirty, e.bytes, e.writers, e.deps, false⟩] }
    let p := t.carry (dieOfCore core) (homeAgent s line (dieOfCore core)) (toksIn e.toks e.dirty)
    p.2.send (.wb core line e.dirty e.bytes true ⟨c.wbn, p.1⟩)

/-- SOFT_ERROR (R413). -/
def execSoftError (e : SoftErr) (s : State) : Host.Outcome State Fault Refusal :=
  let onCore (cid sev : Nat) (s : State) : State := s.mcRecord (s.cohort cid).ctx sev 1 (dieOf cid) (coreOf cid % coresPerDie) 0
  .next (match e with
    | .register cid reg lane ok =>
      let c := s.cohort cid
      if c.kind == .vacant || c.nreg ≤ reg || c.w ≤ lane then s
      else onCore cid (sevOf ok) (if ok then s else s.setCohort cid { c with lost := tput false c.lost (64 * reg + lane) true })
    | .stateArea cid ok =>
      let c := s.cohort cid
      if c.kind == .vacant then s
      else onCore cid (sevOf ok) (if ok then s
        else s.setCohort cid { deferTrap c (((c.ents.head?).map (·.id)).getD 0) .soft 0 false with doomed := true })
    | .scratch key ok =>
      if isScratch key && key < scratchKey (12 * coresPerDie) 0 then
        let core := (key - 2 ^ 42) / 2 ^ 25
        (if ok then s else s.setScratchPois key true).mcRecord 0 (sevOf ok) 1 (dieOfCore core) (core % coresPerDie) 0
      else if isCarve key && homeDie key < 12 then
        (if ok then s else s.setPoison (lineOf key) true).mcRecord 0 (sevOf ok) 4 (homeDie key) (sliceOf (lineOf key) % 24) (dw (homeOff key))
      else s
    | .lineCache core line ok =>
      if (s.lc core line).valid == 0 then s
      else (if ok then s else s.loseLc core line).mcRecord 0 (sevOf ok) 2 (dieOfCore core) (core % coresPerDie) 0
    | .home line unit ok =>
      let k := line * 128
      let held := match unit.toNat with
        | 3 => (sramOf s (sliceOf line)).any (·.1 == line)
        | 4 => isCarve k || (mscOf s (homeDie k)).any (·.1 == line)
        | 5 => isHbm k
        | _ => false
      if !((isHbm k || isCarve k) && homeDie k < 12 && held) then s
      else (if ok then s else s.setPoison line true).mcRecord 0 (sevOf ok) unit.toNat (homeDie k) (sliceOf line % 24) (dw (homeOff k))
    | .logic die => if 12 ≤ die || (s.die die).stopped then s else s.resetDie die 1)

/-! ### Package reset and power (21 R431, R432, 22 R435) -/

/-- What the boot ROM finds in the slot: 0, or the error of the step that fails. A slot that does not verify fails either signature. -/
def bootErr (f : Firmware) (pick : Nat) : Nat :=
  match f.slot with
  | none => 1 + pick
  | some img =>
    if 2 ^ 26 < Config.imageLen img then 4
    else if Config.imageErr img != 0 then Config.imageErr img
    else if (Config.imageSvn img).toNat < f.minSvn.toNat then 3 else 0

/-- Enabled quads of a die. -/
def quads (d : Nat) : Nat := ((List.range 24).filter fun q => (Config.fuse d).getLsbD q).length

/-- What outlives the package's power: the memory of the host and of peers, the flash slot and the fuses, and what stands outside. -/
def outlast (s : State) : State :=
  { State.reset with
    sched := s.sched
    free := s.free
    out := s.out
    next := s.next
    mem := s.mem.filter fun c => 2 ^ 53 ≤ c.1
    pois := s.pois.filter fun p => 2 ^ 46 ≤ p.1 && p.1 < 2 ^ 70
    fw := { s.fw with
      running := none
      staged := none
      state := 2
      err := 0
      svn := 0
      cmd := 0 } }

/-- The Bambe service starts: TIME has a starting value, a die whose fuses are not those of an OZ-SC12-HA is held in reset. -/
def State.startService (s : State) (img : List Byte) : State :=
  let now := Config.word s.free
  let s := { s with
    free := s.free + 1
    ptime := now
    fw := { s.fw with
      running := some img
      state := 1
      svn := Config.imageSvn img } }
  (List.range 12).foldl (fun s d =>
    let s := s.setDie d { s.die d with time := now, stopped := quads d != 22 }
    if quads d == 22 then s else s.mcRecord 0 3 10 d 0 0) s

/-- PACKAGE_RESET: the boot ROM verifies the slot; the service starts, unless a stack or a bridge does not train; the host links come up, as
PCI Express or as CXL. A step that fails leaves the package in recovery (R431). -/
def execPackageReset (s : State) : Host.Outcome State Fault Refusal :=
  let t := outlast s
  let a := t.choose 2
  let b := a.2.choose 2
  let c := b.2.choose 2
  let d := c.2.choose 2
  let t := { d.2 with links := [(0, 1 + c.1), (1, 1 + d.1)] }
  let e := bootErr s.fw a.1
  .next (if e != 0 then { t with fw := { t.fw with err := BitVec.ofNat 8 e } }
    else if b.1 != 0 then t
    else t.startService (s.fw.slot.getD []))

/-- POWER_LOSS: all activity ends; a commit in progress leaves a slot that does not verify (R432). -/
def execPowerLoss (s : State) : Host.Outcome State Fault Refusal :=
  .next { s with
    powered := false
    fw := { s.fw with slot := if s.fw.state == 4 then none else s.fw.slot } }

end Sys2Proof.Machine
end

