-- ==== Sys2Proof/Machine/Special.lean ====
section
/-! DEFINITION. The special functions (11 R233, R234). The value returned is free within the bound: an opaque candidate is taken
where it lies within it, else the correctly rounded true value stands. The true value is computed in fixed point, with an
error far below every bound. -/
namespace Sys2Proof.Machine

/-! ### True values in fixed point -/

/-- Fraction bits of the fixed point. -/
def fxP : Nat := 192
/-- ln 2 in fixed point. -/
def fxLn2 : Int := 0xb17217f7d1cf79abc9e3b39803f2f6af40f343267298b62d
/-- 2π with 320 fraction bits. -/
def twoPi320 : Int := 0x6487ed5110b4611a62633145c06e0e68948127044533e63a0105df531d89cd9128a5043cc71a026ef
/-- A product in fixed point. -/
def fxMul (a b : Int) : Int := Int.fdiv (a * b) (2 ^ fxP)
/-- n/d in fixed point. -/
def fxOf (n d : Nat) : Int := ((n * 2 ^ fxP / d : Nat) : Int)
/-- Σ term·r/k·r/(k+1)…: the exponential series from its k-th term. -/
def expSeries : Nat → Nat → Int → Int → Int
  | 0, _, _, _ => 0
  | f + 1, k, t, r => t + expSeries f (k + 1) (Int.fdiv (fxMul t r) (k + 1)) r
/-- e^r for a small fixed-point r. -/
def fxExp (r : Int) : Int := expSeries 64 0 (2 ^ fxP) r
/-- The alternating series of sine or cosine from its k-th term. -/
def trigSeries : Nat → Nat → Int → Int → Int
  | 0, _, _, _ => 0
  | f + 1, k, t, r2 => t + trigSeries f (k + 2) (-(Int.fdiv (fxMul t r2) ((k + 1) * (k + 2)))) r2
/-- Σ z^(2k+1)/(2k+1), half the logarithm of (1+z)/(1−z). -/
def atanhSeries : Nat → Nat → Int → Int → Int
  | 0, _, _, _ => 0
  | f + 1, k, t, z2 => Int.fdiv t k + atanhSeries f (k + 2) (fxMul t z2) z2

/-- A fixed-point value times 2^e as a magnitude. -/
def fxQ (x : Int) (e : Int) : Nat × Nat := scale2 x.natAbs (e - fxP)
/-- e^x of a fixed-point x. -/
def expQ (x : Int) : Nat × Nat := let i := Int.fdiv x fxLn2; fxQ (fxExp (x - i * fxLn2)) i
/-- 2^(±n/d); below 2^-400 any smaller magnitude serves. -/
def exp2Q (neg : Bool) (n d : Nat) : Nat × Nat :=
  let q : Int := if neg then -(n : Int) else n
  let i := Int.fdiv q d
  if i < -400 then (1, 2 ^ 400) else fxQ (fxExp (fxMul (fxOf (q - i * d).toNat d) fxLn2)) i
/-- log2 of a positive n/d, in fixed point. -/
def log2Fx (n d : Nat) : Int :=
  let e := floorLog2 n d
  let m := scale2 1 e
  let z := Int.fdiv (((n * m.2 : Nat) - (d * m.1 : Nat) : Int) * 2 ^ fxP) ((n * m.2 : Nat) + (d * m.1 : Nat) : Int)
  e * 2 ^ fxP + Int.fdiv (2 * atanhSeries 80 1 z (fxMul z z) * 2 ^ fxP) fxLn2
/-- The argument n/d of sine and cosine reduced to −π to π, in fixed point. -/
def reduceFx (n d : Nat) : Int :=
  let a : Int := ((n * 2 ^ 320 / d : Nat) : Int)
  Int.fdiv (a - Int.fdiv (2 * a + twoPi320) (2 * twoPi320) * twoPi320) (2 ^ (320 - fxP))

/-- 1/√(n/d) to 200 bits. -/
def rsqrtQ (n d : Nat) : Nat × Nat :=
  let k := ((400 - floorLog2 d n) / 2).toNat
  (2 * isqrt (d * 4 ^ k / n) + 1, 2 ^ (k + 1))

/-- The special functions in opcode order, 0 vfrcp to 7 vfsig: the true value of a finite operand that no exact or special case
takes, as a sign and a magnitude. -/
def sfuTrue (fn : Nat) (neg : Bool) (n d : Nat) : Bool × Nat × Nat :=
  match fn with
  | 0 => (neg, d, n)
  | 1 => (false, rsqrtQ n d)
  | 2 => (false, exp2Q neg n d)
  | 3 => let x := log2Fx n d; (x < 0, fxQ x 0)
  | 4 => let r := reduceFx n d; let x := trigSeries 80 1 r (fxMul r r); ((x < 0) != neg, fxQ x 0)
  | 5 => let r := reduceFx n d; let x := trigSeries 80 0 (2 ^ fxP) (fxMul r r); (x < 0, fxQ x 0)
  | 6 => let e := expQ (2 * fxOf n d); (neg, qdiv (qsub e (1, 1)) (qadd e (1, 1)))
  | _ =>
    let x := if qlt (200, 1) (n, d) then fxOf 200 1 else fxOf n d
    (false, qdiv (1, 1) (qadd (1, 1) (expQ (if neg then x else -x))))

/-! ### Bounds (R234) -/

/-- A unit in the last place of an FP32 result; of an overflow, that of the largest binade. -/
def ulp32 (code : Nat) : Nat × Nat := scale2 1 ((max 1 (min 254 (code / 2 ^ 23 % 256)) : Nat) - (150 : Int))
/-- The bound of a function about a true value whose correctly rounded result is `code`. -/
def sfuBound (fn code : Nat) : Nat × Nat :=
  let u := ulp32 code
  match fn with
  | 0 => u
  | 4 => (1, 2 ^ 22)
  | 5 => (1, 2 ^ 22)
  | 3 => let w := qmul (2, 1) u; if qlt w (1, 2 ^ 22) then (1, 2 ^ 22) else w
  | _ => qmul (2, 1) u
/-- A candidate lies within the bound of a true value and the function's range; an infinity counts as 2^128. The computed true
value is closer to the exact one than 2^-140 of the bound: a candidate that passes lies within the bound itself. -/
def sfuOk (fn : Nat) (cand : Nat) (t : Bool × Nat × Nat) (bound : Nat × Nat) : Bool :=
  let c : Option (Bool × Nat × Nat) := match decodeFloat .f32 cand with
    | .fin s n d => some (s, n, d)
    | .inf s => some (s, 2 ^ 128, 1)
    | .nan _ _ => none
  match c with
  | none => false
  | some c =>
    let a : Int := (if c.1 then -1 else 1) * ((c.2.1 * t.2.2 : Nat) : Int)
    let b : Int := (if t.1 then -1 else 1) * ((t.2.1 * c.2.2 : Nat) : Int)
    let near := (a - b).natAbs * bound.2 * 2 ^ 140 ≤ bound.1 * (c.2.2 * t.2.2) * (2 ^ 140 - 1)
    let range := match fn with
      | 4 => c.2.1 ≤ c.2.2
      | 5 => c.2.1 ≤ c.2.2
      | 7 => c.2.1 ≤ c.2.2 && !c.1
      | _ => true
    near && range

/-! ### Exact and special cases (R234) -/

/-- The exponent of an exact power of two. -/
def pow2Of (n d : Nat) : Option Int :=
  let e := floorLog2 n d
  let s := scale2 1 e
  if n * s.2 == d * s.1 then some e else none
/-- An exact power of two as a code. -/
def codePow2 (e : Int) : Nat := let s := scale2 1 e; (roundTo .f32 rne false (.fin false s.1 s.2)).1
/-- The cases R234 lists as exact or special, each with its flags. -/
def sfuCase (fn : Nat) (a : FV) : Option (Nat × Flags) :=
  let inf (neg : Bool) : Nat := (infTo .f32 false neg).1
  let bad : Nat × Flags := (defaultNan .f32, fINV)
  let one (neg : Bool) : Nat := signCode .f32 neg + 0x3F800000
  match nanSelect .f32 [a] with
  | some r => some r
  | none => match fn, a with
    | 0, .inf s => some (zeroCode .f32 s, 0)
    | 0, .fin s n d =>
      if n == 0 then some (inf s, fDZ)
      else match pow2Of n d with
        | some e => if -127 ≤ e && e ≤ 126 then some (signCode .f32 s + codePow2 (-e), 0) else none
        | none => none
    | 1, .inf s => some (if s then bad else (0, 0))
    | 1, .fin s n d =>
      if n == 0 then some (inf s, fDZ)
      else if s then some bad
      else match pow2Of n d with
        | some e => if e % 2 == 0 then some (codePow2 (-(e / 2)), 0) else none
        | none => none
    | 2, .inf s => some (if s then 0 else inf false, 0)
    | 2, .fin s n d =>
      let q : Int := if s then -(n : Int) else n
      if !s && 128 * d ≤ n then some (inf false, fOVF ||| fINX)
      else if n % d == 0 && -126 ≤ q / d && q / d ≤ 127 then some (codePow2 (q / d), 0) else none
    | 3, .inf s => some (if s then bad else (inf false, 0))
    | 3, .fin s n d =>
      if n == 0 then some (inf true, fDZ)
      else if s then some bad
      else (pow2Of n d).map fun e => ((roundTo .f32 rne false (finOf e 1)).1, 0)
    | 4, .inf _ => some bad
    | 4, .fin s n _ => if n == 0 then some (zeroCode .f32 s, 0) else none
    | 5, .inf _ => some bad
    | 5, .fin _ n _ => if n == 0 then some (one false, 0) else none
    | 6, .inf s => some (one s, 0)
    | 6, .fin s n d =>
      if n == 0 then some (zeroCode .f32 s, 0)
      else if qlt (n, d) (1, 2 ^ 12) then
        let r := (roundTo .f32 rne false a).1
        some (r, fINX ||| underFlag r)
      else if 9 * d ≤ n then some (one s, fINX) else none
    | _, .inf s => some (if s then 0 else one false, 0)
    | _, .fin _ n _ => if n == 0 then some (0x3F000000, 0) else none
    | _, .nan _ _ => none

/-- The flags of an inexact finite result (R233). -/
def sfuFlags (code : Nat) : Flags :=
  fINX ||| (if code % 2 ^ 31 == 0x7F800000 then fOVF else 0) ||| underFlag code

/-- A special function of an f32 value: its FP32 code and flags (R233, R234). -/
def sfuRes (fn ty : Nat) (a : FV) : Nat × Flags :=
  match sfuCase fn a with
  | some r => r
  | none => match a with
    | .fin s n d =>
      let cand := (Config.special fn ty (BitVec.ofNat 32 (roundTo .f32 rne false a).1)).toNat
      if fn == 7 && s && 87 * d < n then
        let r := if cand ≤ 0x00800000 then cand else 0
        (r, fINX ||| underFlag r)
      else
        let t := sfuTrue fn s n d
        let r0 := (roundTo .f32 rne false (.fin t.1 t.2.1 t.2.2)).1
        let r := if sfuOk fn cand t (sfuBound fn r0) then cand else r0
        (r, sfuFlags r)
    | v => roundTo .f32 rne false v

/-- The shared meaning of the special functions: a packed element is widened, evaluated as f32, and rounded once (R233). -/
def special (fn : Nat) (i : Instr) (o : G3) (s : State) : Host.Outcome State Fault Refusal :=
  let f := fltFmt o.ty.toNat
  fltLater i o.g f o.vd s fun c l h =>
    let r := sfuRes fn o.ty.toNat (srcA o.mod (fltVal c f o.va.toNat l h))
    if f == .f32 then r
    else let q := roundTo f rne false (decodeFloat .f32 r.1); (q.1, r.2 ||| q.2)

/-- VFRCP (R234). -/
def execVfrcp (o : G3) (s : State) := special 0 (.vfrcp o) o s
/-- VFRSQ (R234). -/
def execVfrsq (o : G3) (s : State) := special 1 (.vfrsq o) o s
/-- VFEXP2 (R234). -/
def execVfexp2 (o : G3) (s : State) := special 2 (.vfexp2 o) o s
/-- VFLOG2 (R234). -/
def execVflog2 (o : G3) (s : State) := special 3 (.vflog2 o) o s
/-- VFSIN (R234). -/
def execVfsin (o : G3) (s : State) := special 4 (.vfsin o) o s
/-- VFCOS (R234). -/
def execVfcos (o : G3) (s : State) := special 5 (.vfcos o) o s
/-- VFTANH (R234). -/
def execVftanh (o : G3) (s : State) := special 6 (.vftanh o) o s
/-- VFSIG (R234). -/
def execVfsig (o : G3) (s : State) := special 7 (.vfsig o) o s

end Sys2Proof.Machine
end

