-- ==== Sys2Proof/Machine/VecInt.lean ====
section
/-! DEFINITION. The vector integer, lane, predicate, J and index register instructions (10). -/
namespace Sys2Proof.Machine

/-- An op that writes one value of a type in each active lane, a function of the cohort as it stands and the lane. -/
def laneOp (i : Instr) (g : Guard) (two : Bool) (vd : BitVec 8) (s : State) (f : Cohort → Nat → Nat) :
    Host.Outcome State Fault Refusal :=
  op i s (.done (s.setMe (forLanes (s.active g) (fun c acc l => laneSet acc two vd.toNat l (f c l)) s.me)))

/-- An element-wise op of two sources: fit(f(a, b)) (R206). -/
def vec3 (i : Instr) (o : G3) (s : State) (f : IntTy → Int → Int → Int) : Host.Outcome State Fault Refusal :=
  let t := intTy o.ty
  let two := isPairTy o.ty
  laneOp i o.g two o.vd s fun c l =>
    map2 t (fun a b => fitTy t (satOf o.mod) (f t (tyVal t a) (tyVal t b)))
      (laneVal c two o.va.toNat l) (laneVal c two o.vb.toNat l)

/-- An element-wise op on the w-bit patterns of two sources. -/
def vecBits (i : Instr) (o : G3) (s : State) (f : Nat → Nat → Nat → Nat) : Host.Outcome State Fault Refusal :=
  let t := intTy o.ty
  let two := isPairTy o.ty
  laneOp i o.g two o.vd s fun c l => map2 t (f t.w) (laneVal c two o.va.toNat l) (laneVal c two o.vb.toNat l)

/-- An element-wise op of one source, from its w-bit pattern. -/
def vec2 (i : Instr) (o : G3) (s : State) (f : IntTy → Nat → Nat) : Host.Outcome State Fault Refusal :=
  let t := intTy o.ty
  let two := isPairTy o.ty
  laneOp i o.g two o.vd s fun c l => map1 t (f t) (laneVal c two o.va.toNat l)

/-- The shift count of an element: b mod w, unsigned (R206). -/
def shCount (t : IntTy) (b : Int) : Nat := (b % t.w).toNat

/-- VADD (R206). -/
def execVadd (o : G3) (s : State) := vec3 (.vadd o) o s fun _ a b => a + b
/-- VSUB (R206). -/
def execVsub (o : G3) (s : State) := vec3 (.vsub o) o s fun _ a b => a - b
/-- VMUL (R206). -/
def execVmul (o : G3) (s : State) := vec3 (.vmul o) o s fun _ a b => a * b
/-- VMULH: the high w bits of the exact product (R206). -/
def execVmulh (o : G3) (s : State) := vec3 (.vmulh o) o s fun t a b => Int.fdiv (a * b) (2 ^ t.w)
/-- VMIN (R206). -/
def execVmin (o : G3) (s : State) := vec3 (.vmin o) o s fun _ a b => min a b
/-- VMAX (R206). -/
def execVmax (o : G3) (s : State) := vec3 (.vmax o) o s fun _ a b => max a b
/-- VABS (R206). -/
def execVabs (o : G3) (s : State) := vec2 (.vabs o) o s fun t p => fitTy t (satOf o.mod) (tyVal t p).natAbs
/-- VAND (R206). -/
def execVand (o : G3) (s : State) := vecBits (.vand o) o s fun _ a b => a &&& b
/-- VOR (R206). -/
def execVor (o : G3) (s : State) := vecBits (.vor o) o s fun _ a b => a ||| b
/-- VXOR (R206). -/
def execVxor (o : G3) (s : State) := vecBits (.vxor o) o s fun _ a b => a ^^^ b
/-- VNOT (R206). -/
def execVnot (o : G3) (s : State) := vec2 (.vnot o) o s fun t p => 2 ^ t.w - 1 - p
/-- VSHL: by b mod w (R206). -/
def execVshl (o : G3) (s : State) := vec3 (.vshl o) o s fun t a b => a * 2 ^ shCount t b
/-- VSHR: arithmetic for signed types, logical for unsigned (R206). -/
def execVshr (o : G3) (s : State) := vec3 (.vshr o) o s fun t a b => Int.fdiv a (2 ^ shCount t b)
/-- VROT: rotate left by b mod w (R206). -/
def execVrot (o : G3) (s : State) := vecBits (.vrot o) o s fun w a b => a * 2 ^ (b % w) + a / 2 ^ (w - b % w)

/-- VBIT: a bit operation selected by FN (R206). -/
def execVbit (o : G3) (s : State) := vec2 (.vbit o) o s fun t p =>
  match fnOf o.mod with
  | 0 => popcount t.w p
  | 1 => clz t.w p
  | 2 => ctz t.w p
  | 3 => revBits t.w p
  | _ => revBytes t.w p

/-- T2 as an integer type (07 R138). -/
def t2Ty (t2 : BitVec 2) : IntTy := intTy (t2.zeroExtend 3)

/-- VMAD: fit(a·b + c), SAT in the extension (R207). -/
def execVmad (o : G4) (x : Ext) (s : State) : Host.Outcome State Fault Refusal :=
  let t := t2Ty o.t2
  let sat := (x.getD 0).getLsbD 0
  laneOp (.vmad o x) o.g false o.vd s fun c l =>
    packElems t fun i =>
      let e (n : BitVec 8) := tyVal t (elem t (laneVal c false n.toNat l) i)
      fitTy t sat (e o.va * e o.vb + e o.vc)

/-- pos and len of a bit field (R208). -/
def fieldOf (c : Nat) : Nat × Nat := (c % 32, min (c / 256 % 64) (32 - c % 32))

/-- VBFE: extract a field, sign-extended for i32 (R208). -/
def execVbfe (o : G4) (s : State) : Host.Outcome State Fault Refusal :=
  laneOp (.vbfe o) o.g false o.vd s fun c l =>
    let p := fieldOf (laneVal c false o.vc.toNat l)
    let v := laneVal c false o.va.toNat l / 2 ^ p.1 % 2 ^ p.2
    if o.t2 == 0 && p.2 != 0 then fitTy ⟨32, true⟩ false (tyVal ⟨p.2, true⟩ v) else v

/-- VBFI: insert a field (R208). -/
def execVbfi (o : G4) (s : State) : Host.Outcome State Fault Refusal :=
  laneOp (.vbfi o) o.g false o.vd s fun c l =>
    let p := fieldOf (laneVal c false o.vc.toNat l)
    (setBits (dw (laneVal c false o.va.toNat l)) p.1 p.2 (laneVal c false o.vb.toNat l)).toNat % 2 ^ 32

/-- The immediate of `vaddi` and `vmovi` (R209). -/
def longImm (imm : BitVec 15) (x : Ext) : Int := imm.toInt + (x.getD 0).toInt

/-- VADDI: each element plus the immediate modulo 2^w (R209). -/
def execVaddi (o : GI) (x : Ext) (s : State) : Host.Outcome State Fault Refusal :=
  let t := intTy o.ty
  laneOp (.vaddi o x) o.g (isPairTy o.ty) o.vd s fun c l =>
    map1 t (fun a => fitTy t false (a + longImm o.imm x)) (laneVal c (isPairTy o.ty) o.va.toNat l)

/-- VMOVI: the immediate modulo 2^w in every element (R209). -/
def execVmovi (o : GI) (x : Ext) (s : State) : Host.Outcome State Fault Refusal :=
  let t := intTy o.ty
  laneOp (.vmovi o x) o.g (isPairTy o.ty) o.vd s fun _ _ => packElems t fun _ => fitTy t false (longImm o.imm x)

/-- VMOV (R210). -/
def execVmov (o : G3) (s : State) : Host.Outcome State Fault Refusal :=
  laneOp (.vmov o) o.g (isPairTy o.ty) o.vd s fun c l => laneVal c (isPairTy o.ty) o.va.toNat l

/-- VSEL: by predicate FN[2:0], negated by FN[3] (R210). -/
def execVsel (o : G3) (s : State) : Host.Outcome State Fault Refusal :=
  let two := isPairTy o.ty
  laneOp (.vsel o) o.g two o.vd s fun c l =>
    if prd c (fnOf o.mod % 8) l != (8 ≤ fnOf o.mod : Bool) then laneVal c two o.va.toNat l else laneVal c two o.vb.toNat l

/-- S2V (R210). -/
def execS2v (o : G3) (s : State) : Host.Outcome State Fault Refusal :=
  let two := isPairTy o.ty
  laneOp (.s2v o) o.g two o.vd s fun c _ => (sreg c o.va).toNat % (if two then 2 ^ 64 else 2 ^ 32)

/-- An op that writes a predicate bit in each active lane. -/
def predOp (i : Instr) (g : Guard) (vd : BitVec 8) (s : State) (f : Cohort → Nat → Bool) :
    Host.Outcome State Fault Refusal :=
  op i s (.done (s.setMe (forLanes (s.active g) (fun c acc l => pwr acc vd.toNat l (f c l)) s.me)))

/-- VCMP (R211). -/
def execVcmp (o : G3) (s : State) : Host.Outcome State Fault Refusal :=
  let t := intTy o.ty
  let two := isPairTy o.ty
  predOp (.vcmp o) o.g o.vd s fun c l =>
    cmpFn (fnOf o.mod) (tyVal t (laneVal c two o.va.toNat l)) (tyVal t (laneVal c two o.vb.toNat l))

/-- The pattern of source element h of a conversion (R212): the same index at one width, else by the table's rows. -/
def cvtSource (d st : IntTy) (hi : Nat) (a b h : Nat) : Nat :=
  if st.w == d.w || (d.w == 64 || st.w == 64) then elem st a h
  else if st.w == 2 * d.w then
    let per := elemsOf st
    if h < per then elem st a h else elem st b (h - per)
  else elem st a (elemsOf d * hi + h)

/-- VCVTI: integer conversion (R212). -/
def execVcvti (o : G3) (s : State) : Host.Outcome State Fault Refusal :=
  let d := intTy o.ty
  let sty : BitVec 3 := BitVec.ofNat 3 (fnOf o.mod % 8)
  let st := intTy sty
  laneOp (.vcvti o) o.g (isPairTy o.ty) o.vd s fun c l =>
    packElems d fun h => fitTy d (satOf o.mod)
      (tyVal st (cvtSource d st (fnOf o.mod / 8) (laneVal c (isPairTy sty) o.va.toNat l) (laneVal c false o.vb.toNat l) h))

/-! ### Other lanes (R213-R215) -/

/-- An op that reads vA of a chosen source lane; `own` are the registers it reads in the lane itself. -/
def lanePick (i : Instr) (own : List Nat) (o : G3) (s : State) (j : Cohort → Nat → Nat) : Host.Outcome State Fault Refusal :=
  let two := isPairTy o.ty
  let c := s.me
  let act := s.active o.g
  opReading i (act.flatMap fun l => (regs o.va (iw o.ty)).map (·, j c l) ++ own.map (·, l)) s
    (.done (s.setMe (forLanes act (fun c acc l => laneSet acc two o.vd.toNat l (laneVal c two o.va.toNat (j c l))) c)))

/-- VLANE (R214). -/
def execVlane (o : G3) (s : State) := lanePick (.vlane o) [o.vb.toNat] o s fun c l => (vrd c o.vb.toNat l).toNat % c.w
/-- VBCAST (R214). -/
def execVbcast (o : G3) (s : State) := lanePick (.vbcast o) [] o s fun c _ => (sreg c o.vb).toNat % c.w
/-- VSHFL: butterfly, up, down by FN (R214). -/
def execVshfl (o : G3) (s : State) := lanePick (.vshfl o) [] o s fun c l =>
  let d := (sreg c o.vb).toNat
  match fnOf o.mod with
  | 0 => l ^^^ (d % c.w)
  | 1 => if d ≤ l then l - d else l
  | _ => if l + d < c.w then l + d else l
/-- VROTL (R214). -/
def execVrotl (o : G3) (s : State) := lanePick (.vrotl o) [] o s fun c l => (l + (sreg c o.vb).toNat) % c.w

/-- The identity of a fold (R215). -/
def foldId (t : IntTy) (fn : Nat) : Int :=
  match fn with
  | 1 => tyMax t
  | 2 => tyMin t
  | 3 => if t.signed then -1 else 2 ^ t.w - 1
  | _ => 0
/-- One step of a fold, min and max by the type, the bitwise ones on patterns (R215). -/
def foldStep (t : IntTy) (fn : Nat) (a b : Int) : Int :=
  let bit (f : Nat → Nat → Nat) : Int := tyVal t (f (fitTy t false a) (fitTy t false b))
  match fn with
  | 0 => a + b
  | 1 => min a b
  | 2 => max a b
  | 3 => bit (· &&& ·)
  | 4 => bit (· ||| ·)
  | _ => bit (· ^^^ ·)

/-- The prefixes of a list of elements in lane order. -/
def scanList (t : IntTy) (fn : Nat) (sat excl : Bool) : Int → List Int → List Int
  | _, [] => []
  | acc, x :: r =>
    let next := tyVal t (fitTy t sat (foldStep t fn acc x))
    (if excl then acc else next) :: scanList t fn sat excl next r

/-- VSCAN: prefix over the active lanes in lane order, each element on its own (R215). -/
def execVscan (o : G3) (s : State) : Host.Outcome State Fault Refusal :=
  let t := intTy o.ty
  let two := isPairTy o.ty
  let lanes := s.active o.g
  let c := s.me
  let col (h : Nat) : List Int := scanList t (fnOf o.mod % 8) (satOf o.mod) (8 ≤ fnOf o.mod) (foldId t (fnOf o.mod % 8))
    (lanes.map fun l => tyVal t (elem t (laneVal c two o.va.toNat l) h))
  let cols := (List.range (elemsOf t)).map col
  laneOp (.vscan o) o.g two o.vd s fun _ l =>
    packElems t fun h => fitTy t false ((cols.getD h []).getD (lanes.idxOf l) 0)

/-- VRED: the fold of the active lanes goes to a J register, whose write is to come (R217). A source word that a soft error has lost
does not trap: the tree finds it (R218). -/
def execVred (o : G3) (s : State) : Host.Outcome State Fault Refusal :=
  let t := intTy o.ty
  let c := s.me
  let fn := fnOf o.mod % 8
  let r := ((s.active o.g).map fun l => tyVal t (laneVal c (isPairTy o.ty) o.va.toNat l)).foldl (foldStep t fn) (foldId t fn)
  let v : DWord := if t.w == 64 then dw (fitTy t (satOf o.mod) r) else BitVec.ofInt 64 r
  let p : RedPend := ⟨c.nextVid, o.vd.toNat, v, (lostAt c (laneReads (.vred o) s)).isSome, s.frag.mask⟩
  opReading (.vred o) [] s (.done (s.setMe { c with nextVid := c.nextVid + 1, reds := c.reds ++ [p] }))

/-- An outstanding `jget` meets the J write whose sequence it wants: its value, or E_JPOISON with the op to be executed again
(R219). -/
def jgetMeets (c : Cohort) (j : Nat) (r : JReg) : Cohort :=
  c.pend.foldl (fun c p => match p.kind with
    | .jget jj _ want sd =>
      if jj == j && reached r.seq want then
        if r.pois then
          deferTrap { c with pend := c.pend.filter (·.vid != p.vid) } p.frag .jPoison (dw (j * 2 ^ 32 + r.seq.toNat)) false
            (some p)
        else
          let q : Pend := { p with kind := .known, writes := [⟨.s sd, r.value⟩] }
          { c with pend := c.pend.map fun x => if x.vid == p.vid then q else x }
      else c
    | _ => c) c

/-- VRED_WRITE: the oldest reduction of its J register is written and SEQ advances; an error that the tree finds writes VALUE 0 and POIS 1
and makes a machine-check record (R216-R218, 20 R414). -/
def execVredWrite (cid vid : Nat) (err : Bool) (s : State) : Host.Outcome State Fault Refusal :=
  let c := s.cohort cid
  match c.reds.find? (·.vid == vid) with
  | none => .next s
  | some p =>
    if (c.reds.find? (·.j == p.j)).map (·.vid) != some vid then .next s
    else
      let err := err || p.bad
      let r : JReg := ⟨if err then 0 else p.value, (jrd c p.j).seq + 1, err⟩
      let s := if err then s.mcRecord c.ctx 1 8 (dieOf cid) (coreOf cid % coresPerDie) 0 else s
      let c := { c with reds := c.reds.filter (·.vid != vid), jr := tput ⟨0, 0, false⟩ c.jr p.j r }
      .next (s.setCohort cid (jgetMeets c p.j r))

/-- JGET: reads a J register once its sequence reaches want (R219). -/
def execJget (o : G3) (s : State) : Host.Outcome State Fault Refusal :=
  let c := s.me
  let j := o.va.toNat
  let want : Word := (sreg c o.vb).extractLsb' 0 32
  let r := jrd c j
  let pending := (c.reds.filter (·.j == j)).length
  op (.jget o) s
    (if !reached (r.seq + BitVec.ofNat 32 pending) want then .trap .illegal (want.zeroExtend 64) s
     else if !reached r.seq want then .done (s.addPend (.jget j o.vb.toNat want o.vd.toNat) [] none)
     else if r.pois then .trap .jPoison (dw (j * 2 ^ 32 + r.seq.toNat)) s
     else .done (s.addPend .known [⟨.s o.vd.toNat, r.value⟩] none))

/-! ### Predicates (R220) -/

/-- The active lanes whose predicate is set. -/
def setLanes (o : G3) (s : State) : List Nat := (s.active o.g).filter fun l => prd s.me o.va.toNat l

/-- VBALLOT (R220). -/
def execVballot (o : G3) (s : State) : Host.Outcome State Fault Refusal :=
  op (.vballot o) s (.done (s.setS o.vd.toNat (maskOf (setLanes o s))))
/-- PCNT (R220). -/
def execPcnt (o : G3) (s : State) : Host.Outcome State Fault Refusal :=
  op (.pcnt o) s (.done (s.setS o.vd.toNat (dw (setLanes o s).length)))
/-- PFIRST (R220). -/
def execPfirst (o : G3) (s : State) : Host.Outcome State Fault Refusal :=
  op (.pfirst o) s (.done (s.setS o.vd.toNat (match setLanes o s with | l :: _ => dw l | [] => allOnes)))
/-- PMOV (R220). -/
def execPmov (o : G3) (s : State) : Host.Outcome State Fault Refusal :=
  predOp (.pmov o) o.g o.vd s fun c l => (sreg c o.va).getLsbD l
/-- PLOG (R220). -/
def execPlog (o : G3) (s : State) : Host.Outcome State Fault Refusal :=
  predOp (.plog o) o.g o.vd s fun c l =>
    let a := prd c o.va.toNat l
    let b := prd c o.vb.toNat l
    match fnOf o.mod with
    | 0 => a && b
    | 1 => a || b
    | 2 => a != b
    | 3 => a && !b
    | _ => !a

/-! ### Index registers (R221-R223) -/

/-- XSET (R221). -/
def execXset (o : GI) (s : State) : Host.Outcome State Fault Refusal :=
  op (.xset o) s (.done (s.setMe { s.me with xr := tput ⟨0, 0⟩ s.me.xr o.vd.toNat ⟨o.va.toNat, o.imm.toNat % 512⟩ }))

/-- The register offset a lane's index names, and the lanes out of bounds (R222). -/
def indexOf (c : Cohort) (two : Bool) (vb : BitVec 8) (l : Nat) : Nat := (if two then 2 else 1) * (vrd c vb.toNat l).toNat
/-- The trap of an index out of bounds, where an active lane has one. -/
def indexBad (s : State) (o : G3) (x : XReg) : Option DWord :=
  let two := isPairTy o.ty
  ((s.active o.g).find? fun l =>
    x.bound < indexOf s.me two o.vb l + (if two then 2 else 1) || (two && x.base % 2 == 1)).map fun l =>
      ((vrd s.me o.vb.toNat l).zeroExtend 64 <<< 32) ||| dw l

/-- VLDX (R222). -/
def execVldx (o : G3) (s : State) : Host.Outcome State Fault Refusal :=
  let x := xrd s.me o.va.toNat
  let two := isPairTy o.ty
  let act := s.active o.g
  let idx := act.map fun l => (o.vb.toNat, l)
  match indexBad s o x with
  | some info => opReading (.vldx o) idx s (.trap .idxBound info s)
  | none =>
    opReading (.vldx o) (idx ++ act.flatMap fun l => (List.range (iw o.ty)).map fun k => (x.base + indexOf s.me two o.vb l + k, l)) s
      (.done (s.setMe (forLanes act (fun c acc l =>
        laneSet acc two o.vd.toNat l (laneVal c two (x.base + indexOf c two o.vb l) l)) s.me)))

/-- VSTX (R222). -/
def execVstx (o : G3) (s : State) : Host.Outcome State Fault Refusal :=
  let x := xrd s.me o.vd.toNat
  let two := isPairTy o.ty
  match indexBad s o x with
  | some info => op (.vstx o) s (.trap .idxBound info s)
  | none => op (.vstx o) s (.done (s.setMe (forLanes (s.active o.g)
      (fun c acc l => laneSet acc two (x.base + indexOf c two o.vb l) l (laneVal c two o.va.toNat l)) s.me)))

end Sys2Proof.Machine
end

