-- ==== Sys2Proof/Machine/Dispatch.lean ====
section
/-! DEFINITION. The one dispatch: each row of the opcode table to its meaning. -/
namespace Sys2Proof.Machine

def exec (i : Instr) (s : State) : Host.Outcome State Fault Refusal :=
  match i with
  | .nop o => Sys2Proof.Machine.execNop o s
  | .br o => Sys2Proof.Machine.execBr o s
  | .bc o => Sys2Proof.Machine.execBc o s
  | .bv o => Sys2Proof.Machine.execBv o s
  | .call o => Sys2Proof.Machine.execCall o s
  | .ret o => Sys2Proof.Machine.execRet o s
  | .jmpi o => Sys2Proof.Machine.execJmpi o s
  | .loop o => Sys2Proof.Machine.execLoop o s
  | .exit o => Sys2Proof.Machine.execExit o s
  | .launch o => Sys2Proof.Machine.execLaunch o s
  | .yield o => Sys2Proof.Machine.execYield o s
  | .sadd o => Sys2Proof.Machine.execSadd o s
  | .ssub o => Sys2Proof.Machine.execSsub o s
  | .smul o => Sys2Proof.Machine.execSmul o s
  | .smulh o => Sys2Proof.Machine.execSmulh o s
  | .sdiv o => Sys2Proof.Machine.execSdiv o s
  | .srem o => Sys2Proof.Machine.execSrem o s
  | .sand o => Sys2Proof.Machine.execSand o s
  | .sor o => Sys2Proof.Machine.execSor o s
  | .sxor o => Sys2Proof.Machine.execSxor o s
  | .sshl o => Sys2Proof.Machine.execSshl o s
  | .sshr o => Sys2Proof.Machine.execSshr o s
  | .smin o => Sys2Proof.Machine.execSmin o s
  | .smax o => Sys2Proof.Machine.execSmax o s
  | .scmp o => Sys2Proof.Machine.execScmp o s
  | .ssel o => Sys2Proof.Machine.execSsel o s
  | .sbit o => Sys2Proof.Machine.execSbit o s
  | .saddi o => Sys2Proof.Machine.execSaddi o s
  | .slui o => Sys2Proof.Machine.execSlui o s
  | .sli o x => Sys2Proof.Machine.execSli o x s
  | .sld o x => Sys2Proof.Machine.execSld o x s
  | .sst o x => Sys2Proof.Machine.execSst o x s
  | .sget o => Sys2Proof.Machine.execSget o s
  | .vadd o => Sys2Proof.Machine.execVadd o s
  | .vsub o => Sys2Proof.Machine.execVsub o s
  | .vmul o => Sys2Proof.Machine.execVmul o s
  | .vmulh o => Sys2Proof.Machine.execVmulh o s
  | .vmad o x => Sys2Proof.Machine.execVmad o x s
  | .vmin o => Sys2Proof.Machine.execVmin o s
  | .vmax o => Sys2Proof.Machine.execVmax o s
  | .vabs o => Sys2Proof.Machine.execVabs o s
  | .vand o => Sys2Proof.Machine.execVand o s
  | .vor o => Sys2Proof.Machine.execVor o s
  | .vxor o => Sys2Proof.Machine.execVxor o s
  | .vnot o => Sys2Proof.Machine.execVnot o s
  | .vshl o => Sys2Proof.Machine.execVshl o s
  | .vshr o => Sys2Proof.Machine.execVshr o s
  | .vrot o => Sys2Proof.Machine.execVrot o s
  | .vbit o => Sys2Proof.Machine.execVbit o s
  | .vbfe o => Sys2Proof.Machine.execVbfe o s
  | .vbfi o => Sys2Proof.Machine.execVbfi o s
  | .vaddi o x => Sys2Proof.Machine.execVaddi o x s
  | .vmovi o x => Sys2Proof.Machine.execVmovi o x s
  | .vmov o => Sys2Proof.Machine.execVmov o s
  | .vsel o => Sys2Proof.Machine.execVsel o s
  | .vcmp o => Sys2Proof.Machine.execVcmp o s
  | .vcvti o => Sys2Proof.Machine.execVcvti o s
  | .vlane o => Sys2Proof.Machine.execVlane o s
  | .vbcast o => Sys2Proof.Machine.execVbcast o s
  | .vshfl o => Sys2Proof.Machine.execVshfl o s
  | .vrotl o => Sys2Proof.Machine.execVrotl o s
  | .vscan o => Sys2Proof.Machine.execVscan o s
  | .vred o => Sys2Proof.Machine.execVred o s
  | .vballot o => Sys2Proof.Machine.execVballot o s
  | .s2v o => Sys2Proof.Machine.execS2v o s
  | .pmov o => Sys2Proof.Machine.execPmov o s
  | .plog o => Sys2Proof.Machine.execPlog o s
  | .pcnt o => Sys2Proof.Machine.execPcnt o s
  | .pfirst o => Sys2Proof.Machine.execPfirst o s
  | .xset o => Sys2Proof.Machine.execXset o s
  | .vldx o => Sys2Proof.Machine.execVldx o s
  | .vstx o => Sys2Proof.Machine.execVstx o s
  | .jget o => Sys2Proof.Machine.execJget o s
  | .vfadd o => Sys2Proof.Machine.execVfadd o s
  | .vfsub o => Sys2Proof.Machine.execVfsub o s
  | .vfmul o => Sys2Proof.Machine.execVfmul o s
  | .vfma o x => Sys2Proof.Machine.execVfma o x s
  | .vfms o x => Sys2Proof.Machine.execVfms o x s
  | .vfnma o x => Sys2Proof.Machine.execVfnma o x s
  | .vfnms o x => Sys2Proof.Machine.execVfnms o x s
  | .vfmin o => Sys2Proof.Machine.execVfmin o s
  | .vfmax o => Sys2Proof.Machine.execVfmax o s
  | .vfcmp o => Sys2Proof.Machine.execVfcmp o s
  | .vfclass o => Sys2Proof.Machine.execVfclass o s
  | .vfdiv o => Sys2Proof.Machine.execVfdiv o s
  | .vfsqrt o => Sys2Proof.Machine.execVfsqrt o s
  | .vfrcp o => Sys2Proof.Machine.execVfrcp o s
  | .vfrsq o => Sys2Proof.Machine.execVfrsq o s
  | .vfexp2 o => Sys2Proof.Machine.execVfexp2 o s
  | .vflog2 o => Sys2Proof.Machine.execVflog2 o s
  | .vfsin o => Sys2Proof.Machine.execVfsin o s
  | .vfcos o => Sys2Proof.Machine.execVfcos o s
  | .vftanh o => Sys2Proof.Machine.execVftanh o s
  | .vfsig o => Sys2Proof.Machine.execVfsig o s
  | .vfrnd o => Sys2Proof.Machine.execVfrnd o s
  | .vfscl o => Sys2Proof.Machine.execVfscl o s
  | .vfcvt o => Sys2Proof.Machine.execVfcvt o s
  | .vfcvti o => Sys2Proof.Machine.execVfcvti o s
  | .vqsc o => Sys2Proof.Machine.execVqsc o s
  | .vqnt o => Sys2Proof.Machine.execVqnt o s
  | .vdqnt o => Sys2Proof.Machine.execVdqnt o s
  | .mld o x => Sys2Proof.Machine.execMld o x s
  | .mldsc o => Sys2Proof.Machine.execMldsc o s
  | .mswp o => Sys2Proof.Machine.execMswp o s
  | .mmac o x => Sys2Proof.Machine.execMmac o x s
  | .mmacz o x => Sys2Proof.Machine.execMmacz o x s
  | .mbudUsed o => Sys2Proof.Machine.execMbudUsed o s
  | .mbudCred o => Sys2Proof.Machine.execMbudCred o s
  | .mwait o => Sys2Proof.Machine.execMwait o s
  | .ld o x => Sys2Proof.Machine.execLd o x s
  | .st o x => Sys2Proof.Machine.execSt o x s
  | .ldg o => Sys2Proof.Machine.execLdg o s
  | .stg o => Sys2Proof.Machine.execStg o s
  | .ldq o x => Sys2Proof.Machine.execLdq o x s
  | .stq o x => Sys2Proof.Machine.execStq o x s
  | .cpIn o x => Sys2Proof.Machine.execCpIn o x s
  | .cpOut o x => Sys2Proof.Machine.execCpOut o x s
  | .cpTile o x => Sys2Proof.Machine.execCpTile o x s
  | .bcbExp o => Sys2Proof.Machine.execBcbExp o s
  | .bcbWt o => Sys2Proof.Machine.execBcbWt o s
  | .pref o x => Sys2Proof.Machine.execPref o x s
  | .resBind o => Sys2Proof.Machine.execResBind o s
  | .resSetPrio o => Sys2Proof.Machine.execResSetPrio o s
  | .resSetLifeS o => Sys2Proof.Machine.execResSetLifeS o s
  | .resSetLifeM o => Sys2Proof.Machine.execResSetLifeM o s
  | .resDrop o => Sys2Proof.Machine.execResDrop o s
  | .xdma o x => Sys2Proof.Machine.execXdma o x s
  | .wadr o => Sys2Proof.Machine.execWadr o s
  | .am o x => Sys2Proof.Machine.execAm o x s
  | .red o x => Sys2Proof.Machine.execRed o x s
  | .amcas o x => Sys2Proof.Machine.execAmcas o x s
  | .amgts o x => Sys2Proof.Machine.execAmgts o x s
  | .amvcs o x => Sys2Proof.Machine.execAmvcs o x s
  | .ampcs o x => Sys2Proof.Machine.execAmpcs o x s
  | .amf o x => Sys2Proof.Machine.execAmf o x s
  | .redf o x => Sys2Proof.Machine.execRedf o x s
  | .redo o x => Sys2Proof.Machine.execRedo o x s
  | .lsa o => Sys2Proof.Machine.execLsa o s
  | .lsr o => Sys2Proof.Machine.execLsr o s
  | .barIniArv o => Sys2Proof.Machine.execBarIniArv o s
  | .barIniByte o => Sys2Proof.Machine.execBarIniByte o s
  | .barIniFree o => Sys2Proof.Machine.execBarIniFree o s
  | .barArv o => Sys2Proof.Machine.execBarArv o s
  | .barWt o => Sys2Proof.Machine.execBarWt o s
  | .barSync o => Sys2Proof.Machine.execBarSync o s
  | .barCl o => Sys2Proof.Machine.execBarCl o s
  | .barDie o => Sys2Proof.Machine.execBarDie o s
  | .fenceRel o => Sys2Proof.Machine.execFenceRel o s
  | .fenceAcq o => Sys2Proof.Machine.execFenceAcq o s
  | .fenceFull o => Sys2Proof.Machine.execFenceFull o s
  | .fenceRacq o => Sys2Proof.Machine.execFenceRacq o s
  | .futNew o => Sys2Proof.Machine.execFutNew o s
  | .futNewBind o => Sys2Proof.Machine.execFutNewBind o s
  | .futGet o => Sys2Proof.Machine.execFutGet o s
  | .futSet o => Sys2Proof.Machine.execFutSet o s
  | .futSetAbn o => Sys2Proof.Machine.execFutSetAbn o s
  | .futReg o => Sys2Proof.Machine.execFutReg o s
  | .tskPark o => Sys2Proof.Machine.execTskPark o s
  | .tskSpawn o => Sys2Proof.Machine.execTskSpawn o s
  | .tget o => Sys2Proof.Machine.execTget o s
  | .cycCnt o => Sys2Proof.Machine.execCycCnt o s
  | .cycMhz o => Sys2Proof.Machine.execCycMhz o s
  | .monMark o => Sys2Proof.Machine.execMonMark o s
  | .bist o => Sys2Proof.Machine.execBist o s
  | .trap o => Sys2Proof.Machine.execTrap o s
  | .rett o => Sys2Proof.Machine.execRett o s
  | .rettSkip o => Sys2Proof.Machine.execRettSkip o s
  | .rettTo o => Sys2Proof.Machine.execRettTo o s
  | .sysRd o => Sys2Proof.Machine.execSysRd o s
  | .sysWr o => Sys2Proof.Machine.execSysWr o s
  | .ctxSave o => Sys2Proof.Machine.execCtxSave o s
  | .ctxLoad o => Sys2Proof.Machine.execCtxLoad o s
  | .halt o => Sys2Proof.Machine.execHalt o s
  | .illegalWord w => Sys2Proof.Machine.execIllegalWord w s
  | .queueDoorbell x => Sys2Proof.Machine.execQueueDoorbell x s
  | .queueAppend q x => Sys2Proof.Machine.execQueueAppend q x s
  | .ringPoll q => Sys2Proof.Machine.execRingPoll q s
  | .headRecordRead q => Sys2Proof.Machine.execHeadRecordRead q s
  | .waitWordEval q ix => Sys2Proof.Machine.execWaitWordEval q ix s
  | .waitWordPoll q ix => Sys2Proof.Machine.execWaitWordPoll q ix s
  | .priorityAging q => Sys2Proof.Machine.execPriorityAging q s
  | .gridDispatch => Sys2Proof.Machine.execGridDispatch s
  | .dieGangPlace grid => Sys2Proof.Machine.execDieGangPlace grid s
  | .placementPass die => Sys2Proof.Machine.execPlacementPass die s
  | .sliceReserveDie die grid => Sys2Proof.Machine.execSliceReserveDie die grid s
  | .registerBlockRelocate cid run => Sys2Proof.Machine.execRegisterBlockRelocate cid run s
  | .cohortEntry blk => Sys2Proof.Machine.execCohortEntry blk s
  | .blockRetire blk => Sys2Proof.Machine.execBlockRetire blk s
  | .gridCompletionStore grid => Sys2Proof.Machine.execGridCompletionStore grid s
  | .lcbWrite die v => Sys2Proof.Machine.execLcbWrite die v s
  | .lcbApply core => Sys2Proof.Machine.execLcbApply core s
  | .quotaEntryWrite die ix v => Sys2Proof.Machine.execQuotaEntryWrite die ix v s
  | .untilLapse g => Sys2Proof.Machine.execUntilLapse g s
  | .blockFetchComplete cid frag => Sys2Proof.Machine.execBlockFetchComplete cid frag s
  | .fragmentJoinPark cid frag => Sys2Proof.Machine.execFragmentJoinPark cid frag s
  | .switchResume cid => Sys2Proof.Machine.execSwitchResume cid s
  | .variableResultReturn cid vid n => Sys2Proof.Machine.execVariableResultReturn cid vid n s
  | .yieldExpire cid => Sys2Proof.Machine.execYieldExpire cid s
  | .matrixStart core => Sys2Proof.Machine.execMatrixStart core s
  | .matrixComplete core bad1 bad2 => Sys2Proof.Machine.execMatrixComplete core bad1 bad2 s
  | .planeLoadComplete core => Sys2Proof.Machine.execPlaneLoadComplete core s
  | .vredWrite cid vid err => Sys2Proof.Machine.execVredWrite cid vid err s
  | .trapDelivery cid => Sys2Proof.Machine.execTrapDelivery cid s
  | .hostTrapRecord ctx => Sys2Proof.Machine.execHostTrapRecord ctx s
  | .orphanTrap ctx cause info die => Sys2Proof.Machine.execOrphanTrap ctx cause info die s
  | .pageWalkComplete core ctx va => Sys2Proof.Machine.execPageWalkComplete core ctx va s
  | .pageRequestResponse n ans => Sys2Proof.Machine.execPageRequestResponse n ans s
  | .tinvWrite v => Sys2Proof.Machine.execTinvWrite v s
  | .tinvComplete => Sys2Proof.Machine.execTinvComplete s
  | .mcarveWrite die v => Sys2Proof.Machine.execMcarveWrite die v s
  | .mcarveComplete die => Sys2Proof.Machine.execMcarveComplete die s
  | .copyRequestStart core => Sys2Proof.Machine.execCopyRequestStart core s
  | .copyDelivery req off => Sys2Proof.Machine.execCopyDelivery req off s
  | .xdmaComplete x => Sys2Proof.Machine.execXdmaComplete x s
  | .wadrPoll cid => Sys2Proof.Machine.execWadrPoll cid s
  | .rd core line alloc => Sys2Proof.Machine.execRd core line alloc s
  | .data core line bytes f => Sys2Proof.Machine.execData core line bytes f s
  | .wi core line => Sys2Proof.Machine.execWi core line s
  | .wb core line mask bytes pois x => Sys2Proof.Machine.execWb core line mask bytes pois x s
  | .wback core line n => Sys2Proof.Machine.execWback core line n s
  | .inv core line txn => Sys2Proof.Machine.execInv core line txn s
  | .iackClean core line txn => Sys2Proof.Machine.execIackClean core line txn s
  | .iackData core line txn mask bytes x => Sys2Proof.Machine.execIackData core line txn mask bytes x s
  | .iackWbif core line txn n => Sys2Proof.Machine.execIackWbif core line txn n s
  | .fwd core line x => Sys2Proof.Machine.execFwd core line x s
  | .fack core line txn mask bytes x => Sys2Proof.Machine.execFack core line txn mask bytes x s
  | .lreq cid line len x => Sys2Proof.Machine.execLreq cid line len x s
  | .lgrant cid line len bytes x => Sys2Proof.Machine.execLgrant cid line len bytes x s
  | .lend core line mask bytes x => Sys2Proof.Machine.execLend core line mask bytes x s
  | .claim eng line => Sys2Proof.Machine.execClaim eng line s
  | .crel eng line => Sys2Proof.Machine.execCrel eng line s
  | .recall eng line => Sys2Proof.Machine.execRecall eng line s
  | .atom r => Sys2Proof.Machine.execAtom r s
  | .aresp r => Sys2Proof.Machine.execAresp r s
  | .retry core line txn x => Sys2Proof.Machine.execRetry core line txn x s
  | .redoRequest r => Sys2Proof.Machine.execRedoRequest r s
  | .redoRetry r => Sys2Proof.Machine.execRedoRetry r s
  | .redoDiscard grid => Sys2Proof.Machine.execRedoDiscard grid s
  | .futGetRetry cid vid => Sys2Proof.Machine.execFutGetRetry cid vid s
  | .abandonRequest ctx key => Sys2Proof.Machine.execAbandonRequest ctx key s
  | .writebackDeadline core line => Sys2Proof.Machine.execWritebackDeadline core line s
  | .lineExpiry core line => Sys2Proof.Machine.execLineExpiry core line s
  | .leaseExpiry core line => Sys2Proof.Machine.execLeaseExpiry core line s
  | .leaseForcedEnd core => Sys2Proof.Machine.execLeaseForcedEnd core s
  | .homeLeaseTimeout line => Sys2Proof.Machine.execHomeLeaseTimeout line s
  | .directoryVictim line => Sys2Proof.Machine.execDirectoryVictim line s
  | .completionBeacon src dst epoch applied => Sys2Proof.Machine.execCompletionBeacon src dst epoch applied s
  | .beaconTimer die => Sys2Proof.Machine.execBeaconTimer die s
  | .clockChange die mhz => Sys2Proof.Machine.execClockChange die mhz s
  | .stalemateFire ctx => Sys2Proof.Machine.execStalemateFire ctx s
  | .preemptionRequest grid die => Sys2Proof.Machine.execPreemptionRequest grid die s
  | .blockSave blk => Sys2Proof.Machine.execBlockSave blk s
  | .blockFlush blk => Sys2Proof.Machine.execBlockFlush blk s
  | .ctxcmdResume v => Sys2Proof.Machine.execCtxcmdResume v s
  | .ctxcmdAbort v => Sys2Proof.Machine.execCtxcmdAbort v s
  | .ctxcmdTeardown v => Sys2Proof.Machine.execCtxcmdTeardown v s
  | .ctxcmdSave v => Sys2Proof.Machine.execCtxcmdSave v s
  | .ctxcmdRestore v => Sys2Proof.Machine.execCtxcmdRestore v s
  | .softError e => Sys2Proof.Machine.execSoftError e s
  | .commandedReset die v => Sys2Proof.Machine.execCommandedReset die v s
  | .dieReset die cause => Sys2Proof.Machine.execDieReset die cause s
  | .packageReset => Sys2Proof.Machine.execPackageReset s
  | .bridgeFlitReceive bridge k f => Sys2Proof.Machine.execBridgeFlitReceive bridge k f s
  | .linkTrainingLost bridge => Sys2Proof.Machine.execLinkTrainingLost bridge s
  | .hostLinkDown io => Sys2Proof.Machine.execHostLinkDown io s
  | .hostCompletion k ok => Sys2Proof.Machine.execHostCompletion k ok s
  | .hostInboundAccess io off wr len => Sys2Proof.Machine.execHostInboundAccess io off wr len s
  | .peerRequest peer off req => Sys2Proof.Machine.execPeerRequest peer off req s
  | .peerResponse k ok => Sys2Proof.Machine.execPeerResponse k ok s
  | .peerRetransmit k => Sys2Proof.Machine.execPeerRetransmit k s
  | .ptpEventMessage port lock bound slew => Sys2Proof.Machine.execPtpEventMessage port lock bound slew s
  | .fwStageVerify v => Sys2Proof.Machine.execFwStageVerify v s
  | .fwCommit v ok => Sys2Proof.Machine.execFwCommit v ok s
  | .fwRaiseMinsvn v => Sys2Proof.Machine.execFwRaiseMinsvn v s
  | .getDigests io => Sys2Proof.Machine.execGetDigests io s
  | .getCertificate io slot off len => Sys2Proof.Machine.execGetCertificate io slot off len s
  | .challenge io slot nonce => Sys2Proof.Machine.execChallenge io slot nonce s
  | .getMeasurements io idx sign nonce => Sys2Proof.Machine.execGetMeasurements io idx sign nonce s
  | .vendorDefinedRequest io => Sys2Proof.Machine.execVendorDefinedRequest io s
  | .keyExchange io slot data => Sys2Proof.Machine.execKeyExchange io slot data s
  | .finish io sess mac => Sys2Proof.Machine.execFinish io sess mac s
  | .keyUpdate io sess all => Sys2Proof.Machine.execKeyUpdate io sess all s
  | .heartbeat io sess => Sys2Proof.Machine.execHeartbeat io sess s
  | .endSession io sess => Sys2Proof.Machine.execEndSession io sess s
  | .pskExchange io => Sys2Proof.Machine.execPskExchange io s
  | .ideKmQuery io sess => Sys2Proof.Machine.execIdeKmQuery io sess s
  | .keyProg io sess stream key => Sys2Proof.Machine.execKeyProg io sess stream key s
  | .kSetGo io sess stream => Sys2Proof.Machine.execKSetGo io sess stream s
  | .kSetStop io sess stream => Sys2Proof.Machine.execKSetStop io sess stream s
  | .marginDwellStart b v => Sys2Proof.Machine.execMarginDwellStart b v s
  | .marginDwellEnd b => Sys2Proof.Machine.execMarginDwellEnd b s
  | .bistSuiteEnd cid => Sys2Proof.Machine.execBistSuiteEnd cid s
  | .monitorSample ch v => Sys2Proof.Machine.execMonitorSample ch v s
  | .monvalRead ch => Sys2Proof.Machine.execMonvalRead ch s
  | .histRead ch ix => Sys2Proof.Machine.execHistRead ch ix s
  | .dstatRead die => Sys2Proof.Machine.execDstatRead die s
  | .bmresRead b => Sys2Proof.Machine.execBmresRead b s
  | .accountingUpdate die ctx => Sys2Proof.Machine.execAccountingUpdate die ctx s
  | .registerWrite io off v => Sys2Proof.Machine.execRegisterWrite io off v s
  | .matrixCreditRefill core => Sys2Proof.Machine.execMatrixCreditRefill core s
  | .powerManagementRateWrite core rate => Sys2Proof.Machine.execPowerManagementRateWrite core rate s
  | .xdmaDelivery x off => Sys2Proof.Machine.execXdmaDelivery x off s
  | .hostLinkUp io cxl => Sys2Proof.Machine.execHostLinkUp io cxl s
  | .powerLoss => Sys2Proof.Machine.execPowerLoss s
  | .beaconRequest src dst => Sys2Proof.Machine.execBeaconRequest src dst s
  | .vmargActStep die => Sys2Proof.Machine.execVmargActStep die s

end Sys2Proof.Machine
end

