-- ==== Sys2Proof/Machine/Account.lean ====
section
/-! DEFINITION. The passing of TIME: clocks, ages and the accounting counters (08 R176, 15 R303-R312, 22 R444). -/
namespace Sys2Proof.Machine

/-! ### Accounting counters (22 R444)

Ctx.acct is keyed 16·die + field for what a die has counted and not yet added; 4096 + core for words issued and not yet set against
cycles; 8192 + die for 1/16 ns of DBUSY not yet a whole one. -/

/-- A count of a context raised. -/
def addAcct (x : Ctx) (i n : Nat) : Ctx := { x with acct := tput 0 x.acct i (tget 0 x.acct i + n) }

/-- The stall field of a cycle in which the context issues nothing on a core: the first whose condition holds, as its offset over 8. -/
def stallField (s : State) (cids : List Nat) : Option Nat :=
  let any (p : Cohort → Bool) : Bool := cids.any fun cid => p (s.cohort cid)
  let waits (p : Wait → Bool) : Bool := any fun c => c.waits.any p
  if cids.any (ready s) then some 2
  else if waits fun w => match w with | .op .room => true | _ => false then some 3
  else if waits fun w => match w with | .switch _ => true | _ => false then some 4
  else if any fun c => c.ents.any fun e => match e.st with | .parked _ => true | _ => false then some 5
  else if cids.all fun cid => (!(s.cohort cid).waits.isEmpty || barHeld (s.cohort cid)) && !((s.cohort cid).waits.any fun w => match w with | .host _ => true | _ => false)
    then some 6
  else if any fun c => c.trap.isSome || !c.dtraps.isEmpty || inHandler c ||
    c.waits.any fun w => match w with | .host _ => true | _ => false then some 7
  else none

/-- The matrix fields of a context on a core: the unit held, or the chosen entry waiting for credit. -/
def matField (s : State) (core ctx : Nat) : Option Nat :=
  let k := s.core core
  match k.matRun with
  | some r => if (s.cohort r.ent.cid).ctx == ctx then some 8 else none
  | none =>
    match matNext k (s.cycOf (dieOfCore core)) with
    | some e => if (s.cohort e.cid).ctx == ctx && k.rate != 0 && credNow s core < (e.u : Int) * 256 then some 9 else none
    | none => none

/-- `n` cycles of a core count for a context (R444): residence, a stall of the cycles in which it issued no word, the matrix unit. -/
def State.accrueCore (s : State) (core ctx n : Nat) (cids : List Nat) : State :=
  let die := dieOfCore core
  let x := s.ctx ctx
  let w := tget 0 x.acct (4096 + core)
  let x := addAcct x (16 * die) n
  let x := { x with acct := tput 0 x.acct (4096 + core) (w - n) }
  let x := match stallField s cids with | some i => addAcct x (16 * die + i) (n - w) | none => x
  let x := match matField s core ctx with | some i => addAcct x (16 * die + i) n | none => x
  s.setCtx ctx x

/-- A context's copy requests and transfers count on a die. -/
def State.accrueCopies (s : State) (die n dt : Nat) : State :=
  let on (core : Nat) : Bool := dieOfCore core == die
  let cs := (s.copies.filter fun r => on r.core && r.started).map fun (r : CopyReq) => (r.core, r.ctx, r.paused.isSome)
  let s := cs.eraseDups.foldl (fun (s : State) c => s.setCtx c.2.1 (addAcct (s.ctx c.2.1) (16 * die + if c.2.2 then 11 else 10) n)) s
  let xs := ((s.xdmas.filter fun x => on x.core).map (·.ctx)).eraseDups
  xs.foldl (fun (s : State) c =>
    let x := addAcct (s.ctx c) (8192 + die) dt
    let r := tget 0 x.acct (8192 + die)
    s.setCtx c (addAcct { x with acct := tput 0 x.acct (8192 + die) (r % 16) } (16 * die + 12) (r / 16))) s

/-- The counters of a die whose accounting is on advance by `n` cycles. -/
def State.accrue (s : State) (die n dt : Nat) : State :=
  if !(s.die die).acctBase.getLsbD 0 then s
  else
    let cids := (tkeys s.cohorts).filter fun cid => dieOf cid == die && (s.cohort cid).kind != .vacant
    let pairs := (cids.map fun cid => (coreOf cid, (s.cohort cid).ctx)).eraseDups
    let t := pairs.foldl (fun (t : State) (p : Nat × Nat) =>
      t.accrueCore p.1 p.2 n (cids.filter fun cid => coreOf cid == p.1 && (s.cohort cid).ctx == p.2)) s
    t.accrueCopies die n dt

/-! ### TIME passes -/

/-- `dt` units of 1/16 ns of the reference pass, TIME advancing with them under the present slew, of which what is less than a unit is kept (15
R312): every die's copy and cycle count advance, and the ages of ready cohorts; the age of one that is not ready starts anew (08 R176). -/
def State.advance (s : State) (dt : Nat) (adj : List Int) : State :=
  let due := (s.slewRem : Int) + dt * (2 ^ 32 + s.slew)
  let adv := (due / 2 ^ 32).toNat
  let p := s.ptime + dw adv
  let rdy := (tkeys s.cohorts).filter (ready s)
  let cycles (d : Nat) : Nat := (dieElapse (s.die d) dt).2
  let s' := (List.range 12).foldl (fun (t : State) d => t.accrue d (cycles d) dt) s
  let s' := (List.range 12).foldl (fun t d =>
    let x := dieElapse (t.die d) dt
    t.setDie d { x.1 with time := dieTime x.1.time p adv (adj.getD d 0) }) { s' with ptime := p, slewRem := (due % 2 ^ 32).toNat, ioCyc := s.ioCyc + dt }
  (tkeys s.cohorts).foldl (fun t cid =>
    let c := t.cohort cid
    t.setCohort cid { c with age := if rdy.contains cid then c.age + cycles (dieOf cid) else 0 }) s'

end Sys2Proof.Machine
end

