-- ==== Sys2Proof/Machine/Timers.lean ====
section
/-! DEFINITION. What must have happened by a time: leases, write-backs, lapses, beacons, passes, polls, samples, the watchdog, and the passing of TIME
up to the next of them (04 R80, R86, 05 R111, R118, 09 R201, 14 R296, 15 R307, R311, 16 R319, R331-R334, 18 R372, 19 R390, R398, 20 R419, 21 R426, 22
R437-R444). -/
namespace Sys2Proof.Machine

/-! ### What is due -/

/-- Answers that have been long enough on their way from another die's home (15 R311). -/
def State.answersCome (s : State) : State :=
  let due (p : Pend) : Bool := match p.kind with | .coming t => 160 ≤ (s.ptime - t).toNat | _ => false
  if !(s.cohorts.any fun x => x.2.pend.any due) then s
  else { s with cohorts := s.cohorts.map fun x =>
    (x.1, { x.2 with pend := x.2.pend.map fun p => if due p then { p with kind := .known } else p }) }

/-- The slices of a grid dispatched long enough ago reach their dies (15 R311). -/
def State.slicesCome (s : State) : State :=
  (tkeys s.grids).foldl (fun s g =>
    let x := s.grid g
    if !x.active || x.here || (s.ptime - x.sentAt).toNat < 160 then s
    else x.slices.foldl (fun s y => s.passSoon y.die) (s.setGrid g { x with here := true })) s

/-- The leases of a core that have run out, or whose forced end has come, end (16 R332, R333). -/
def State.endLeases (s : State) (core : Nat) : State :=
  (s.core core).leases.foldl (fun s l => match leaseOver s core l with
    | some how => s.endLease core l how
    | none => s) s

/-- The lines of a core that have been dirty for 2,048 of its cycles are written back (16 R319). -/
def State.lateLines (s : State) (core : Nat) : State :=
  (s.linesOf core).foldl (fun s l =>
    let e := s.lc core l
    if e.dirty != 0 && e.dirtyAt + 2048 ≤ s.cycOf (dieOfCore core) && (leased s core l).isNone then s.writeBack core l else s) s

/-- The until granules whose DEADLINE is 1 ms past lapse (05 R118). -/
def State.lateGrans (s : State) : State :=
  (tkeys s.grans).foldl (fun s g =>
    let x := s.gran (g * 4096)
    if x.cls == 2 && !x.lapsed && x.deadline.toNat + 16000000 ≤ (s.timeOf (homeDie (g * 4096))).toNat then s.lapseGran g else s) s

/-- A die's beacon to every other (15 R307). -/
def State.sendBeacons (s : State) (d : Nat) : State :=
  let s := s.setDie d { s.die d with beaconAt := s.ptime }
  (List.range 14).foldl (fun s c => if c == d then s else s.send (beaconOf s d c)) s
/-- A die whose last beacon is 100 ns old sends the next (15 R307). -/
def State.beaconsDue (s : State) : State :=
  (List.range 14).foldl (fun s d => if 1600 ≤ (s.ptime - (s.die d).beaconAt).toNat then s.sendBeacons d else s) s

/-- The dies that are to make a pass make it, the die-gang grids that wait before it (05 R111). -/
def State.passes (s : State) : State :=
  let due := (tkeys s.dies).filter fun d => d < 12 && (s.die d).passDue
  if due.isEmpty then s
  else
    let gangs := (tkeys s.grids).filter fun g => (s.grid g).active && (s.grid g).gang
    due.foldl (fun s d => s.pass d) (gangs.foldl (fun s g => s.placeGang g) s)

/-- A step of the machine's own that has come due is made. -/
def State.due (s : State) (f : State → Host.Outcome State Fault Refusal) : State :=
  match f s with
  | .next t => t
  | _ => s

/-- The contexts a stalemate watchdog looks at: those with cohorts resident, and those it counts for (19 R397). -/
def watched (s : State) : List Nat :=
  (s.cohorts.map (fun p => p.2.ctx) ++ (s.ctxs.filter (·.2.idleSince.isSome)).map (·.1)).eraseDups
/-- The watchdogs look at their contexts, and grids with nothing left but held reductions are looked at (18 R372, 19 R397, R398). -/
def State.watchdogs (s : State) : State :=
  let s := (watched s).foldl (fun s c => s.due (execStalemateFire c)) s
  ((tkeys s.grids).filter fun g => (s.grid g).active).foldl (fun s g => s.due (execRedoDiscard g)) s

/-- The outstanding `fut.get`s of a cohort that a home has refused, each with the cycle in which it is sent again (19 R390). -/
def retries (s : State) (cid : Nat) : List (Nat × Nat) :=
  (s.cohort cid).pend.filterMap fun p => match p.kind with | .futGet _ _ _ (some t) _ => some (p.vid, t) | _ => none
/-- The cycle in which a cohort's `yield` is over, where it makes one (09 R201). -/
def yields (s : State) (cid : Nat) : List Nat :=
  (s.cohort cid).waits.filterMap fun w => match w with | .yield n => some n | _ => none
/-- Refused `fut.get`s go out again, and yields that are over end. -/
def State.cohortTimes (s : State) (cid : Nat) : State :=
  let now := s.cycOf (dieOf cid)
  let s := (retries s cid).foldl (fun s p => if p.2 ≤ now then s.due (execFutGetRetry cid p.1) else s) s
  if (yields s cid).isEmpty then s else s.due (execYieldExpire cid)

/-- The bound of a self-test in units of TIME (22 R438). -/
def bistBound (suite : Nat) : Nat :=
  (match suite with | 1 => 1 | 2 => 20 | 3 => 5 | 4 => 10 | _ => 2) * 16000000
/-- The self-test a cohort has under way. -/
def bistOf (s : State) (cid : Nat) : Option Bist := (s.cohort cid).bist.filter (·.result.isNone)
/-- What a margining dwell lasts (22 R437). -/
def dwellTime (x : Bridge) : Nat := max 1 (bits x.ctl 0 8) * 10 * usTime
/-- Self-tests, dwells and samples whose time has come (22 R437-R441). -/
def State.testsDue (s : State) : State :=
  let s := (tkeys s.cohorts).foldl (fun s cid =>
    if (bistOf s cid).any fun b => bistBound b.suite ≤ (s.ptime - b.since).toNat then s.due (execBistSuiteEnd cid) else s) s
  let s := (tkeys s.bridges).foldl (fun s b => s.due (execMarginDwellEnd b)) s
  (tkeys s.mons).foldl (fun s ch =>
    if (s.mon ch).ctl.getLsbD 0 then
      { s with free := s.free + 1 }.due (execMonitorSample ch ((Config.word s.free).extractLsb' 0 16))
    else s) s

/-- A wait word of a queue's head lies outside the package: it is polled (04 R86). -/
def waitOutside (s : State) (q i : Nat) : Bool :=
  match (s.queue q).head with
  | some r => (match svcTr s (rCtx r) (waitAddr r i) .read with | .ok k _ => isHost k || isPeer k | _ => false)
  | none => false
/-- The wait words in the package whose values satisfy their heads latch (04 R86). -/
def State.waitsMet (s : State) : State :=
  (tkeys s.queues).foldl (fun s q =>
    match (s.queue q).head with
    | none => s
    | some r => (List.range 4).foldl (fun s i =>
      if (s.queue q).latched.getD i true then s
      else match svcTr s (rCtx r) (waitAddr r i) .read with
        | .ok k _ =>
          if !(isHost k || isPeer k) && reached (BitVec.ofNat 32 (s.word k).toNat) (waitVal r i) then s.due (execWaitWordEval q i) else s
        | _ => s) s) s

/-- The frames of the peer transport that are due again (21 R426). -/
def State.framesDue (s : State) : State :=
  ((List.range s.net.length).filter fun k => (s.net[k]?.any toPeer) && 160000 ≤ (s.ptime - s.sentAt.getD k 0).toNat).reverse.foldl
    (fun s k => s.due (execPeerRetransmit k)) s

/-- The period of the polls: less than 2 µs, of which 50 are less than 100 µs, 500 less than 1 ms and 10,000 less than 20 ms. -/
def pollTime : Nat := 30000
/-- What is made at least every 2 µs: the reads of words in host and peer memory (04 R86, 14 R296); every 100 µs: those of the rings (04 R80); every ms:
the dies' accounting (22 R444); and within 20 ms a reset that is under way (20 R419). `n` counts the periods. -/
def State.polls (s : State) (n : Nat) : State :=
  let s := (tkeys s.queues).foldl (fun s q => (List.range 4).foldl (fun s i => if waitOutside s q i then s.due (execWaitWordPoll q i) else s) s) s
  let s := ((tkeys s.cohorts).filter fun cid => (s.cohort cid).waits.any fun w => match w with | .op (.word _ ext) => ext | _ => false).foldl
    (fun s cid => s.due (execWadrPoll cid)) s
  let s := if n % 50 == 0 && s.qtbase.getLsbD 0 then (List.range 1024).foldl (fun s q => s.due (execRingPoll q)) s else s
  let s := if n % 500 == 0 then (List.range 12).foldl (fun s d =>
      if (s.die d).acctBase.getLsbD 0 then (tkeys s.ctxs).foldl (fun s c => s.account d c) s else s) s else s
  if n % 10000 == 0 then (List.range 12).foldl (fun s d => if (s.die d).rstBusy then s.due (execDieReset d 3) else s) s else s

/-- The cores whose leases or lines have a time of their own. -/
def timedCores (s : State) : List Nat :=
  (tkeys s.cores ++ (tkeys s.lines).map (· / 2 ^ 70)).eraseDups

/-- Everything that is due happens. -/
def State.settle (s : State) : State :=
  let s := s.answersCome.slicesCome
  let s := (timedCores s).foldl (fun s c => (s.endLeases c).lateLines c) s
  let s := (s.lateGrans.beaconsDue.retestNexts).passes
  let s := (tkeys s.cohorts).foldl (fun s cid => s.cohortTimes cid) s
  ((s.testsDue.framesDue).waitsMet).watchdogs

/-! ### How long until the next -/

/-- The most units of TIME in which a die counts no more than `n` further cycles. -/
def cycUnits (s : State) (d n : Nat) : Nat :=
  let x := s.die d
  ((n + 1) * 16000 - 1 - x.rem) / max 1 x.fcur.toNat

/-- The cycles to a cycle still to come. -/
def ahead (s : State) (d at' : Nat) : List Nat := if s.cycOf d < at' then [cycUnits s d (at' - s.cycOf d)] else []

/-- A cohort's run under a lease is still to finish: its fragment goes on, or waits only for results that have come (16 R334). -/
def runGoes (s : State) (cid line : Nat) : Bool :=
  let c := s.cohort cid
  let come (w : Wait) : Bool := match w with
    | .switch vids => vids.all fun v => (c.pend.find? (·.vid == v)).all fun p => (pendReady c p).isSome
    | _ => false
  let going (x : LeaseSlot) : Bool := x.line == line && x.ended.isNone && x.run.any fun r =>
    let e := entOf c r.1
    e.st == .run && (r.2 < 24 || e.inWord) && e.wait.isNone && e.park.isNone
  c.kind != .vacant && c.handler.isNone && c.trap.isNone && c.dtraps.isEmpty && c.leases.any going &&
  (ready s cid || (!c.waits.isEmpty && c.waits.all come))

/-- How long until something of a core is due: a lease's end, which a run under it delays from cycle 31 on; a line's write-back. -/
def coreLimits (s : State) (core : Nat) : List Nat :=
  let d := dieOfCore core
  let lease (l : Lease) : List Nat :=
    let held := match l.cid with
      | some cid => if runGoes s cid l.line then
          [if s.cycOf d < l.start + 31 then cycUnits s d (l.start + 31 - s.cycOf d) else 0] else []
      | none => []
    held ++ ahead s d (l.start + l.len) ++ (l.endAt.map (ahead s d)).getD []
  (s.core core).leases.flatMap lease ++
  (s.linesOf core).flatMap fun l =>
    let e := s.lc core l
    if e.dirty == 0 || (leased s core l).isSome then [] else ahead s d (e.dirtyAt + 2048)

/-- The length of a lease of a core on a line whose grant is in flight. -/
def grantFlies (s : State) (core line : Nat) : Option Nat :=
  s.net.findSome? fun m => match m with
    | .lgrant cid l len _ _ => if coreOf cid == core && l == line then some len else none
    | _ => none
/-- The end of a lease of a core on a line is in flight. -/
def endFlies (s : State) (core line : Nat) : Bool :=
  s.net.any fun m => match m with
    | .lend c l _ _ _ => c == core && l == line
    | _ => false

/-- How long the home of a leased line can wait: TIME does not pass its bound while the lease, its grant or its LEND is still to come, nor come so
near it that the lease could not run its length and its LEND arrive (16 R331). -/
def homeLimits (s : State) (line : Nat) : List Nat :=
  match (s.dirEnt line).lse with
  | none => []
  | some (core, _, bound) =>
    let h := homeDie (line * 128)
    let upTo (n : Nat) : List Nat := [if s.cycOf h < n then cycUnits s h (n - s.cycOf h) else 0]
    match grantFlies s core line with
    | some len => upTo (bound - (leaseBound s core line len - 64) - 24)
    | none =>
    if endFlies s core line || (s.core core).leases.any (·.line == line) then upTo bound
    else []

/-- The most units of TIME that may pass in one step. -/
def timeLimit (s : State) (dt : Nat) : Nat :=
  let since (t : DWord) (n : Nat) : List Nat := if (s.ptime - t).toNat < n then [n - (s.ptime - t).toNat] else []
  let grids := s.grids.flatMap fun p => if p.2.active && !p.2.here then since p.2.sentAt 160 else []
  let pends := s.cohorts.flatMap fun x => x.2.pend.flatMap fun p => match p.kind with | .coming t => since t 160 | _ => []
  let beacons := (List.range 14).flatMap fun d => since (s.die d).beaconAt 1600
  let grans := (tkeys s.grans).flatMap fun g =>
    let x := s.gran (g * 4096)
    let now := (s.timeOf (homeDie (g * 4096))).toNat
    if x.cls == 2 && !x.lapsed && now < x.deadline.toNat + 16000000 then [x.deadline.toNat + 16000000 - now] else []
  let cohorts := (tkeys s.cohorts).flatMap fun cid =>
    let d := dieOf cid
    ((retries s cid).map (·.2) ++ yields s cid).flatMap (ahead s d) ++ ((bistOf s cid).map fun b => since b.since (bistBound b.suite)).getD []
  let bridges := s.bridges.flatMap fun p => if p.2.ctl.getLsbD 63 then since p.2.dwellAt (dwellTime p.2) else []
  let mons := s.mons.flatMap fun p => if p.2.ctl.getLsbD 0 then since p.2.sampleAt (bits p.2.ctl 4 12 * usTime) else []
  let dogs := s.ctxs.flatMap fun p => match p.2.idleSince with
    | some (t, _) => since t (bits p.2.wdogcfg 16 16 * fadeWindow)
    | none => []
  let redos := s.grids.flatMap fun p => match p.2.ended with | some t => since t fadeWindow | none => []
  let cores := (timedCores s).flatMap (coreLimits s)
  let homes := (tkeys s.dir).flatMap (homeLimits s)
  (grids ++ pends ++ beacons ++ grans ++ cohorts ++ bridges ++ mons ++ dogs ++ redos ++ cores ++ homes).foldl min dt

/-- TIME passes, no further than to the next thing that is due, which then happens (15 R311, R312). -/
def State.elapse (s : State) (dt : Nat) (adj : List Int) : State :=
  let t := s.settle
  let u := t.advance (timeLimit t dt) adj
  let n := u.ptime.toNat / pollTime
  (if t.ptime.toNat / pollTime == n then u else u.polls n).settle

end Sys2Proof.Machine
end

