-- ==== Sys2Proof/Machine/Step.lean ====
section
/-! DEFINITION. One step: the agent that plain data in State names moves once. -/
namespace Sys2Proof.Machine

/-- The next move, and the state that has taken it off the schedule; with an empty schedule the move is a free value. -/
def nextMove (s : State) : Move × State :=
  match s.sched with
  | m :: t => (m, { s with sched := t })
  | [] => (freeMove s.free, { s with free := s.free + 1 })

/-- A chosen step, where there is one. -/
def runChosen (s : State) (o : Option (Instr × State)) : Host.Outcome State Fault Refusal :=
  match o with
  | some p => exec p.1 p.2
  | none => .next s

/-- A move of a package with power. -/
def act (m : Move) (s : State) : Host.Outcome State Fault Refusal :=
  match m with
  | .core c => runChosen s ((pick s c).bind (issue s))
  | .wake cid frag => runChosen (wakeWaits s cid) (wake (wakeWaits s cid) cid frag)
  | .deliver k => runChosen s (take s k)
  | .event i => if isEvent i then exec i s else .next s
  | .elapse dt adj => .next (s.elapse dt adj)
  | .outside key bytes => .next (s.outsideWrite key bytes)
  | .hostRead io off => .next (s.hostRead io off)

/-- One step. Without power nothing of the package moves until package reset; after a package-fatal error it issues nothing, and only TIME,
the host and the loss of power go on (21 R421, R431, R432). -/
def step (s : State) : Host.Outcome State Fault Refusal :=
  match nextMove s with
  | (m, t) =>
    if s.powered && !s.fatal then act m t
    else match m with
      | .event .packageReset => exec .packageReset t
      | .event .powerLoss => exec .powerLoss t
      | .outside key bytes => .next (t.outsideWrite key bytes)
      | .elapse dt adj => if s.powered then .next (t.advance dt adj) else .fault .noPower
      | _ => if s.powered then .next t else .fault .noPower

/-- A state whose next step fetches and runs one instruction: its bits stand as the only word of a block that the only cohort of
core 0 has entered, and core 0 moves next. -/
def State.withFetchWord (s : State) (nbits w : Nat) : State :=
  { s with
    sched := [.core 0], powered := true, fatal := false,
    cohorts := [(0, hostCohort (BitVec.ofNat 96 (leNat (leBytes 12 (w % 2 ^ nbits)))))] }

end Sys2Proof.Machine
end

