-- ==== Sys2Proof/Laws/State.lean ====
section
/-! SUPPORT. One law per field per update of State, so that no later proof unfolds a record update. -/
namespace Sys2Proof.Machine

/-! ### setCohort -/

section
variable (s : State) (cid : Nat) (c : Cohort)

@[simp] theorem State.setCohort_powered : (s.setCohort cid c).powered = s.powered := rfl
@[simp] theorem State.setCohort_fatal : (s.setCohort cid c).fatal = s.fatal := rfl
@[simp] theorem State.setCohort_cur : (s.setCohort cid c).cur = s.cur := rfl
@[simp] theorem State.setCohort_free : (s.setCohort cid c).free = s.free := rfl
@[simp] theorem State.setCohort_sched : (s.setCohort cid c).sched = s.sched := rfl
@[simp] theorem State.setCohort_net : (s.setCohort cid c).net = s.net := rfl
@[simp] theorem State.setCohort_sentAt : (s.setCohort cid c).sentAt = s.sentAt := rfl
@[simp] theorem State.setCohort_cohorts : (s.setCohort cid c).cohorts = tput Cohort.vacant s.cohorts cid c := rfl
@[simp] theorem State.setCohort_blks : (s.setCohort cid c).blks = s.blks := rfl
@[simp] theorem State.setCohort_grids : (s.setCohort cid c).grids = s.grids := rfl
@[simp] theorem State.setCohort_queues : (s.setCohort cid c).queues = s.queues := rfl
@[simp] theorem State.setCohort_cores : (s.setCohort cid c).cores = s.cores := rfl
@[simp] theorem State.setCohort_dies : (s.setCohort cid c).dies = s.dies := rfl
@[simp] theorem State.setCohort_lines : (s.setCohort cid c).lines = s.lines := rfl
@[simp] theorem State.setCohort_dir : (s.setCohort cid c).dir = s.dir := rfl
@[simp] theorem State.setCohort_defer : (s.setCohort cid c).defer = s.defer := rfl
@[simp] theorem State.setCohort_tokens : (s.setCohort cid c).tokens = s.tokens := rfl
@[simp] theorem State.setCohort_chanSeq : (s.setCohort cid c).chanSeq = s.chanSeq := rfl
@[simp] theorem State.setCohort_chanOpen : (s.setCohort cid c).chanOpen = s.chanOpen := rfl
@[simp] theorem State.setCohort_beacons : (s.setCohort cid c).beacons = s.beacons := rfl
@[simp] theorem State.setCohort_nexts : (s.setCohort cid c).nexts = s.nexts := rfl
@[simp] theorem State.setCohort_mem : (s.setCohort cid c).mem = s.mem := rfl
@[simp] theorem State.setCohort_pois : (s.setCohort cid c).pois = s.pois := rfl
@[simp] theorem State.setCohort_sram : (s.setCohort cid c).sram = s.sram := rfl
@[simp] theorem State.setCohort_msc : (s.setCohort cid c).msc = s.msc := rfl
@[simp] theorem State.setCohort_grans : (s.setCohort cid c).grans = s.grans := rfl
@[simp] theorem State.setCohort_tlb : (s.setCohort cid c).tlb = s.tlb := rfl
@[simp] theorem State.setCohort_code : (s.setCohort cid c).code = s.code := rfl
@[simp] theorem State.setCohort_preqs : (s.setCohort cid c).preqs = s.preqs := rfl
@[simp] theorem State.setCohort_copies : (s.setCohort cid c).copies = s.copies := rfl
@[simp] theorem State.setCohort_xdmas : (s.setCohort cid c).xdmas = s.xdmas := rfl
@[simp] theorem State.setCohort_saved : (s.setCohort cid c).saved = s.saved := rfl
@[simp] theorem State.setCohort_images : (s.setCohort cid c).images = s.images := rfl
@[simp] theorem State.setCohort_ctxs : (s.setCohort cid c).ctxs = s.ctxs := rfl
@[simp] theorem State.setCohort_next : (s.setCohort cid c).next = s.next := rfl
@[simp] theorem State.setCohort_ptime : (s.setCohort cid c).ptime = s.ptime := rfl
@[simp] theorem State.setCohort_slew : (s.setCohort cid c).slew = s.slew := rfl
@[simp] theorem State.setCohort_slewRem : (s.setCohort cid c).slewRem = s.slewRem := rfl
@[simp] theorem State.setCohort_ioCyc : (s.setCohort cid c).ioCyc = s.ioCyc := rfl
@[simp] theorem State.setCohort_qtbase : (s.setCohort cid c).qtbase = s.qtbase := rfl
@[simp] theorem State.setCohort_qdoorbell : (s.setCohort cid c).qdoorbell = s.qdoorbell := rfl
@[simp] theorem State.setCohort_qappend : (s.setCohort cid c).qappend = s.qappend := rfl
@[simp] theorem State.setCohort_pmap : (s.setCohort cid c).pmap = s.pmap := rfl
@[simp] theorem State.setCohort_tinv : (s.setCohort cid c).tinv = s.tinv := rfl
@[simp] theorem State.setCohort_ctxtbase : (s.setCohort cid c).ctxtbase = s.ctxtbase := rfl
@[simp] theorem State.setCohort_ctxcmd : (s.setCohort cid c).ctxcmd = s.ctxcmd := rfl
@[simp] theorem State.setCohort_mcring : (s.setCohort cid c).mcring = s.mcring := rfl
@[simp] theorem State.setCohort_mcidx : (s.setCohort cid c).mcidx = s.mcidx := rfl
@[simp] theorem State.setCohort_evring : (s.setCohort cid c).evring = s.evring := rfl
@[simp] theorem State.setCohort_evidx : (s.setCohort cid c).evidx = s.evidx := rfl
@[simp] theorem State.setCohort_evseq : (s.setCohort cid c).evseq = s.evseq := rfl
@[simp] theorem State.setCohort_terr : (s.setCohort cid c).terr = s.terr := rfl
@[simp] theorem State.setCohort_ptpStamp : (s.setCohort cid c).ptpStamp = s.ptpStamp := rfl
@[simp] theorem State.setCohort_links : (s.setCohort cid c).links = s.links := rfl
@[simp] theorem State.setCohort_bar4 : (s.setCohort cid c).bar4 = s.bar4 := rfl
@[simp] theorem State.setCohort_bridges : (s.setCohort cid c).bridges = s.bridges := rfl
@[simp] theorem State.setCohort_mons : (s.setCohort cid c).mons = s.mons := rfl
@[simp] theorem State.setCohort_peers : (s.setCohort cid c).peers = s.peers := rfl
@[simp] theorem State.setCohort_tries : (s.setCohort cid c).tries = s.tries := rfl
@[simp] theorem State.setCohort_sess : (s.setCohort cid c).sess = s.sess := rfl
@[simp] theorem State.setCohort_signed : (s.setCohort cid c).signed = s.signed := rfl
@[simp] theorem State.setCohort_ide : (s.setCohort cid c).ide = s.ide := rfl
@[simp] theorem State.setCohort_fw : (s.setCohort cid c).fw = s.fw := rfl
@[simp] theorem State.setCohort_out : (s.setCohort cid c).out = s.out := rfl

end

/-! ### setMe -/

section
variable (s : State) (c : Cohort)

@[simp] theorem State.setMe_powered : (s.setMe c).powered = s.powered := rfl
@[simp] theorem State.setMe_fatal : (s.setMe c).fatal = s.fatal := rfl
@[simp] theorem State.setMe_cur : (s.setMe c).cur = s.cur := rfl
@[simp] theorem State.setMe_free : (s.setMe c).free = s.free := rfl
@[simp] theorem State.setMe_sched : (s.setMe c).sched = s.sched := rfl
@[simp] theorem State.setMe_net : (s.setMe c).net = s.net := rfl
@[simp] theorem State.setMe_sentAt : (s.setMe c).sentAt = s.sentAt := rfl
@[simp] theorem State.setMe_cohorts : (s.setMe c).cohorts = tput Cohort.vacant s.cohorts s.cur.cid c := rfl
@[simp] theorem State.setMe_blks : (s.setMe c).blks = s.blks := rfl
@[simp] theorem State.setMe_grids : (s.setMe c).grids = s.grids := rfl
@[simp] theorem State.setMe_queues : (s.setMe c).queues = s.queues := rfl
@[simp] theorem State.setMe_cores : (s.setMe c).cores = s.cores := rfl
@[simp] theorem State.setMe_dies : (s.setMe c).dies = s.dies := rfl
@[simp] theorem State.setMe_lines : (s.setMe c).lines = s.lines := rfl
@[simp] theorem State.setMe_dir : (s.setMe c).dir = s.dir := rfl
@[simp] theorem State.setMe_defer : (s.setMe c).defer = s.defer := rfl
@[simp] theorem State.setMe_tokens : (s.setMe c).tokens = s.tokens := rfl
@[simp] theorem State.setMe_chanSeq : (s.setMe c).chanSeq = s.chanSeq := rfl
@[simp] theorem State.setMe_chanOpen : (s.setMe c).chanOpen = s.chanOpen := rfl
@[simp] theorem State.setMe_beacons : (s.setMe c).beacons = s.beacons := rfl
@[simp] theorem State.setMe_nexts : (s.setMe c).nexts = s.nexts := rfl
@[simp] theorem State.setMe_mem : (s.setMe c).mem = s.mem := rfl
@[simp] theorem State.setMe_pois : (s.setMe c).pois = s.pois := rfl
@[simp] theorem State.setMe_sram : (s.setMe c).sram = s.sram := rfl
@[simp] theorem State.setMe_msc : (s.setMe c).msc = s.msc := rfl
@[simp] theorem State.setMe_grans : (s.setMe c).grans = s.grans := rfl
@[simp] theorem State.setMe_tlb : (s.setMe c).tlb = s.tlb := rfl
@[simp] theorem State.setMe_code : (s.setMe c).code = s.code := rfl
@[simp] theorem State.setMe_preqs : (s.setMe c).preqs = s.preqs := rfl
@[simp] theorem State.setMe_copies : (s.setMe c).copies = s.copies := rfl
@[simp] theorem State.setMe_xdmas : (s.setMe c).xdmas = s.xdmas := rfl
@[simp] theorem State.setMe_saved : (s.setMe c).saved = s.saved := rfl
@[simp] theorem State.setMe_images : (s.setMe c).images = s.images := rfl
@[simp] theorem State.setMe_ctxs : (s.setMe c).ctxs = s.ctxs := rfl
@[simp] theorem State.setMe_next : (s.setMe c).next = s.next := rfl
@[simp] theorem State.setMe_ptime : (s.setMe c).ptime = s.ptime := rfl
@[simp] theorem State.setMe_slew : (s.setMe c).slew = s.slew := rfl
@[simp] theorem State.setMe_slewRem : (s.setMe c).slewRem = s.slewRem := rfl
@[simp] theorem State.setMe_ioCyc : (s.setMe c).ioCyc = s.ioCyc := rfl
@[simp] theorem State.setMe_qtbase : (s.setMe c).qtbase = s.qtbase := rfl
@[simp] theorem State.setMe_qdoorbell : (s.setMe c).qdoorbell = s.qdoorbell := rfl
@[simp] theorem State.setMe_qappend : (s.setMe c).qappend = s.qappend := rfl
@[simp] theorem State.setMe_pmap : (s.setMe c).pmap = s.pmap := rfl
@[simp] theorem State.setMe_tinv : (s.setMe c).tinv = s.tinv := rfl
@[simp] theorem State.setMe_ctxtbase : (s.setMe c).ctxtbase = s.ctxtbase := rfl
@[simp] theorem State.setMe_ctxcmd : (s.setMe c).ctxcmd = s.ctxcmd := rfl
@[simp] theorem State.setMe_mcring : (s.setMe c).mcring = s.mcring := rfl
@[simp] theorem State.setMe_mcidx : (s.setMe c).mcidx = s.mcidx := rfl
@[simp] theorem State.setMe_evring : (s.setMe c).evring = s.evring := rfl
@[simp] theorem State.setMe_evidx : (s.setMe c).evidx = s.evidx := rfl
@[simp] theorem State.setMe_evseq : (s.setMe c).evseq = s.evseq := rfl
@[simp] theorem State.setMe_terr : (s.setMe c).terr = s.terr := rfl
@[simp] theorem State.setMe_ptpStamp : (s.setMe c).ptpStamp = s.ptpStamp := rfl
@[simp] theorem State.setMe_links : (s.setMe c).links = s.links := rfl
@[simp] theorem State.setMe_bar4 : (s.setMe c).bar4 = s.bar4 := rfl
@[simp] theorem State.setMe_bridges : (s.setMe c).bridges = s.bridges := rfl
@[simp] theorem State.setMe_mons : (s.setMe c).mons = s.mons := rfl
@[simp] theorem State.setMe_peers : (s.setMe c).peers = s.peers := rfl
@[simp] theorem State.setMe_tries : (s.setMe c).tries = s.tries := rfl
@[simp] theorem State.setMe_sess : (s.setMe c).sess = s.sess := rfl
@[simp] theorem State.setMe_signed : (s.setMe c).signed = s.signed := rfl
@[simp] theorem State.setMe_ide : (s.setMe c).ide = s.ide := rfl
@[simp] theorem State.setMe_fw : (s.setMe c).fw = s.fw := rfl
@[simp] theorem State.setMe_out : (s.setMe c).out = s.out := rfl

end

/-! ### setBlk -/

section
variable (s : State) (b : Nat) (x : Blk)

@[simp] theorem State.setBlk_powered : (s.setBlk b x).powered = s.powered := rfl
@[simp] theorem State.setBlk_fatal : (s.setBlk b x).fatal = s.fatal := rfl
@[simp] theorem State.setBlk_cur : (s.setBlk b x).cur = s.cur := rfl
@[simp] theorem State.setBlk_free : (s.setBlk b x).free = s.free := rfl
@[simp] theorem State.setBlk_sched : (s.setBlk b x).sched = s.sched := rfl
@[simp] theorem State.setBlk_net : (s.setBlk b x).net = s.net := rfl
@[simp] theorem State.setBlk_sentAt : (s.setBlk b x).sentAt = s.sentAt := rfl
@[simp] theorem State.setBlk_cohorts : (s.setBlk b x).cohorts = s.cohorts := rfl
@[simp] theorem State.setBlk_blks : (s.setBlk b x).blks = tput Blk.none s.blks b x := rfl
@[simp] theorem State.setBlk_grids : (s.setBlk b x).grids = s.grids := rfl
@[simp] theorem State.setBlk_queues : (s.setBlk b x).queues = s.queues := rfl
@[simp] theorem State.setBlk_cores : (s.setBlk b x).cores = s.cores := rfl
@[simp] theorem State.setBlk_dies : (s.setBlk b x).dies = s.dies := rfl
@[simp] theorem State.setBlk_lines : (s.setBlk b x).lines = s.lines := rfl
@[simp] theorem State.setBlk_dir : (s.setBlk b x).dir = s.dir := rfl
@[simp] theorem State.setBlk_defer : (s.setBlk b x).defer = s.defer := rfl
@[simp] theorem State.setBlk_tokens : (s.setBlk b x).tokens = s.tokens := rfl
@[simp] theorem State.setBlk_chanSeq : (s.setBlk b x).chanSeq = s.chanSeq := rfl
@[simp] theorem State.setBlk_chanOpen : (s.setBlk b x).chanOpen = s.chanOpen := rfl
@[simp] theorem State.setBlk_beacons : (s.setBlk b x).beacons = s.beacons := rfl
@[simp] theorem State.setBlk_nexts : (s.setBlk b x).nexts = s.nexts := rfl
@[simp] theorem State.setBlk_mem : (s.setBlk b x).mem = s.mem := rfl
@[simp] theorem State.setBlk_pois : (s.setBlk b x).pois = s.pois := rfl
@[simp] theorem State.setBlk_sram : (s.setBlk b x).sram = s.sram := rfl
@[simp] theorem State.setBlk_msc : (s.setBlk b x).msc = s.msc := rfl
@[simp] theorem State.setBlk_grans : (s.setBlk b x).grans = s.grans := rfl
@[simp] theorem State.setBlk_tlb : (s.setBlk b x).tlb = s.tlb := rfl
@[simp] theorem State.setBlk_code : (s.setBlk b x).code = s.code := rfl
@[simp] theorem State.setBlk_preqs : (s.setBlk b x).preqs = s.preqs := rfl
@[simp] theorem State.setBlk_copies : (s.setBlk b x).copies = s.copies := rfl
@[simp] theorem State.setBlk_xdmas : (s.setBlk b x).xdmas = s.xdmas := rfl
@[simp] theorem State.setBlk_saved : (s.setBlk b x).saved = s.saved := rfl
@[simp] theorem State.setBlk_images : (s.setBlk b x).images = s.images := rfl
@[simp] theorem State.setBlk_ctxs : (s.setBlk b x).ctxs = s.ctxs := rfl
@[simp] theorem State.setBlk_next : (s.setBlk b x).next = s.next := rfl
@[simp] theorem State.setBlk_ptime : (s.setBlk b x).ptime = s.ptime := rfl
@[simp] theorem State.setBlk_slew : (s.setBlk b x).slew = s.slew := rfl
@[simp] theorem State.setBlk_slewRem : (s.setBlk b x).slewRem = s.slewRem := rfl
@[simp] theorem State.setBlk_ioCyc : (s.setBlk b x).ioCyc = s.ioCyc := rfl
@[simp] theorem State.setBlk_qtbase : (s.setBlk b x).qtbase = s.qtbase := rfl
@[simp] theorem State.setBlk_qdoorbell : (s.setBlk b x).qdoorbell = s.qdoorbell := rfl
@[simp] theorem State.setBlk_qappend : (s.setBlk b x).qappend = s.qappend := rfl
@[simp] theorem State.setBlk_pmap : (s.setBlk b x).pmap = s.pmap := rfl
@[simp] theorem State.setBlk_tinv : (s.setBlk b x).tinv = s.tinv := rfl
@[simp] theorem State.setBlk_ctxtbase : (s.setBlk b x).ctxtbase = s.ctxtbase := rfl
@[simp] theorem State.setBlk_ctxcmd : (s.setBlk b x).ctxcmd = s.ctxcmd := rfl
@[simp] theorem State.setBlk_mcring : (s.setBlk b x).mcring = s.mcring := rfl
@[simp] theorem State.setBlk_mcidx : (s.setBlk b x).mcidx = s.mcidx := rfl
@[simp] theorem State.setBlk_evring : (s.setBlk b x).evring = s.evring := rfl
@[simp] theorem State.setBlk_evidx : (s.setBlk b x).evidx = s.evidx := rfl
@[simp] theorem State.setBlk_evseq : (s.setBlk b x).evseq = s.evseq := rfl
@[simp] theorem State.setBlk_terr : (s.setBlk b x).terr = s.terr := rfl
@[simp] theorem State.setBlk_ptpStamp : (s.setBlk b x).ptpStamp = s.ptpStamp := rfl
@[simp] theorem State.setBlk_links : (s.setBlk b x).links = s.links := rfl
@[simp] theorem State.setBlk_bar4 : (s.setBlk b x).bar4 = s.bar4 := rfl
@[simp] theorem State.setBlk_bridges : (s.setBlk b x).bridges = s.bridges := rfl
@[simp] theorem State.setBlk_mons : (s.setBlk b x).mons = s.mons := rfl
@[simp] theorem State.setBlk_peers : (s.setBlk b x).peers = s.peers := rfl
@[simp] theorem State.setBlk_tries : (s.setBlk b x).tries = s.tries := rfl
@[simp] theorem State.setBlk_sess : (s.setBlk b x).sess = s.sess := rfl
@[simp] theorem State.setBlk_signed : (s.setBlk b x).signed = s.signed := rfl
@[simp] theorem State.setBlk_ide : (s.setBlk b x).ide = s.ide := rfl
@[simp] theorem State.setBlk_fw : (s.setBlk b x).fw = s.fw := rfl
@[simp] theorem State.setBlk_out : (s.setBlk b x).out = s.out := rfl

end

/-! ### setGrid -/

section
variable (s : State) (g : Nat) (x : Grid)

@[simp] theorem State.setGrid_powered : (s.setGrid g x).powered = s.powered := rfl
@[simp] theorem State.setGrid_fatal : (s.setGrid g x).fatal = s.fatal := rfl
@[simp] theorem State.setGrid_cur : (s.setGrid g x).cur = s.cur := rfl
@[simp] theorem State.setGrid_free : (s.setGrid g x).free = s.free := rfl
@[simp] theorem State.setGrid_sched : (s.setGrid g x).sched = s.sched := rfl
@[simp] theorem State.setGrid_net : (s.setGrid g x).net = s.net := rfl
@[simp] theorem State.setGrid_sentAt : (s.setGrid g x).sentAt = s.sentAt := rfl
@[simp] theorem State.setGrid_cohorts : (s.setGrid g x).cohorts = s.cohorts := rfl
@[simp] theorem State.setGrid_blks : (s.setGrid g x).blks = s.blks := rfl
@[simp] theorem State.setGrid_grids : (s.setGrid g x).grids = tput Grid.none s.grids g x := rfl
@[simp] theorem State.setGrid_queues : (s.setGrid g x).queues = s.queues := rfl
@[simp] theorem State.setGrid_cores : (s.setGrid g x).cores = s.cores := rfl
@[simp] theorem State.setGrid_dies : (s.setGrid g x).dies = s.dies := rfl
@[simp] theorem State.setGrid_lines : (s.setGrid g x).lines = s.lines := rfl
@[simp] theorem State.setGrid_dir : (s.setGrid g x).dir = s.dir := rfl
@[simp] theorem State.setGrid_defer : (s.setGrid g x).defer = s.defer := rfl
@[simp] theorem State.setGrid_tokens : (s.setGrid g x).tokens = s.tokens := rfl
@[simp] theorem State.setGrid_chanSeq : (s.setGrid g x).chanSeq = s.chanSeq := rfl
@[simp] theorem State.setGrid_chanOpen : (s.setGrid g x).chanOpen = s.chanOpen := rfl
@[simp] theorem State.setGrid_beacons : (s.setGrid g x).beacons = s.beacons := rfl
@[simp] theorem State.setGrid_nexts : (s.setGrid g x).nexts = s.nexts := rfl
@[simp] theorem State.setGrid_mem : (s.setGrid g x).mem = s.mem := rfl
@[simp] theorem State.setGrid_pois : (s.setGrid g x).pois = s.pois := rfl
@[simp] theorem State.setGrid_sram : (s.setGrid g x).sram = s.sram := rfl
@[simp] theorem State.setGrid_msc : (s.setGrid g x).msc = s.msc := rfl
@[simp] theorem State.setGrid_grans : (s.setGrid g x).grans = s.grans := rfl
@[simp] theorem State.setGrid_tlb : (s.setGrid g x).tlb = s.tlb := rfl
@[simp] theorem State.setGrid_code : (s.setGrid g x).code = s.code := rfl
@[simp] theorem State.setGrid_preqs : (s.setGrid g x).preqs = s.preqs := rfl
@[simp] theorem State.setGrid_copies : (s.setGrid g x).copies = s.copies := rfl
@[simp] theorem State.setGrid_xdmas : (s.setGrid g x).xdmas = s.xdmas := rfl
@[simp] theorem State.setGrid_saved : (s.setGrid g x).saved = s.saved := rfl
@[simp] theorem State.setGrid_images : (s.setGrid g x).images = s.images := rfl
@[simp] theorem State.setGrid_ctxs : (s.setGrid g x).ctxs = s.ctxs := rfl
@[simp] theorem State.setGrid_next : (s.setGrid g x).next = s.next := rfl
@[simp] theorem State.setGrid_ptime : (s.setGrid g x).ptime = s.ptime := rfl
@[simp] theorem State.setGrid_slew : (s.setGrid g x).slew = s.slew := rfl
@[simp] theorem State.setGrid_slewRem : (s.setGrid g x).slewRem = s.slewRem := rfl
@[simp] theorem State.setGrid_ioCyc : (s.setGrid g x).ioCyc = s.ioCyc := rfl
@[simp] theorem State.setGrid_qtbase : (s.setGrid g x).qtbase = s.qtbase := rfl
@[simp] theorem State.setGrid_qdoorbell : (s.setGrid g x).qdoorbell = s.qdoorbell := rfl
@[simp] theorem State.setGrid_qappend : (s.setGrid g x).qappend = s.qappend := rfl
@[simp] theorem State.setGrid_pmap : (s.setGrid g x).pmap = s.pmap := rfl
@[simp] theorem State.setGrid_tinv : (s.setGrid g x).tinv = s.tinv := rfl
@[simp] theorem State.setGrid_ctxtbase : (s.setGrid g x).ctxtbase = s.ctxtbase := rfl
@[simp] theorem State.setGrid_ctxcmd : (s.setGrid g x).ctxcmd = s.ctxcmd := rfl
@[simp] theorem State.setGrid_mcring : (s.setGrid g x).mcring = s.mcring := rfl
@[simp] theorem State.setGrid_mcidx : (s.setGrid g x).mcidx = s.mcidx := rfl
@[simp] theorem State.setGrid_evring : (s.setGrid g x).evring = s.evring := rfl
@[simp] theorem State.setGrid_evidx : (s.setGrid g x).evidx = s.evidx := rfl
@[simp] theorem State.setGrid_evseq : (s.setGrid g x).evseq = s.evseq := rfl
@[simp] theorem State.setGrid_terr : (s.setGrid g x).terr = s.terr := rfl
@[simp] theorem State.setGrid_ptpStamp : (s.setGrid g x).ptpStamp = s.ptpStamp := rfl
@[simp] theorem State.setGrid_links : (s.setGrid g x).links = s.links := rfl
@[simp] theorem State.setGrid_bar4 : (s.setGrid g x).bar4 = s.bar4 := rfl
@[simp] theorem State.setGrid_bridges : (s.setGrid g x).bridges = s.bridges := rfl
@[simp] theorem State.setGrid_mons : (s.setGrid g x).mons = s.mons := rfl
@[simp] theorem State.setGrid_peers : (s.setGrid g x).peers = s.peers := rfl
@[simp] theorem State.setGrid_tries : (s.setGrid g x).tries = s.tries := rfl
@[simp] theorem State.setGrid_sess : (s.setGrid g x).sess = s.sess := rfl
@[simp] theorem State.setGrid_signed : (s.setGrid g x).signed = s.signed := rfl
@[simp] theorem State.setGrid_ide : (s.setGrid g x).ide = s.ide := rfl
@[simp] theorem State.setGrid_fw : (s.setGrid g x).fw = s.fw := rfl
@[simp] theorem State.setGrid_out : (s.setGrid g x).out = s.out := rfl

end

/-! ### setCore -/

section
variable (s : State) (c : Nat) (x : CoreSt)

@[simp] theorem State.setCore_powered : (s.setCore c x).powered = s.powered := rfl
@[simp] theorem State.setCore_fatal : (s.setCore c x).fatal = s.fatal := rfl
@[simp] theorem State.setCore_cur : (s.setCore c x).cur = s.cur := rfl
@[simp] theorem State.setCore_free : (s.setCore c x).free = s.free := rfl
@[simp] theorem State.setCore_sched : (s.setCore c x).sched = s.sched := rfl
@[simp] theorem State.setCore_net : (s.setCore c x).net = s.net := rfl
@[simp] theorem State.setCore_sentAt : (s.setCore c x).sentAt = s.sentAt := rfl
@[simp] theorem State.setCore_cohorts : (s.setCore c x).cohorts = s.cohorts := rfl
@[simp] theorem State.setCore_blks : (s.setCore c x).blks = s.blks := rfl
@[simp] theorem State.setCore_grids : (s.setCore c x).grids = s.grids := rfl
@[simp] theorem State.setCore_queues : (s.setCore c x).queues = s.queues := rfl
@[simp] theorem State.setCore_cores : (s.setCore c x).cores = tput CoreSt.reset s.cores c x := rfl
@[simp] theorem State.setCore_dies : (s.setCore c x).dies = s.dies := rfl
@[simp] theorem State.setCore_lines : (s.setCore c x).lines = s.lines := rfl
@[simp] theorem State.setCore_dir : (s.setCore c x).dir = s.dir := rfl
@[simp] theorem State.setCore_defer : (s.setCore c x).defer = s.defer := rfl
@[simp] theorem State.setCore_tokens : (s.setCore c x).tokens = s.tokens := rfl
@[simp] theorem State.setCore_chanSeq : (s.setCore c x).chanSeq = s.chanSeq := rfl
@[simp] theorem State.setCore_chanOpen : (s.setCore c x).chanOpen = s.chanOpen := rfl
@[simp] theorem State.setCore_beacons : (s.setCore c x).beacons = s.beacons := rfl
@[simp] theorem State.setCore_nexts : (s.setCore c x).nexts = s.nexts := rfl
@[simp] theorem State.setCore_mem : (s.setCore c x).mem = s.mem := rfl
@[simp] theorem State.setCore_pois : (s.setCore c x).pois = s.pois := rfl
@[simp] theorem State.setCore_sram : (s.setCore c x).sram = s.sram := rfl
@[simp] theorem State.setCore_msc : (s.setCore c x).msc = s.msc := rfl
@[simp] theorem State.setCore_grans : (s.setCore c x).grans = s.grans := rfl
@[simp] theorem State.setCore_tlb : (s.setCore c x).tlb = s.tlb := rfl
@[simp] theorem State.setCore_code : (s.setCore c x).code = s.code := rfl
@[simp] theorem State.setCore_preqs : (s.setCore c x).preqs = s.preqs := rfl
@[simp] theorem State.setCore_copies : (s.setCore c x).copies = s.copies := rfl
@[simp] theorem State.setCore_xdmas : (s.setCore c x).xdmas = s.xdmas := rfl
@[simp] theorem State.setCore_saved : (s.setCore c x).saved = s.saved := rfl
@[simp] theorem State.setCore_images : (s.setCore c x).images = s.images := rfl
@[simp] theorem State.setCore_ctxs : (s.setCore c x).ctxs = s.ctxs := rfl
@[simp] theorem State.setCore_next : (s.setCore c x).next = s.next := rfl
@[simp] theorem State.setCore_ptime : (s.setCore c x).ptime = s.ptime := rfl
@[simp] theorem State.setCore_slew : (s.setCore c x).slew = s.slew := rfl
@[simp] theorem State.setCore_slewRem : (s.setCore c x).slewRem = s.slewRem := rfl
@[simp] theorem State.setCore_ioCyc : (s.setCore c x).ioCyc = s.ioCyc := rfl
@[simp] theorem State.setCore_qtbase : (s.setCore c x).qtbase = s.qtbase := rfl
@[simp] theorem State.setCore_qdoorbell : (s.setCore c x).qdoorbell = s.qdoorbell := rfl
@[simp] theorem State.setCore_qappend : (s.setCore c x).qappend = s.qappend := rfl
@[simp] theorem State.setCore_pmap : (s.setCore c x).pmap = s.pmap := rfl
@[simp] theorem State.setCore_tinv : (s.setCore c x).tinv = s.tinv := rfl
@[simp] theorem State.setCore_ctxtbase : (s.setCore c x).ctxtbase = s.ctxtbase := rfl
@[simp] theorem State.setCore_ctxcmd : (s.setCore c x).ctxcmd = s.ctxcmd := rfl
@[simp] theorem State.setCore_mcring : (s.setCore c x).mcring = s.mcring := rfl
@[simp] theorem State.setCore_mcidx : (s.setCore c x).mcidx = s.mcidx := rfl
@[simp] theorem State.setCore_evring : (s.setCore c x).evring = s.evring := rfl
@[simp] theorem State.setCore_evidx : (s.setCore c x).evidx = s.evidx := rfl
@[simp] theorem State.setCore_evseq : (s.setCore c x).evseq = s.evseq := rfl
@[simp] theorem State.setCore_terr : (s.setCore c x).terr = s.terr := rfl
@[simp] theorem State.setCore_ptpStamp : (s.setCore c x).ptpStamp = s.ptpStamp := rfl
@[simp] theorem State.setCore_links : (s.setCore c x).links = s.links := rfl
@[simp] theorem State.setCore_bar4 : (s.setCore c x).bar4 = s.bar4 := rfl
@[simp] theorem State.setCore_bridges : (s.setCore c x).bridges = s.bridges := rfl
@[simp] theorem State.setCore_mons : (s.setCore c x).mons = s.mons := rfl
@[simp] theorem State.setCore_peers : (s.setCore c x).peers = s.peers := rfl
@[simp] theorem State.setCore_tries : (s.setCore c x).tries = s.tries := rfl
@[simp] theorem State.setCore_sess : (s.setCore c x).sess = s.sess := rfl
@[simp] theorem State.setCore_signed : (s.setCore c x).signed = s.signed := rfl
@[simp] theorem State.setCore_ide : (s.setCore c x).ide = s.ide := rfl
@[simp] theorem State.setCore_fw : (s.setCore c x).fw = s.fw := rfl
@[simp] theorem State.setCore_out : (s.setCore c x).out = s.out := rfl

end

/-! ### setDie -/

section
variable (s : State) (d : Nat) (x : Die)

@[simp] theorem State.setDie_powered : (s.setDie d x).powered = s.powered := rfl
@[simp] theorem State.setDie_fatal : (s.setDie d x).fatal = s.fatal := rfl
@[simp] theorem State.setDie_cur : (s.setDie d x).cur = s.cur := rfl
@[simp] theorem State.setDie_free : (s.setDie d x).free = s.free := rfl
@[simp] theorem State.setDie_sched : (s.setDie d x).sched = s.sched := rfl
@[simp] theorem State.setDie_net : (s.setDie d x).net = s.net := rfl
@[simp] theorem State.setDie_sentAt : (s.setDie d x).sentAt = s.sentAt := rfl
@[simp] theorem State.setDie_cohorts : (s.setDie d x).cohorts = s.cohorts := rfl
@[simp] theorem State.setDie_blks : (s.setDie d x).blks = s.blks := rfl
@[simp] theorem State.setDie_grids : (s.setDie d x).grids = s.grids := rfl
@[simp] theorem State.setDie_queues : (s.setDie d x).queues = s.queues := rfl
@[simp] theorem State.setDie_cores : (s.setDie d x).cores = s.cores := rfl
@[simp] theorem State.setDie_dies : (s.setDie d x).dies = tput Die.reset s.dies d x := rfl
@[simp] theorem State.setDie_lines : (s.setDie d x).lines = s.lines := rfl
@[simp] theorem State.setDie_dir : (s.setDie d x).dir = s.dir := rfl
@[simp] theorem State.setDie_defer : (s.setDie d x).defer = s.defer := rfl
@[simp] theorem State.setDie_tokens : (s.setDie d x).tokens = s.tokens := rfl
@[simp] theorem State.setDie_chanSeq : (s.setDie d x).chanSeq = s.chanSeq := rfl
@[simp] theorem State.setDie_chanOpen : (s.setDie d x).chanOpen = s.chanOpen := rfl
@[simp] theorem State.setDie_beacons : (s.setDie d x).beacons = s.beacons := rfl
@[simp] theorem State.setDie_nexts : (s.setDie d x).nexts = s.nexts := rfl
@[simp] theorem State.setDie_mem : (s.setDie d x).mem = s.mem := rfl
@[simp] theorem State.setDie_pois : (s.setDie d x).pois = s.pois := rfl
@[simp] theorem State.setDie_sram : (s.setDie d x).sram = s.sram := rfl
@[simp] theorem State.setDie_msc : (s.setDie d x).msc = s.msc := rfl
@[simp] theorem State.setDie_grans : (s.setDie d x).grans = s.grans := rfl
@[simp] theorem State.setDie_tlb : (s.setDie d x).tlb = s.tlb := rfl
@[simp] theorem State.setDie_code : (s.setDie d x).code = s.code := rfl
@[simp] theorem State.setDie_preqs : (s.setDie d x).preqs = s.preqs := rfl
@[simp] theorem State.setDie_copies : (s.setDie d x).copies = s.copies := rfl
@[simp] theorem State.setDie_xdmas : (s.setDie d x).xdmas = s.xdmas := rfl
@[simp] theorem State.setDie_saved : (s.setDie d x).saved = s.saved := rfl
@[simp] theorem State.setDie_images : (s.setDie d x).images = s.images := rfl
@[simp] theorem State.setDie_ctxs : (s.setDie d x).ctxs = s.ctxs := rfl
@[simp] theorem State.setDie_next : (s.setDie d x).next = s.next := rfl
@[simp] theorem State.setDie_ptime : (s.setDie d x).ptime = s.ptime := rfl
@[simp] theorem State.setDie_slew : (s.setDie d x).slew = s.slew := rfl
@[simp] theorem State.setDie_slewRem : (s.setDie d x).slewRem = s.slewRem := rfl
@[simp] theorem State.setDie_ioCyc : (s.setDie d x).ioCyc = s.ioCyc := rfl
@[simp] theorem State.setDie_qtbase : (s.setDie d x).qtbase = s.qtbase := rfl
@[simp] theorem State.setDie_qdoorbell : (s.setDie d x).qdoorbell = s.qdoorbell := rfl
@[simp] theorem State.setDie_qappend : (s.setDie d x).qappend = s.qappend := rfl
@[simp] theorem State.setDie_pmap : (s.setDie d x).pmap = s.pmap := rfl
@[simp] theorem State.setDie_tinv : (s.setDie d x).tinv = s.tinv := rfl
@[simp] theorem State.setDie_ctxtbase : (s.setDie d x).ctxtbase = s.ctxtbase := rfl
@[simp] theorem State.setDie_ctxcmd : (s.setDie d x).ctxcmd = s.ctxcmd := rfl
@[simp] theorem State.setDie_mcring : (s.setDie d x).mcring = s.mcring := rfl
@[simp] theorem State.setDie_mcidx : (s.setDie d x).mcidx = s.mcidx := rfl
@[simp] theorem State.setDie_evring : (s.setDie d x).evring = s.evring := rfl
@[simp] theorem State.setDie_evidx : (s.setDie d x).evidx = s.evidx := rfl
@[simp] theorem State.setDie_evseq : (s.setDie d x).evseq = s.evseq := rfl
@[simp] theorem State.setDie_terr : (s.setDie d x).terr = s.terr := rfl
@[simp] theorem State.setDie_ptpStamp : (s.setDie d x).ptpStamp = s.ptpStamp := rfl
@[simp] theorem State.setDie_links : (s.setDie d x).links = s.links := rfl
@[simp] theorem State.setDie_bar4 : (s.setDie d x).bar4 = s.bar4 := rfl
@[simp] theorem State.setDie_bridges : (s.setDie d x).bridges = s.bridges := rfl
@[simp] theorem State.setDie_mons : (s.setDie d x).mons = s.mons := rfl
@[simp] theorem State.setDie_peers : (s.setDie d x).peers = s.peers := rfl
@[simp] theorem State.setDie_tries : (s.setDie d x).tries = s.tries := rfl
@[simp] theorem State.setDie_sess : (s.setDie d x).sess = s.sess := rfl
@[simp] theorem State.setDie_signed : (s.setDie d x).signed = s.signed := rfl
@[simp] theorem State.setDie_ide : (s.setDie d x).ide = s.ide := rfl
@[simp] theorem State.setDie_fw : (s.setDie d x).fw = s.fw := rfl
@[simp] theorem State.setDie_out : (s.setDie d x).out = s.out := rfl

end

/-! ### setCtx -/

section
variable (s : State) (c : Nat) (x : Ctx)

@[simp] theorem State.setCtx_powered : (s.setCtx c x).powered = s.powered := rfl
@[simp] theorem State.setCtx_fatal : (s.setCtx c x).fatal = s.fatal := rfl
@[simp] theorem State.setCtx_cur : (s.setCtx c x).cur = s.cur := rfl
@[simp] theorem State.setCtx_free : (s.setCtx c x).free = s.free := rfl
@[simp] theorem State.setCtx_sched : (s.setCtx c x).sched = s.sched := rfl
@[simp] theorem State.setCtx_net : (s.setCtx c x).net = s.net := rfl
@[simp] theorem State.setCtx_sentAt : (s.setCtx c x).sentAt = s.sentAt := rfl
@[simp] theorem State.setCtx_cohorts : (s.setCtx c x).cohorts = s.cohorts := rfl
@[simp] theorem State.setCtx_blks : (s.setCtx c x).blks = s.blks := rfl
@[simp] theorem State.setCtx_grids : (s.setCtx c x).grids = s.grids := rfl
@[simp] theorem State.setCtx_queues : (s.setCtx c x).queues = s.queues := rfl
@[simp] theorem State.setCtx_cores : (s.setCtx c x).cores = s.cores := rfl
@[simp] theorem State.setCtx_dies : (s.setCtx c x).dies = s.dies := rfl
@[simp] theorem State.setCtx_lines : (s.setCtx c x).lines = s.lines := rfl
@[simp] theorem State.setCtx_dir : (s.setCtx c x).dir = s.dir := rfl
@[simp] theorem State.setCtx_defer : (s.setCtx c x).defer = s.defer := rfl
@[simp] theorem State.setCtx_tokens : (s.setCtx c x).tokens = s.tokens := rfl
@[simp] theorem State.setCtx_chanSeq : (s.setCtx c x).chanSeq = s.chanSeq := rfl
@[simp] theorem State.setCtx_chanOpen : (s.setCtx c x).chanOpen = s.chanOpen := rfl
@[simp] theorem State.setCtx_beacons : (s.setCtx c x).beacons = s.beacons := rfl
@[simp] theorem State.setCtx_nexts : (s.setCtx c x).nexts = s.nexts := rfl
@[simp] theorem State.setCtx_mem : (s.setCtx c x).mem = s.mem := rfl
@[simp] theorem State.setCtx_pois : (s.setCtx c x).pois = s.pois := rfl
@[simp] theorem State.setCtx_sram : (s.setCtx c x).sram = s.sram := rfl
@[simp] theorem State.setCtx_msc : (s.setCtx c x).msc = s.msc := rfl
@[simp] theorem State.setCtx_grans : (s.setCtx c x).grans = s.grans := rfl
@[simp] theorem State.setCtx_tlb : (s.setCtx c x).tlb = s.tlb := rfl
@[simp] theorem State.setCtx_code : (s.setCtx c x).code = s.code := rfl
@[simp] theorem State.setCtx_preqs : (s.setCtx c x).preqs = s.preqs := rfl
@[simp] theorem State.setCtx_copies : (s.setCtx c x).copies = s.copies := rfl
@[simp] theorem State.setCtx_xdmas : (s.setCtx c x).xdmas = s.xdmas := rfl
@[simp] theorem State.setCtx_saved : (s.setCtx c x).saved = s.saved := rfl
@[simp] theorem State.setCtx_images : (s.setCtx c x).images = s.images := rfl
@[simp] theorem State.setCtx_ctxs : (s.setCtx c x).ctxs = tput Ctx.reset s.ctxs c x := rfl
@[simp] theorem State.setCtx_next : (s.setCtx c x).next = s.next := rfl
@[simp] theorem State.setCtx_ptime : (s.setCtx c x).ptime = s.ptime := rfl
@[simp] theorem State.setCtx_slew : (s.setCtx c x).slew = s.slew := rfl
@[simp] theorem State.setCtx_slewRem : (s.setCtx c x).slewRem = s.slewRem := rfl
@[simp] theorem State.setCtx_ioCyc : (s.setCtx c x).ioCyc = s.ioCyc := rfl
@[simp] theorem State.setCtx_qtbase : (s.setCtx c x).qtbase = s.qtbase := rfl
@[simp] theorem State.setCtx_qdoorbell : (s.setCtx c x).qdoorbell = s.qdoorbell := rfl
@[simp] theorem State.setCtx_qappend : (s.setCtx c x).qappend = s.qappend := rfl
@[simp] theorem State.setCtx_pmap : (s.setCtx c x).pmap = s.pmap := rfl
@[simp] theorem State.setCtx_tinv : (s.setCtx c x).tinv = s.tinv := rfl
@[simp] theorem State.setCtx_ctxtbase : (s.setCtx c x).ctxtbase = s.ctxtbase := rfl
@[simp] theorem State.setCtx_ctxcmd : (s.setCtx c x).ctxcmd = s.ctxcmd := rfl
@[simp] theorem State.setCtx_mcring : (s.setCtx c x).mcring = s.mcring := rfl
@[simp] theorem State.setCtx_mcidx : (s.setCtx c x).mcidx = s.mcidx := rfl
@[simp] theorem State.setCtx_evring : (s.setCtx c x).evring = s.evring := rfl
@[simp] theorem State.setCtx_evidx : (s.setCtx c x).evidx = s.evidx := rfl
@[simp] theorem State.setCtx_evseq : (s.setCtx c x).evseq = s.evseq := rfl
@[simp] theorem State.setCtx_terr : (s.setCtx c x).terr = s.terr := rfl
@[simp] theorem State.setCtx_ptpStamp : (s.setCtx c x).ptpStamp = s.ptpStamp := rfl
@[simp] theorem State.setCtx_links : (s.setCtx c x).links = s.links := rfl
@[simp] theorem State.setCtx_bar4 : (s.setCtx c x).bar4 = s.bar4 := rfl
@[simp] theorem State.setCtx_bridges : (s.setCtx c x).bridges = s.bridges := rfl
@[simp] theorem State.setCtx_mons : (s.setCtx c x).mons = s.mons := rfl
@[simp] theorem State.setCtx_peers : (s.setCtx c x).peers = s.peers := rfl
@[simp] theorem State.setCtx_tries : (s.setCtx c x).tries = s.tries := rfl
@[simp] theorem State.setCtx_sess : (s.setCtx c x).sess = s.sess := rfl
@[simp] theorem State.setCtx_signed : (s.setCtx c x).signed = s.signed := rfl
@[simp] theorem State.setCtx_ide : (s.setCtx c x).ide = s.ide := rfl
@[simp] theorem State.setCtx_fw : (s.setCtx c x).fw = s.fw := rfl
@[simp] theorem State.setCtx_out : (s.setCtx c x).out = s.out := rfl

end

/-! ### setDir -/

section
variable (s : State) (l : Nat) (x : DirEnt)

@[simp] theorem State.setDir_powered : (s.setDir l x).powered = s.powered := rfl
@[simp] theorem State.setDir_fatal : (s.setDir l x).fatal = s.fatal := rfl
@[simp] theorem State.setDir_cur : (s.setDir l x).cur = s.cur := rfl
@[simp] theorem State.setDir_free : (s.setDir l x).free = s.free := rfl
@[simp] theorem State.setDir_sched : (s.setDir l x).sched = s.sched := rfl
@[simp] theorem State.setDir_net : (s.setDir l x).net = s.net := rfl
@[simp] theorem State.setDir_sentAt : (s.setDir l x).sentAt = s.sentAt := rfl
@[simp] theorem State.setDir_cohorts : (s.setDir l x).cohorts = s.cohorts := rfl
@[simp] theorem State.setDir_blks : (s.setDir l x).blks = s.blks := rfl
@[simp] theorem State.setDir_grids : (s.setDir l x).grids = s.grids := rfl
@[simp] theorem State.setDir_queues : (s.setDir l x).queues = s.queues := rfl
@[simp] theorem State.setDir_cores : (s.setDir l x).cores = s.cores := rfl
@[simp] theorem State.setDir_dies : (s.setDir l x).dies = s.dies := rfl
@[simp] theorem State.setDir_lines : (s.setDir l x).lines = s.lines := rfl
@[simp] theorem State.setDir_dir : (s.setDir l x).dir = tput DirEnt.none s.dir l x := rfl
@[simp] theorem State.setDir_defer : (s.setDir l x).defer = s.defer := rfl
@[simp] theorem State.setDir_tokens : (s.setDir l x).tokens = s.tokens := rfl
@[simp] theorem State.setDir_chanSeq : (s.setDir l x).chanSeq = s.chanSeq := rfl
@[simp] theorem State.setDir_chanOpen : (s.setDir l x).chanOpen = s.chanOpen := rfl
@[simp] theorem State.setDir_beacons : (s.setDir l x).beacons = s.beacons := rfl
@[simp] theorem State.setDir_nexts : (s.setDir l x).nexts = s.nexts := rfl
@[simp] theorem State.setDir_mem : (s.setDir l x).mem = s.mem := rfl
@[simp] theorem State.setDir_pois : (s.setDir l x).pois = s.pois := rfl
@[simp] theorem State.setDir_sram : (s.setDir l x).sram = s.sram := rfl
@[simp] theorem State.setDir_msc : (s.setDir l x).msc = s.msc := rfl
@[simp] theorem State.setDir_grans : (s.setDir l x).grans = s.grans := rfl
@[simp] theorem State.setDir_tlb : (s.setDir l x).tlb = s.tlb := rfl
@[simp] theorem State.setDir_code : (s.setDir l x).code = s.code := rfl
@[simp] theorem State.setDir_preqs : (s.setDir l x).preqs = s.preqs := rfl
@[simp] theorem State.setDir_copies : (s.setDir l x).copies = s.copies := rfl
@[simp] theorem State.setDir_xdmas : (s.setDir l x).xdmas = s.xdmas := rfl
@[simp] theorem State.setDir_saved : (s.setDir l x).saved = s.saved := rfl
@[simp] theorem State.setDir_images : (s.setDir l x).images = s.images := rfl
@[simp] theorem State.setDir_ctxs : (s.setDir l x).ctxs = s.ctxs := rfl
@[simp] theorem State.setDir_next : (s.setDir l x).next = s.next := rfl
@[simp] theorem State.setDir_ptime : (s.setDir l x).ptime = s.ptime := rfl
@[simp] theorem State.setDir_slew : (s.setDir l x).slew = s.slew := rfl
@[simp] theorem State.setDir_slewRem : (s.setDir l x).slewRem = s.slewRem := rfl
@[simp] theorem State.setDir_ioCyc : (s.setDir l x).ioCyc = s.ioCyc := rfl
@[simp] theorem State.setDir_qtbase : (s.setDir l x).qtbase = s.qtbase := rfl
@[simp] theorem State.setDir_qdoorbell : (s.setDir l x).qdoorbell = s.qdoorbell := rfl
@[simp] theorem State.setDir_qappend : (s.setDir l x).qappend = s.qappend := rfl
@[simp] theorem State.setDir_pmap : (s.setDir l x).pmap = s.pmap := rfl
@[simp] theorem State.setDir_tinv : (s.setDir l x).tinv = s.tinv := rfl
@[simp] theorem State.setDir_ctxtbase : (s.setDir l x).ctxtbase = s.ctxtbase := rfl
@[simp] theorem State.setDir_ctxcmd : (s.setDir l x).ctxcmd = s.ctxcmd := rfl
@[simp] theorem State.setDir_mcring : (s.setDir l x).mcring = s.mcring := rfl
@[simp] theorem State.setDir_mcidx : (s.setDir l x).mcidx = s.mcidx := rfl
@[simp] theorem State.setDir_evring : (s.setDir l x).evring = s.evring := rfl
@[simp] theorem State.setDir_evidx : (s.setDir l x).evidx = s.evidx := rfl
@[simp] theorem State.setDir_evseq : (s.setDir l x).evseq = s.evseq := rfl
@[simp] theorem State.setDir_terr : (s.setDir l x).terr = s.terr := rfl
@[simp] theorem State.setDir_ptpStamp : (s.setDir l x).ptpStamp = s.ptpStamp := rfl
@[simp] theorem State.setDir_links : (s.setDir l x).links = s.links := rfl
@[simp] theorem State.setDir_bar4 : (s.setDir l x).bar4 = s.bar4 := rfl
@[simp] theorem State.setDir_bridges : (s.setDir l x).bridges = s.bridges := rfl
@[simp] theorem State.setDir_mons : (s.setDir l x).mons = s.mons := rfl
@[simp] theorem State.setDir_peers : (s.setDir l x).peers = s.peers := rfl
@[simp] theorem State.setDir_tries : (s.setDir l x).tries = s.tries := rfl
@[simp] theorem State.setDir_sess : (s.setDir l x).sess = s.sess := rfl
@[simp] theorem State.setDir_signed : (s.setDir l x).signed = s.signed := rfl
@[simp] theorem State.setDir_ide : (s.setDir l x).ide = s.ide := rfl
@[simp] theorem State.setDir_fw : (s.setDir l x).fw = s.fw := rfl
@[simp] theorem State.setDir_out : (s.setDir l x).out = s.out := rfl

end

/-! ### setLc -/

section
variable (s : State) (core line : Nat) (e : LcEnt)

@[simp] theorem State.setLc_powered : (s.setLc core line e).powered = s.powered := rfl
@[simp] theorem State.setLc_fatal : (s.setLc core line e).fatal = s.fatal := rfl
@[simp] theorem State.setLc_cur : (s.setLc core line e).cur = s.cur := rfl
@[simp] theorem State.setLc_free : (s.setLc core line e).free = s.free := rfl
@[simp] theorem State.setLc_sched : (s.setLc core line e).sched = s.sched := rfl
@[simp] theorem State.setLc_net : (s.setLc core line e).net = s.net := rfl
@[simp] theorem State.setLc_sentAt : (s.setLc core line e).sentAt = s.sentAt := rfl
@[simp] theorem State.setLc_cohorts : (s.setLc core line e).cohorts = s.cohorts := rfl
@[simp] theorem State.setLc_blks : (s.setLc core line e).blks = s.blks := rfl
@[simp] theorem State.setLc_grids : (s.setLc core line e).grids = s.grids := rfl
@[simp] theorem State.setLc_queues : (s.setLc core line e).queues = s.queues := rfl
@[simp] theorem State.setLc_cores : (s.setLc core line e).cores = s.cores := rfl
@[simp] theorem State.setLc_dies : (s.setLc core line e).dies = s.dies := rfl
@[simp] theorem State.setLc_lines : (s.setLc core line e).lines = tput LcEnt.none s.lines (lineKey core line) e := rfl
@[simp] theorem State.setLc_dir : (s.setLc core line e).dir = s.dir := rfl
@[simp] theorem State.setLc_defer : (s.setLc core line e).defer = s.defer := rfl
@[simp] theorem State.setLc_tokens : (s.setLc core line e).tokens = s.tokens := rfl
@[simp] theorem State.setLc_chanSeq : (s.setLc core line e).chanSeq = s.chanSeq := rfl
@[simp] theorem State.setLc_chanOpen : (s.setLc core line e).chanOpen = s.chanOpen := rfl
@[simp] theorem State.setLc_beacons : (s.setLc core line e).beacons = s.beacons := rfl
@[simp] theorem State.setLc_nexts : (s.setLc core line e).nexts = s.nexts := rfl
@[simp] theorem State.setLc_mem : (s.setLc core line e).mem = s.mem := rfl
@[simp] theorem State.setLc_pois : (s.setLc core line e).pois = s.pois := rfl
@[simp] theorem State.setLc_sram : (s.setLc core line e).sram = s.sram := rfl
@[simp] theorem State.setLc_msc : (s.setLc core line e).msc = s.msc := rfl
@[simp] theorem State.setLc_grans : (s.setLc core line e).grans = s.grans := rfl
@[simp] theorem State.setLc_tlb : (s.setLc core line e).tlb = s.tlb := rfl
@[simp] theorem State.setLc_code : (s.setLc core line e).code = s.code := rfl
@[simp] theorem State.setLc_preqs : (s.setLc core line e).preqs = s.preqs := rfl
@[simp] theorem State.setLc_copies : (s.setLc core line e).copies = s.copies := rfl
@[simp] theorem State.setLc_xdmas : (s.setLc core line e).xdmas = s.xdmas := rfl
@[simp] theorem State.setLc_saved : (s.setLc core line e).saved = s.saved := rfl
@[simp] theorem State.setLc_images : (s.setLc core line e).images = s.images := rfl
@[simp] theorem State.setLc_ctxs : (s.setLc core line e).ctxs = s.ctxs := rfl
@[simp] theorem State.setLc_next : (s.setLc core line e).next = s.next := rfl
@[simp] theorem State.setLc_ptime : (s.setLc core line e).ptime = s.ptime := rfl
@[simp] theorem State.setLc_slew : (s.setLc core line e).slew = s.slew := rfl
@[simp] theorem State.setLc_slewRem : (s.setLc core line e).slewRem = s.slewRem := rfl
@[simp] theorem State.setLc_ioCyc : (s.setLc core line e).ioCyc = s.ioCyc := rfl
@[simp] theorem State.setLc_qtbase : (s.setLc core line e).qtbase = s.qtbase := rfl
@[simp] theorem State.setLc_qdoorbell : (s.setLc core line e).qdoorbell = s.qdoorbell := rfl
@[simp] theorem State.setLc_qappend : (s.setLc core line e).qappend = s.qappend := rfl
@[simp] theorem State.setLc_pmap : (s.setLc core line e).pmap = s.pmap := rfl
@[simp] theorem State.setLc_tinv : (s.setLc core line e).tinv = s.tinv := rfl
@[simp] theorem State.setLc_ctxtbase : (s.setLc core line e).ctxtbase = s.ctxtbase := rfl
@[simp] theorem State.setLc_ctxcmd : (s.setLc core line e).ctxcmd = s.ctxcmd := rfl
@[simp] theorem State.setLc_mcring : (s.setLc core line e).mcring = s.mcring := rfl
@[simp] theorem State.setLc_mcidx : (s.setLc core line e).mcidx = s.mcidx := rfl
@[simp] theorem State.setLc_evring : (s.setLc core line e).evring = s.evring := rfl
@[simp] theorem State.setLc_evidx : (s.setLc core line e).evidx = s.evidx := rfl
@[simp] theorem State.setLc_evseq : (s.setLc core line e).evseq = s.evseq := rfl
@[simp] theorem State.setLc_terr : (s.setLc core line e).terr = s.terr := rfl
@[simp] theorem State.setLc_ptpStamp : (s.setLc core line e).ptpStamp = s.ptpStamp := rfl
@[simp] theorem State.setLc_links : (s.setLc core line e).links = s.links := rfl
@[simp] theorem State.setLc_bar4 : (s.setLc core line e).bar4 = s.bar4 := rfl
@[simp] theorem State.setLc_bridges : (s.setLc core line e).bridges = s.bridges := rfl
@[simp] theorem State.setLc_mons : (s.setLc core line e).mons = s.mons := rfl
@[simp] theorem State.setLc_peers : (s.setLc core line e).peers = s.peers := rfl
@[simp] theorem State.setLc_tries : (s.setLc core line e).tries = s.tries := rfl
@[simp] theorem State.setLc_sess : (s.setLc core line e).sess = s.sess := rfl
@[simp] theorem State.setLc_signed : (s.setLc core line e).signed = s.signed := rfl
@[simp] theorem State.setLc_ide : (s.setLc core line e).ide = s.ide := rfl
@[simp] theorem State.setLc_fw : (s.setLc core line e).fw = s.fw := rfl
@[simp] theorem State.setLc_out : (s.setLc core line e).out = s.out := rfl

end

/-! ### send -/

section
variable (s : State) (m : Instr)

@[simp] theorem State.send_powered : (s.send m).powered = s.powered := rfl
@[simp] theorem State.send_fatal : (s.send m).fatal = s.fatal := rfl
@[simp] theorem State.send_cur : (s.send m).cur = s.cur := rfl
@[simp] theorem State.send_free : (s.send m).free = s.free := rfl
@[simp] theorem State.send_sched : (s.send m).sched = s.sched := rfl
@[simp] theorem State.send_net : (s.send m).net = s.net ++ [m] := rfl
@[simp] theorem State.send_sentAt : (s.send m).sentAt = s.sentAt ++ [s.ptime] := rfl
@[simp] theorem State.send_cohorts : (s.send m).cohorts = s.cohorts := rfl
@[simp] theorem State.send_blks : (s.send m).blks = s.blks := rfl
@[simp] theorem State.send_grids : (s.send m).grids = s.grids := rfl
@[simp] theorem State.send_queues : (s.send m).queues = s.queues := rfl
@[simp] theorem State.send_cores : (s.send m).cores = s.cores := rfl
@[simp] theorem State.send_dies : (s.send m).dies = s.dies := rfl
@[simp] theorem State.send_lines : (s.send m).lines = s.lines := rfl
@[simp] theorem State.send_dir : (s.send m).dir = s.dir := rfl
@[simp] theorem State.send_defer : (s.send m).defer = s.defer := rfl
@[simp] theorem State.send_tokens : (s.send m).tokens = s.tokens := rfl
@[simp] theorem State.send_chanSeq : (s.send m).chanSeq = s.chanSeq := rfl
@[simp] theorem State.send_chanOpen : (s.send m).chanOpen = s.chanOpen := rfl
@[simp] theorem State.send_beacons : (s.send m).beacons = s.beacons := rfl
@[simp] theorem State.send_nexts : (s.send m).nexts = s.nexts := rfl
@[simp] theorem State.send_mem : (s.send m).mem = s.mem := rfl
@[simp] theorem State.send_pois : (s.send m).pois = s.pois := rfl
@[simp] theorem State.send_sram : (s.send m).sram = s.sram := rfl
@[simp] theorem State.send_msc : (s.send m).msc = s.msc := rfl
@[simp] theorem State.send_grans : (s.send m).grans = s.grans := rfl
@[simp] theorem State.send_tlb : (s.send m).tlb = s.tlb := rfl
@[simp] theorem State.send_code : (s.send m).code = s.code := rfl
@[simp] theorem State.send_preqs : (s.send m).preqs = s.preqs := rfl
@[simp] theorem State.send_copies : (s.send m).copies = s.copies := rfl
@[simp] theorem State.send_xdmas : (s.send m).xdmas = s.xdmas := rfl
@[simp] theorem State.send_saved : (s.send m).saved = s.saved := rfl
@[simp] theorem State.send_images : (s.send m).images = s.images := rfl
@[simp] theorem State.send_ctxs : (s.send m).ctxs = s.ctxs := rfl
@[simp] theorem State.send_next : (s.send m).next = s.next := rfl
@[simp] theorem State.send_ptime : (s.send m).ptime = s.ptime := rfl
@[simp] theorem State.send_slew : (s.send m).slew = s.slew := rfl
@[simp] theorem State.send_slewRem : (s.send m).slewRem = s.slewRem := rfl
@[simp] theorem State.send_ioCyc : (s.send m).ioCyc = s.ioCyc := rfl
@[simp] theorem State.send_qtbase : (s.send m).qtbase = s.qtbase := rfl
@[simp] theorem State.send_qdoorbell : (s.send m).qdoorbell = s.qdoorbell := rfl
@[simp] theorem State.send_qappend : (s.send m).qappend = s.qappend := rfl
@[simp] theorem State.send_pmap : (s.send m).pmap = s.pmap := rfl
@[simp] theorem State.send_tinv : (s.send m).tinv = s.tinv := rfl
@[simp] theorem State.send_ctxtbase : (s.send m).ctxtbase = s.ctxtbase := rfl
@[simp] theorem State.send_ctxcmd : (s.send m).ctxcmd = s.ctxcmd := rfl
@[simp] theorem State.send_mcring : (s.send m).mcring = s.mcring := rfl
@[simp] theorem State.send_mcidx : (s.send m).mcidx = s.mcidx := rfl
@[simp] theorem State.send_evring : (s.send m).evring = s.evring := rfl
@[simp] theorem State.send_evidx : (s.send m).evidx = s.evidx := rfl
@[simp] theorem State.send_evseq : (s.send m).evseq = s.evseq := rfl
@[simp] theorem State.send_terr : (s.send m).terr = s.terr := rfl
@[simp] theorem State.send_ptpStamp : (s.send m).ptpStamp = s.ptpStamp := rfl
@[simp] theorem State.send_links : (s.send m).links = s.links := rfl
@[simp] theorem State.send_bar4 : (s.send m).bar4 = s.bar4 := rfl
@[simp] theorem State.send_bridges : (s.send m).bridges = s.bridges := rfl
@[simp] theorem State.send_mons : (s.send m).mons = s.mons := rfl
@[simp] theorem State.send_peers : (s.send m).peers = s.peers := rfl
@[simp] theorem State.send_tries : (s.send m).tries = s.tries := rfl
@[simp] theorem State.send_sess : (s.send m).sess = s.sess := rfl
@[simp] theorem State.send_signed : (s.send m).signed = s.signed := rfl
@[simp] theorem State.send_ide : (s.send m).ide = s.ide := rfl
@[simp] theorem State.send_fw : (s.send m).fw = s.fw := rfl
@[simp] theorem State.send_out : (s.send m).out = s.out := rfl

end

/-! ### emit -/

section
variable (s : State) (o : Out)

@[simp] theorem State.emit_powered : (s.emit o).powered = s.powered := rfl
@[simp] theorem State.emit_fatal : (s.emit o).fatal = s.fatal := rfl
@[simp] theorem State.emit_cur : (s.emit o).cur = s.cur := rfl
@[simp] theorem State.emit_free : (s.emit o).free = s.free := rfl
@[simp] theorem State.emit_sched : (s.emit o).sched = s.sched := rfl
@[simp] theorem State.emit_net : (s.emit o).net = s.net := rfl
@[simp] theorem State.emit_sentAt : (s.emit o).sentAt = s.sentAt := rfl
@[simp] theorem State.emit_cohorts : (s.emit o).cohorts = s.cohorts := rfl
@[simp] theorem State.emit_blks : (s.emit o).blks = s.blks := rfl
@[simp] theorem State.emit_grids : (s.emit o).grids = s.grids := rfl
@[simp] theorem State.emit_queues : (s.emit o).queues = s.queues := rfl
@[simp] theorem State.emit_cores : (s.emit o).cores = s.cores := rfl
@[simp] theorem State.emit_dies : (s.emit o).dies = s.dies := rfl
@[simp] theorem State.emit_lines : (s.emit o).lines = s.lines := rfl
@[simp] theorem State.emit_dir : (s.emit o).dir = s.dir := rfl
@[simp] theorem State.emit_defer : (s.emit o).defer = s.defer := rfl
@[simp] theorem State.emit_tokens : (s.emit o).tokens = s.tokens := rfl
@[simp] theorem State.emit_chanSeq : (s.emit o).chanSeq = s.chanSeq := rfl
@[simp] theorem State.emit_chanOpen : (s.emit o).chanOpen = s.chanOpen := rfl
@[simp] theorem State.emit_beacons : (s.emit o).beacons = s.beacons := rfl
@[simp] theorem State.emit_nexts : (s.emit o).nexts = s.nexts := rfl
@[simp] theorem State.emit_mem : (s.emit o).mem = s.mem := rfl
@[simp] theorem State.emit_pois : (s.emit o).pois = s.pois := rfl
@[simp] theorem State.emit_sram : (s.emit o).sram = s.sram := rfl
@[simp] theorem State.emit_msc : (s.emit o).msc = s.msc := rfl
@[simp] theorem State.emit_grans : (s.emit o).grans = s.grans := rfl
@[simp] theorem State.emit_tlb : (s.emit o).tlb = s.tlb := rfl
@[simp] theorem State.emit_code : (s.emit o).code = s.code := rfl
@[simp] theorem State.emit_preqs : (s.emit o).preqs = s.preqs := rfl
@[simp] theorem State.emit_copies : (s.emit o).copies = s.copies := rfl
@[simp] theorem State.emit_xdmas : (s.emit o).xdmas = s.xdmas := rfl
@[simp] theorem State.emit_saved : (s.emit o).saved = s.saved := rfl
@[simp] theorem State.emit_images : (s.emit o).images = s.images := rfl
@[simp] theorem State.emit_ctxs : (s.emit o).ctxs = s.ctxs := rfl
@[simp] theorem State.emit_next : (s.emit o).next = s.next := rfl
@[simp] theorem State.emit_ptime : (s.emit o).ptime = s.ptime := rfl
@[simp] theorem State.emit_slew : (s.emit o).slew = s.slew := rfl
@[simp] theorem State.emit_slewRem : (s.emit o).slewRem = s.slewRem := rfl
@[simp] theorem State.emit_ioCyc : (s.emit o).ioCyc = s.ioCyc := rfl
@[simp] theorem State.emit_qtbase : (s.emit o).qtbase = s.qtbase := rfl
@[simp] theorem State.emit_qdoorbell : (s.emit o).qdoorbell = s.qdoorbell := rfl
@[simp] theorem State.emit_qappend : (s.emit o).qappend = s.qappend := rfl
@[simp] theorem State.emit_pmap : (s.emit o).pmap = s.pmap := rfl
@[simp] theorem State.emit_tinv : (s.emit o).tinv = s.tinv := rfl
@[simp] theorem State.emit_ctxtbase : (s.emit o).ctxtbase = s.ctxtbase := rfl
@[simp] theorem State.emit_ctxcmd : (s.emit o).ctxcmd = s.ctxcmd := rfl
@[simp] theorem State.emit_mcring : (s.emit o).mcring = s.mcring := rfl
@[simp] theorem State.emit_mcidx : (s.emit o).mcidx = s.mcidx := rfl
@[simp] theorem State.emit_evring : (s.emit o).evring = s.evring := rfl
@[simp] theorem State.emit_evidx : (s.emit o).evidx = s.evidx := rfl
@[simp] theorem State.emit_evseq : (s.emit o).evseq = s.evseq := rfl
@[simp] theorem State.emit_terr : (s.emit o).terr = s.terr := rfl
@[simp] theorem State.emit_ptpStamp : (s.emit o).ptpStamp = s.ptpStamp := rfl
@[simp] theorem State.emit_links : (s.emit o).links = s.links := rfl
@[simp] theorem State.emit_bar4 : (s.emit o).bar4 = s.bar4 := rfl
@[simp] theorem State.emit_bridges : (s.emit o).bridges = s.bridges := rfl
@[simp] theorem State.emit_mons : (s.emit o).mons = s.mons := rfl
@[simp] theorem State.emit_peers : (s.emit o).peers = s.peers := rfl
@[simp] theorem State.emit_tries : (s.emit o).tries = s.tries := rfl
@[simp] theorem State.emit_sess : (s.emit o).sess = s.sess := rfl
@[simp] theorem State.emit_signed : (s.emit o).signed = s.signed := rfl
@[simp] theorem State.emit_ide : (s.emit o).ide = s.ide := rfl
@[simp] theorem State.emit_fw : (s.emit o).fw = s.fw := rfl
@[simp] theorem State.emit_out : (s.emit o).out = s.out ++ [o] := rfl

end

/-! ### setByte -/

section
variable (s : State) (k : Nat) (b : Byte)

@[simp] theorem State.setByte_powered : (s.setByte k b).powered = s.powered := rfl
@[simp] theorem State.setByte_fatal : (s.setByte k b).fatal = s.fatal := rfl
@[simp] theorem State.setByte_cur : (s.setByte k b).cur = s.cur := rfl
@[simp] theorem State.setByte_free : (s.setByte k b).free = s.free := rfl
@[simp] theorem State.setByte_sched : (s.setByte k b).sched = s.sched := rfl
@[simp] theorem State.setByte_net : (s.setByte k b).net = s.net := rfl
@[simp] theorem State.setByte_sentAt : (s.setByte k b).sentAt = s.sentAt := rfl
@[simp] theorem State.setByte_cohorts : (s.setByte k b).cohorts = s.cohorts := rfl
@[simp] theorem State.setByte_blks : (s.setByte k b).blks = s.blks := rfl
@[simp] theorem State.setByte_grids : (s.setByte k b).grids = s.grids := rfl
@[simp] theorem State.setByte_queues : (s.setByte k b).queues = s.queues := rfl
@[simp] theorem State.setByte_cores : (s.setByte k b).cores = s.cores := rfl
@[simp] theorem State.setByte_dies : (s.setByte k b).dies = s.dies := rfl
@[simp] theorem State.setByte_lines : (s.setByte k b).lines = s.lines := rfl
@[simp] theorem State.setByte_dir : (s.setByte k b).dir = s.dir := rfl
@[simp] theorem State.setByte_defer : (s.setByte k b).defer = s.defer := rfl
@[simp] theorem State.setByte_tokens : (s.setByte k b).tokens = terase s.tokens k := rfl
@[simp] theorem State.setByte_chanSeq : (s.setByte k b).chanSeq = s.chanSeq := rfl
@[simp] theorem State.setByte_chanOpen : (s.setByte k b).chanOpen = s.chanOpen := rfl
@[simp] theorem State.setByte_beacons : (s.setByte k b).beacons = s.beacons := rfl
@[simp] theorem State.setByte_nexts : (s.setByte k b).nexts = s.nexts := rfl
@[simp] theorem State.setByte_mem : (s.setByte k b).mem = tput 0 s.mem k b := rfl
@[simp] theorem State.setByte_pois : (s.setByte k b).pois = s.pois := rfl
@[simp] theorem State.setByte_sram : (s.setByte k b).sram = s.sram := rfl
@[simp] theorem State.setByte_msc : (s.setByte k b).msc = s.msc := rfl
@[simp] theorem State.setByte_grans : (s.setByte k b).grans = s.grans := rfl
@[simp] theorem State.setByte_tlb : (s.setByte k b).tlb = s.tlb := rfl
@[simp] theorem State.setByte_code : (s.setByte k b).code = s.code := rfl
@[simp] theorem State.setByte_preqs : (s.setByte k b).preqs = s.preqs := rfl
@[simp] theorem State.setByte_copies : (s.setByte k b).copies = s.copies := rfl
@[simp] theorem State.setByte_xdmas : (s.setByte k b).xdmas = s.xdmas := rfl
@[simp] theorem State.setByte_saved : (s.setByte k b).saved = s.saved := rfl
@[simp] theorem State.setByte_images : (s.setByte k b).images = s.images := rfl
@[simp] theorem State.setByte_ctxs : (s.setByte k b).ctxs = s.ctxs := rfl
@[simp] theorem State.setByte_next : (s.setByte k b).next = s.next := rfl
@[simp] theorem State.setByte_ptime : (s.setByte k b).ptime = s.ptime := rfl
@[simp] theorem State.setByte_slew : (s.setByte k b).slew = s.slew := rfl
@[simp] theorem State.setByte_slewRem : (s.setByte k b).slewRem = s.slewRem := rfl
@[simp] theorem State.setByte_ioCyc : (s.setByte k b).ioCyc = s.ioCyc := rfl
@[simp] theorem State.setByte_qtbase : (s.setByte k b).qtbase = s.qtbase := rfl
@[simp] theorem State.setByte_qdoorbell : (s.setByte k b).qdoorbell = s.qdoorbell := rfl
@[simp] theorem State.setByte_qappend : (s.setByte k b).qappend = s.qappend := rfl
@[simp] theorem State.setByte_pmap : (s.setByte k b).pmap = s.pmap := rfl
@[simp] theorem State.setByte_tinv : (s.setByte k b).tinv = s.tinv := rfl
@[simp] theorem State.setByte_ctxtbase : (s.setByte k b).ctxtbase = s.ctxtbase := rfl
@[simp] theorem State.setByte_ctxcmd : (s.setByte k b).ctxcmd = s.ctxcmd := rfl
@[simp] theorem State.setByte_mcring : (s.setByte k b).mcring = s.mcring := rfl
@[simp] theorem State.setByte_mcidx : (s.setByte k b).mcidx = s.mcidx := rfl
@[simp] theorem State.setByte_evring : (s.setByte k b).evring = s.evring := rfl
@[simp] theorem State.setByte_evidx : (s.setByte k b).evidx = s.evidx := rfl
@[simp] theorem State.setByte_evseq : (s.setByte k b).evseq = s.evseq := rfl
@[simp] theorem State.setByte_terr : (s.setByte k b).terr = s.terr := rfl
@[simp] theorem State.setByte_ptpStamp : (s.setByte k b).ptpStamp = s.ptpStamp := rfl
@[simp] theorem State.setByte_links : (s.setByte k b).links = s.links := rfl
@[simp] theorem State.setByte_bar4 : (s.setByte k b).bar4 = s.bar4 := rfl
@[simp] theorem State.setByte_bridges : (s.setByte k b).bridges = s.bridges := rfl
@[simp] theorem State.setByte_mons : (s.setByte k b).mons = s.mons := rfl
@[simp] theorem State.setByte_peers : (s.setByte k b).peers = s.peers := rfl
@[simp] theorem State.setByte_tries : (s.setByte k b).tries = s.tries := rfl
@[simp] theorem State.setByte_sess : (s.setByte k b).sess = s.sess := rfl
@[simp] theorem State.setByte_signed : (s.setByte k b).signed = s.signed := rfl
@[simp] theorem State.setByte_ide : (s.setByte k b).ide = s.ide := rfl
@[simp] theorem State.setByte_fw : (s.setByte k b).fw = s.fw := rfl
@[simp] theorem State.setByte_out : (s.setByte k b).out = s.out := rfl

end

/-! ### setPoison -/

section
variable (s : State) (l : Nat) (b : Bool)

@[simp] theorem State.setPoison_powered : (s.setPoison l b).powered = s.powered := rfl
@[simp] theorem State.setPoison_fatal : (s.setPoison l b).fatal = s.fatal := rfl
@[simp] theorem State.setPoison_cur : (s.setPoison l b).cur = s.cur := rfl
@[simp] theorem State.setPoison_free : (s.setPoison l b).free = s.free := rfl
@[simp] theorem State.setPoison_sched : (s.setPoison l b).sched = s.sched := rfl
@[simp] theorem State.setPoison_net : (s.setPoison l b).net = s.net := rfl
@[simp] theorem State.setPoison_sentAt : (s.setPoison l b).sentAt = s.sentAt := rfl
@[simp] theorem State.setPoison_cohorts : (s.setPoison l b).cohorts = s.cohorts := rfl
@[simp] theorem State.setPoison_blks : (s.setPoison l b).blks = s.blks := rfl
@[simp] theorem State.setPoison_grids : (s.setPoison l b).grids = s.grids := rfl
@[simp] theorem State.setPoison_queues : (s.setPoison l b).queues = s.queues := rfl
@[simp] theorem State.setPoison_cores : (s.setPoison l b).cores = s.cores := rfl
@[simp] theorem State.setPoison_dies : (s.setPoison l b).dies = s.dies := rfl
@[simp] theorem State.setPoison_lines : (s.setPoison l b).lines = s.lines := rfl
@[simp] theorem State.setPoison_dir : (s.setPoison l b).dir = s.dir := rfl
@[simp] theorem State.setPoison_defer : (s.setPoison l b).defer = s.defer := rfl
@[simp] theorem State.setPoison_tokens : (s.setPoison l b).tokens = s.tokens := rfl
@[simp] theorem State.setPoison_chanSeq : (s.setPoison l b).chanSeq = s.chanSeq := rfl
@[simp] theorem State.setPoison_chanOpen : (s.setPoison l b).chanOpen = s.chanOpen := rfl
@[simp] theorem State.setPoison_beacons : (s.setPoison l b).beacons = s.beacons := rfl
@[simp] theorem State.setPoison_nexts : (s.setPoison l b).nexts = s.nexts := rfl
@[simp] theorem State.setPoison_mem : (s.setPoison l b).mem = s.mem := rfl
@[simp] theorem State.setPoison_pois : (s.setPoison l b).pois = tput false s.pois l b := rfl
@[simp] theorem State.setPoison_sram : (s.setPoison l b).sram = s.sram := rfl
@[simp] theorem State.setPoison_msc : (s.setPoison l b).msc = s.msc := rfl
@[simp] theorem State.setPoison_grans : (s.setPoison l b).grans = s.grans := rfl
@[simp] theorem State.setPoison_tlb : (s.setPoison l b).tlb = s.tlb := rfl
@[simp] theorem State.setPoison_code : (s.setPoison l b).code = s.code := rfl
@[simp] theorem State.setPoison_preqs : (s.setPoison l b).preqs = s.preqs := rfl
@[simp] theorem State.setPoison_copies : (s.setPoison l b).copies = s.copies := rfl
@[simp] theorem State.setPoison_xdmas : (s.setPoison l b).xdmas = s.xdmas := rfl
@[simp] theorem State.setPoison_saved : (s.setPoison l b).saved = s.saved := rfl
@[simp] theorem State.setPoison_images : (s.setPoison l b).images = s.images := rfl
@[simp] theorem State.setPoison_ctxs : (s.setPoison l b).ctxs = s.ctxs := rfl
@[simp] theorem State.setPoison_next : (s.setPoison l b).next = s.next := rfl
@[simp] theorem State.setPoison_ptime : (s.setPoison l b).ptime = s.ptime := rfl
@[simp] theorem State.setPoison_slew : (s.setPoison l b).slew = s.slew := rfl
@[simp] theorem State.setPoison_slewRem : (s.setPoison l b).slewRem = s.slewRem := rfl
@[simp] theorem State.setPoison_ioCyc : (s.setPoison l b).ioCyc = s.ioCyc := rfl
@[simp] theorem State.setPoison_qtbase : (s.setPoison l b).qtbase = s.qtbase := rfl
@[simp] theorem State.setPoison_qdoorbell : (s.setPoison l b).qdoorbell = s.qdoorbell := rfl
@[simp] theorem State.setPoison_qappend : (s.setPoison l b).qappend = s.qappend := rfl
@[simp] theorem State.setPoison_pmap : (s.setPoison l b).pmap = s.pmap := rfl
@[simp] theorem State.setPoison_tinv : (s.setPoison l b).tinv = s.tinv := rfl
@[simp] theorem State.setPoison_ctxtbase : (s.setPoison l b).ctxtbase = s.ctxtbase := rfl
@[simp] theorem State.setPoison_ctxcmd : (s.setPoison l b).ctxcmd = s.ctxcmd := rfl
@[simp] theorem State.setPoison_mcring : (s.setPoison l b).mcring = s.mcring := rfl
@[simp] theorem State.setPoison_mcidx : (s.setPoison l b).mcidx = s.mcidx := rfl
@[simp] theorem State.setPoison_evring : (s.setPoison l b).evring = s.evring := rfl
@[simp] theorem State.setPoison_evidx : (s.setPoison l b).evidx = s.evidx := rfl
@[simp] theorem State.setPoison_evseq : (s.setPoison l b).evseq = s.evseq := rfl
@[simp] theorem State.setPoison_terr : (s.setPoison l b).terr = s.terr := rfl
@[simp] theorem State.setPoison_ptpStamp : (s.setPoison l b).ptpStamp = s.ptpStamp := rfl
@[simp] theorem State.setPoison_links : (s.setPoison l b).links = s.links := rfl
@[simp] theorem State.setPoison_bar4 : (s.setPoison l b).bar4 = s.bar4 := rfl
@[simp] theorem State.setPoison_bridges : (s.setPoison l b).bridges = s.bridges := rfl
@[simp] theorem State.setPoison_mons : (s.setPoison l b).mons = s.mons := rfl
@[simp] theorem State.setPoison_peers : (s.setPoison l b).peers = s.peers := rfl
@[simp] theorem State.setPoison_tries : (s.setPoison l b).tries = s.tries := rfl
@[simp] theorem State.setPoison_sess : (s.setPoison l b).sess = s.sess := rfl
@[simp] theorem State.setPoison_signed : (s.setPoison l b).signed = s.signed := rfl
@[simp] theorem State.setPoison_ide : (s.setPoison l b).ide = s.ide := rfl
@[simp] theorem State.setPoison_fw : (s.setPoison l b).fw = s.fw := rfl
@[simp] theorem State.setPoison_out : (s.setPoison l b).out = s.out := rfl

end

/-! ### setScratchPois -/

section
variable (s : State) (k : Nat) (b : Bool)

@[simp] theorem State.setScratchPois_powered : (s.setScratchPois k b).powered = s.powered := rfl
@[simp] theorem State.setScratchPois_fatal : (s.setScratchPois k b).fatal = s.fatal := rfl
@[simp] theorem State.setScratchPois_cur : (s.setScratchPois k b).cur = s.cur := rfl
@[simp] theorem State.setScratchPois_free : (s.setScratchPois k b).free = s.free := rfl
@[simp] theorem State.setScratchPois_sched : (s.setScratchPois k b).sched = s.sched := rfl
@[simp] theorem State.setScratchPois_net : (s.setScratchPois k b).net = s.net := rfl
@[simp] theorem State.setScratchPois_sentAt : (s.setScratchPois k b).sentAt = s.sentAt := rfl
@[simp] theorem State.setScratchPois_cohorts : (s.setScratchPois k b).cohorts = s.cohorts := rfl
@[simp] theorem State.setScratchPois_blks : (s.setScratchPois k b).blks = s.blks := rfl
@[simp] theorem State.setScratchPois_grids : (s.setScratchPois k b).grids = s.grids := rfl
@[simp] theorem State.setScratchPois_queues : (s.setScratchPois k b).queues = s.queues := rfl
@[simp] theorem State.setScratchPois_cores : (s.setScratchPois k b).cores = s.cores := rfl
@[simp] theorem State.setScratchPois_dies : (s.setScratchPois k b).dies = s.dies := rfl
@[simp] theorem State.setScratchPois_lines : (s.setScratchPois k b).lines = s.lines := rfl
@[simp] theorem State.setScratchPois_dir : (s.setScratchPois k b).dir = s.dir := rfl
@[simp] theorem State.setScratchPois_defer : (s.setScratchPois k b).defer = s.defer := rfl
@[simp] theorem State.setScratchPois_tokens : (s.setScratchPois k b).tokens = s.tokens := rfl
@[simp] theorem State.setScratchPois_chanSeq : (s.setScratchPois k b).chanSeq = s.chanSeq := rfl
@[simp] theorem State.setScratchPois_chanOpen : (s.setScratchPois k b).chanOpen = s.chanOpen := rfl
@[simp] theorem State.setScratchPois_beacons : (s.setScratchPois k b).beacons = s.beacons := rfl
@[simp] theorem State.setScratchPois_nexts : (s.setScratchPois k b).nexts = s.nexts := rfl
@[simp] theorem State.setScratchPois_mem : (s.setScratchPois k b).mem = s.mem := rfl
@[simp] theorem State.setScratchPois_pois : (s.setScratchPois k b).pois = tput false s.pois (2 ^ 70 + k) b := rfl
@[simp] theorem State.setScratchPois_sram : (s.setScratchPois k b).sram = s.sram := rfl
@[simp] theorem State.setScratchPois_msc : (s.setScratchPois k b).msc = s.msc := rfl
@[simp] theorem State.setScratchPois_grans : (s.setScratchPois k b).grans = s.grans := rfl
@[simp] theorem State.setScratchPois_tlb : (s.setScratchPois k b).tlb = s.tlb := rfl
@[simp] theorem State.setScratchPois_code : (s.setScratchPois k b).code = s.code := rfl
@[simp] theorem State.setScratchPois_preqs : (s.setScratchPois k b).preqs = s.preqs := rfl
@[simp] theorem State.setScratchPois_copies : (s.setScratchPois k b).copies = s.copies := rfl
@[simp] theorem State.setScratchPois_xdmas : (s.setScratchPois k b).xdmas = s.xdmas := rfl
@[simp] theorem State.setScratchPois_saved : (s.setScratchPois k b).saved = s.saved := rfl
@[simp] theorem State.setScratchPois_images : (s.setScratchPois k b).images = s.images := rfl
@[simp] theorem State.setScratchPois_ctxs : (s.setScratchPois k b).ctxs = s.ctxs := rfl
@[simp] theorem State.setScratchPois_next : (s.setScratchPois k b).next = s.next := rfl
@[simp] theorem State.setScratchPois_ptime : (s.setScratchPois k b).ptime = s.ptime := rfl
@[simp] theorem State.setScratchPois_slew : (s.setScratchPois k b).slew = s.slew := rfl
@[simp] theorem State.setScratchPois_slewRem : (s.setScratchPois k b).slewRem = s.slewRem := rfl
@[simp] theorem State.setScratchPois_ioCyc : (s.setScratchPois k b).ioCyc = s.ioCyc := rfl
@[simp] theorem State.setScratchPois_qtbase : (s.setScratchPois k b).qtbase = s.qtbase := rfl
@[simp] theorem State.setScratchPois_qdoorbell : (s.setScratchPois k b).qdoorbell = s.qdoorbell := rfl
@[simp] theorem State.setScratchPois_qappend : (s.setScratchPois k b).qappend = s.qappend := rfl
@[simp] theorem State.setScratchPois_pmap : (s.setScratchPois k b).pmap = s.pmap := rfl
@[simp] theorem State.setScratchPois_tinv : (s.setScratchPois k b).tinv = s.tinv := rfl
@[simp] theorem State.setScratchPois_ctxtbase : (s.setScratchPois k b).ctxtbase = s.ctxtbase := rfl
@[simp] theorem State.setScratchPois_ctxcmd : (s.setScratchPois k b).ctxcmd = s.ctxcmd := rfl
@[simp] theorem State.setScratchPois_mcring : (s.setScratchPois k b).mcring = s.mcring := rfl
@[simp] theorem State.setScratchPois_mcidx : (s.setScratchPois k b).mcidx = s.mcidx := rfl
@[simp] theorem State.setScratchPois_evring : (s.setScratchPois k b).evring = s.evring := rfl
@[simp] theorem State.setScratchPois_evidx : (s.setScratchPois k b).evidx = s.evidx := rfl
@[simp] theorem State.setScratchPois_evseq : (s.setScratchPois k b).evseq = s.evseq := rfl
@[simp] theorem State.setScratchPois_terr : (s.setScratchPois k b).terr = s.terr := rfl
@[simp] theorem State.setScratchPois_ptpStamp : (s.setScratchPois k b).ptpStamp = s.ptpStamp := rfl
@[simp] theorem State.setScratchPois_links : (s.setScratchPois k b).links = s.links := rfl
@[simp] theorem State.setScratchPois_bar4 : (s.setScratchPois k b).bar4 = s.bar4 := rfl
@[simp] theorem State.setScratchPois_bridges : (s.setScratchPois k b).bridges = s.bridges := rfl
@[simp] theorem State.setScratchPois_mons : (s.setScratchPois k b).mons = s.mons := rfl
@[simp] theorem State.setScratchPois_peers : (s.setScratchPois k b).peers = s.peers := rfl
@[simp] theorem State.setScratchPois_tries : (s.setScratchPois k b).tries = s.tries := rfl
@[simp] theorem State.setScratchPois_sess : (s.setScratchPois k b).sess = s.sess := rfl
@[simp] theorem State.setScratchPois_signed : (s.setScratchPois k b).signed = s.signed := rfl
@[simp] theorem State.setScratchPois_ide : (s.setScratchPois k b).ide = s.ide := rfl
@[simp] theorem State.setScratchPois_fw : (s.setScratchPois k b).fw = s.fw := rfl
@[simp] theorem State.setScratchPois_out : (s.setScratchPois k b).out = s.out := rfl

end

/-! ### setGran -/

section
variable (s : State) (k : Nat) (g : Gran)

@[simp] theorem State.setGran_powered : (s.setGran k g).powered = s.powered := rfl
@[simp] theorem State.setGran_fatal : (s.setGran k g).fatal = s.fatal := rfl
@[simp] theorem State.setGran_cur : (s.setGran k g).cur = s.cur := rfl
@[simp] theorem State.setGran_free : (s.setGran k g).free = s.free := rfl
@[simp] theorem State.setGran_sched : (s.setGran k g).sched = s.sched := rfl
@[simp] theorem State.setGran_net : (s.setGran k g).net = s.net := rfl
@[simp] theorem State.setGran_sentAt : (s.setGran k g).sentAt = s.sentAt := rfl
@[simp] theorem State.setGran_cohorts : (s.setGran k g).cohorts = s.cohorts := rfl
@[simp] theorem State.setGran_blks : (s.setGran k g).blks = s.blks := rfl
@[simp] theorem State.setGran_grids : (s.setGran k g).grids = s.grids := rfl
@[simp] theorem State.setGran_queues : (s.setGran k g).queues = s.queues := rfl
@[simp] theorem State.setGran_cores : (s.setGran k g).cores = s.cores := rfl
@[simp] theorem State.setGran_dies : (s.setGran k g).dies = s.dies := rfl
@[simp] theorem State.setGran_lines : (s.setGran k g).lines = s.lines := rfl
@[simp] theorem State.setGran_dir : (s.setGran k g).dir = s.dir := rfl
@[simp] theorem State.setGran_defer : (s.setGran k g).defer = s.defer := rfl
@[simp] theorem State.setGran_tokens : (s.setGran k g).tokens = s.tokens := rfl
@[simp] theorem State.setGran_chanSeq : (s.setGran k g).chanSeq = s.chanSeq := rfl
@[simp] theorem State.setGran_chanOpen : (s.setGran k g).chanOpen = s.chanOpen := rfl
@[simp] theorem State.setGran_beacons : (s.setGran k g).beacons = s.beacons := rfl
@[simp] theorem State.setGran_nexts : (s.setGran k g).nexts = s.nexts := rfl
@[simp] theorem State.setGran_mem : (s.setGran k g).mem = s.mem := rfl
@[simp] theorem State.setGran_pois : (s.setGran k g).pois = s.pois := rfl
@[simp] theorem State.setGran_sram : (s.setGran k g).sram = s.sram := rfl
@[simp] theorem State.setGran_msc : (s.setGran k g).msc = s.msc := rfl
@[simp] theorem State.setGran_grans : (s.setGran k g).grans = tput Gran.hold s.grans (k / 4096) g := rfl
@[simp] theorem State.setGran_tlb : (s.setGran k g).tlb = s.tlb := rfl
@[simp] theorem State.setGran_code : (s.setGran k g).code = s.code := rfl
@[simp] theorem State.setGran_preqs : (s.setGran k g).preqs = s.preqs := rfl
@[simp] theorem State.setGran_copies : (s.setGran k g).copies = s.copies := rfl
@[simp] theorem State.setGran_xdmas : (s.setGran k g).xdmas = s.xdmas := rfl
@[simp] theorem State.setGran_saved : (s.setGran k g).saved = s.saved := rfl
@[simp] theorem State.setGran_images : (s.setGran k g).images = s.images := rfl
@[simp] theorem State.setGran_ctxs : (s.setGran k g).ctxs = s.ctxs := rfl
@[simp] theorem State.setGran_next : (s.setGran k g).next = s.next := rfl
@[simp] theorem State.setGran_ptime : (s.setGran k g).ptime = s.ptime := rfl
@[simp] theorem State.setGran_slew : (s.setGran k g).slew = s.slew := rfl
@[simp] theorem State.setGran_slewRem : (s.setGran k g).slewRem = s.slewRem := rfl
@[simp] theorem State.setGran_ioCyc : (s.setGran k g).ioCyc = s.ioCyc := rfl
@[simp] theorem State.setGran_qtbase : (s.setGran k g).qtbase = s.qtbase := rfl
@[simp] theorem State.setGran_qdoorbell : (s.setGran k g).qdoorbell = s.qdoorbell := rfl
@[simp] theorem State.setGran_qappend : (s.setGran k g).qappend = s.qappend := rfl
@[simp] theorem State.setGran_pmap : (s.setGran k g).pmap = s.pmap := rfl
@[simp] theorem State.setGran_tinv : (s.setGran k g).tinv = s.tinv := rfl
@[simp] theorem State.setGran_ctxtbase : (s.setGran k g).ctxtbase = s.ctxtbase := rfl
@[simp] theorem State.setGran_ctxcmd : (s.setGran k g).ctxcmd = s.ctxcmd := rfl
@[simp] theorem State.setGran_mcring : (s.setGran k g).mcring = s.mcring := rfl
@[simp] theorem State.setGran_mcidx : (s.setGran k g).mcidx = s.mcidx := rfl
@[simp] theorem State.setGran_evring : (s.setGran k g).evring = s.evring := rfl
@[simp] theorem State.setGran_evidx : (s.setGran k g).evidx = s.evidx := rfl
@[simp] theorem State.setGran_evseq : (s.setGran k g).evseq = s.evseq := rfl
@[simp] theorem State.setGran_terr : (s.setGran k g).terr = s.terr := rfl
@[simp] theorem State.setGran_ptpStamp : (s.setGran k g).ptpStamp = s.ptpStamp := rfl
@[simp] theorem State.setGran_links : (s.setGran k g).links = s.links := rfl
@[simp] theorem State.setGran_bar4 : (s.setGran k g).bar4 = s.bar4 := rfl
@[simp] theorem State.setGran_bridges : (s.setGran k g).bridges = s.bridges := rfl
@[simp] theorem State.setGran_mons : (s.setGran k g).mons = s.mons := rfl
@[simp] theorem State.setGran_peers : (s.setGran k g).peers = s.peers := rfl
@[simp] theorem State.setGran_tries : (s.setGran k g).tries = s.tries := rfl
@[simp] theorem State.setGran_sess : (s.setGran k g).sess = s.sess := rfl
@[simp] theorem State.setGran_signed : (s.setGran k g).signed = s.signed := rfl
@[simp] theorem State.setGran_ide : (s.setGran k g).ide = s.ide := rfl
@[simp] theorem State.setGran_fw : (s.setGran k g).fw = s.fw := rfl
@[simp] theorem State.setGran_out : (s.setGran k g).out = s.out := rfl

end

/-! ### putToks -/

section
variable (s : State) (l : Toks)

@[simp] theorem State.putToks_powered : (s.putToks l).powered = s.powered := rfl
@[simp] theorem State.putToks_fatal : (s.putToks l).fatal = s.fatal := rfl
@[simp] theorem State.putToks_cur : (s.putToks l).cur = s.cur := rfl
@[simp] theorem State.putToks_free : (s.putToks l).free = s.free := rfl
@[simp] theorem State.putToks_sched : (s.putToks l).sched = s.sched := rfl
@[simp] theorem State.putToks_net : (s.putToks l).net = s.net := rfl
@[simp] theorem State.putToks_sentAt : (s.putToks l).sentAt = s.sentAt := rfl
@[simp] theorem State.putToks_cohorts : (s.putToks l).cohorts = s.cohorts := rfl
@[simp] theorem State.putToks_blks : (s.putToks l).blks = s.blks := rfl
@[simp] theorem State.putToks_grids : (s.putToks l).grids = s.grids := rfl
@[simp] theorem State.putToks_queues : (s.putToks l).queues = s.queues := rfl
@[simp] theorem State.putToks_cores : (s.putToks l).cores = s.cores := rfl
@[simp] theorem State.putToks_dies : (s.putToks l).dies = s.dies := rfl
@[simp] theorem State.putToks_lines : (s.putToks l).lines = s.lines := rfl
@[simp] theorem State.putToks_dir : (s.putToks l).dir = s.dir := rfl
@[simp] theorem State.putToks_defer : (s.putToks l).defer = s.defer := rfl
@[simp] theorem State.putToks_tokens : (s.putToks l).tokens = l.foldl (fun t p => tput [] t p.1 p.2) s.tokens := rfl
@[simp] theorem State.putToks_chanSeq : (s.putToks l).chanSeq = s.chanSeq := rfl
@[simp] theorem State.putToks_chanOpen : (s.putToks l).chanOpen = s.chanOpen := rfl
@[simp] theorem State.putToks_beacons : (s.putToks l).beacons = s.beacons := rfl
@[simp] theorem State.putToks_nexts : (s.putToks l).nexts = s.nexts := rfl
@[simp] theorem State.putToks_mem : (s.putToks l).mem = s.mem := rfl
@[simp] theorem State.putToks_pois : (s.putToks l).pois = s.pois := rfl
@[simp] theorem State.putToks_sram : (s.putToks l).sram = s.sram := rfl
@[simp] theorem State.putToks_msc : (s.putToks l).msc = s.msc := rfl
@[simp] theorem State.putToks_grans : (s.putToks l).grans = s.grans := rfl
@[simp] theorem State.putToks_tlb : (s.putToks l).tlb = s.tlb := rfl
@[simp] theorem State.putToks_code : (s.putToks l).code = s.code := rfl
@[simp] theorem State.putToks_preqs : (s.putToks l).preqs = s.preqs := rfl
@[simp] theorem State.putToks_copies : (s.putToks l).copies = s.copies := rfl
@[simp] theorem State.putToks_xdmas : (s.putToks l).xdmas = s.xdmas := rfl
@[simp] theorem State.putToks_saved : (s.putToks l).saved = s.saved := rfl
@[simp] theorem State.putToks_images : (s.putToks l).images = s.images := rfl
@[simp] theorem State.putToks_ctxs : (s.putToks l).ctxs = s.ctxs := rfl
@[simp] theorem State.putToks_next : (s.putToks l).next = s.next := rfl
@[simp] theorem State.putToks_ptime : (s.putToks l).ptime = s.ptime := rfl
@[simp] theorem State.putToks_slew : (s.putToks l).slew = s.slew := rfl
@[simp] theorem State.putToks_slewRem : (s.putToks l).slewRem = s.slewRem := rfl
@[simp] theorem State.putToks_ioCyc : (s.putToks l).ioCyc = s.ioCyc := rfl
@[simp] theorem State.putToks_qtbase : (s.putToks l).qtbase = s.qtbase := rfl
@[simp] theorem State.putToks_qdoorbell : (s.putToks l).qdoorbell = s.qdoorbell := rfl
@[simp] theorem State.putToks_qappend : (s.putToks l).qappend = s.qappend := rfl
@[simp] theorem State.putToks_pmap : (s.putToks l).pmap = s.pmap := rfl
@[simp] theorem State.putToks_tinv : (s.putToks l).tinv = s.tinv := rfl
@[simp] theorem State.putToks_ctxtbase : (s.putToks l).ctxtbase = s.ctxtbase := rfl
@[simp] theorem State.putToks_ctxcmd : (s.putToks l).ctxcmd = s.ctxcmd := rfl
@[simp] theorem State.putToks_mcring : (s.putToks l).mcring = s.mcring := rfl
@[simp] theorem State.putToks_mcidx : (s.putToks l).mcidx = s.mcidx := rfl
@[simp] theorem State.putToks_evring : (s.putToks l).evring = s.evring := rfl
@[simp] theorem State.putToks_evidx : (s.putToks l).evidx = s.evidx := rfl
@[simp] theorem State.putToks_evseq : (s.putToks l).evseq = s.evseq := rfl
@[simp] theorem State.putToks_terr : (s.putToks l).terr = s.terr := rfl
@[simp] theorem State.putToks_ptpStamp : (s.putToks l).ptpStamp = s.ptpStamp := rfl
@[simp] theorem State.putToks_links : (s.putToks l).links = s.links := rfl
@[simp] theorem State.putToks_bar4 : (s.putToks l).bar4 = s.bar4 := rfl
@[simp] theorem State.putToks_bridges : (s.putToks l).bridges = s.bridges := rfl
@[simp] theorem State.putToks_mons : (s.putToks l).mons = s.mons := rfl
@[simp] theorem State.putToks_peers : (s.putToks l).peers = s.peers := rfl
@[simp] theorem State.putToks_tries : (s.putToks l).tries = s.tries := rfl
@[simp] theorem State.putToks_sess : (s.putToks l).sess = s.sess := rfl
@[simp] theorem State.putToks_signed : (s.putToks l).signed = s.signed := rfl
@[simp] theorem State.putToks_ide : (s.putToks l).ide = s.ide := rfl
@[simp] theorem State.putToks_fw : (s.putToks l).fw = s.fw := rfl
@[simp] theorem State.putToks_out : (s.putToks l).out = s.out := rfl

end

/-! ### setSram -/

section
variable (s : State) (i : Nat) (l : List (Nat × Bool))

@[simp] theorem State.setSram_powered : (s.setSram i l).powered = s.powered := rfl
@[simp] theorem State.setSram_fatal : (s.setSram i l).fatal = s.fatal := rfl
@[simp] theorem State.setSram_cur : (s.setSram i l).cur = s.cur := rfl
@[simp] theorem State.setSram_free : (s.setSram i l).free = s.free := rfl
@[simp] theorem State.setSram_sched : (s.setSram i l).sched = s.sched := rfl
@[simp] theorem State.setSram_net : (s.setSram i l).net = s.net := rfl
@[simp] theorem State.setSram_sentAt : (s.setSram i l).sentAt = s.sentAt := rfl
@[simp] theorem State.setSram_cohorts : (s.setSram i l).cohorts = s.cohorts := rfl
@[simp] theorem State.setSram_blks : (s.setSram i l).blks = s.blks := rfl
@[simp] theorem State.setSram_grids : (s.setSram i l).grids = s.grids := rfl
@[simp] theorem State.setSram_queues : (s.setSram i l).queues = s.queues := rfl
@[simp] theorem State.setSram_cores : (s.setSram i l).cores = s.cores := rfl
@[simp] theorem State.setSram_dies : (s.setSram i l).dies = s.dies := rfl
@[simp] theorem State.setSram_lines : (s.setSram i l).lines = s.lines := rfl
@[simp] theorem State.setSram_dir : (s.setSram i l).dir = s.dir := rfl
@[simp] theorem State.setSram_defer : (s.setSram i l).defer = s.defer := rfl
@[simp] theorem State.setSram_tokens : (s.setSram i l).tokens = s.tokens := rfl
@[simp] theorem State.setSram_chanSeq : (s.setSram i l).chanSeq = s.chanSeq := rfl
@[simp] theorem State.setSram_chanOpen : (s.setSram i l).chanOpen = s.chanOpen := rfl
@[simp] theorem State.setSram_beacons : (s.setSram i l).beacons = s.beacons := rfl
@[simp] theorem State.setSram_nexts : (s.setSram i l).nexts = s.nexts := rfl
@[simp] theorem State.setSram_mem : (s.setSram i l).mem = s.mem := rfl
@[simp] theorem State.setSram_pois : (s.setSram i l).pois = s.pois := rfl
@[simp] theorem State.setSram_sram : (s.setSram i l).sram = tput [] s.sram i l := rfl
@[simp] theorem State.setSram_msc : (s.setSram i l).msc = s.msc := rfl
@[simp] theorem State.setSram_grans : (s.setSram i l).grans = s.grans := rfl
@[simp] theorem State.setSram_tlb : (s.setSram i l).tlb = s.tlb := rfl
@[simp] theorem State.setSram_code : (s.setSram i l).code = s.code := rfl
@[simp] theorem State.setSram_preqs : (s.setSram i l).preqs = s.preqs := rfl
@[simp] theorem State.setSram_copies : (s.setSram i l).copies = s.copies := rfl
@[simp] theorem State.setSram_xdmas : (s.setSram i l).xdmas = s.xdmas := rfl
@[simp] theorem State.setSram_saved : (s.setSram i l).saved = s.saved := rfl
@[simp] theorem State.setSram_images : (s.setSram i l).images = s.images := rfl
@[simp] theorem State.setSram_ctxs : (s.setSram i l).ctxs = s.ctxs := rfl
@[simp] theorem State.setSram_next : (s.setSram i l).next = s.next := rfl
@[simp] theorem State.setSram_ptime : (s.setSram i l).ptime = s.ptime := rfl
@[simp] theorem State.setSram_slew : (s.setSram i l).slew = s.slew := rfl
@[simp] theorem State.setSram_slewRem : (s.setSram i l).slewRem = s.slewRem := rfl
@[simp] theorem State.setSram_ioCyc : (s.setSram i l).ioCyc = s.ioCyc := rfl
@[simp] theorem State.setSram_qtbase : (s.setSram i l).qtbase = s.qtbase := rfl
@[simp] theorem State.setSram_qdoorbell : (s.setSram i l).qdoorbell = s.qdoorbell := rfl
@[simp] theorem State.setSram_qappend : (s.setSram i l).qappend = s.qappend := rfl
@[simp] theorem State.setSram_pmap : (s.setSram i l).pmap = s.pmap := rfl
@[simp] theorem State.setSram_tinv : (s.setSram i l).tinv = s.tinv := rfl
@[simp] theorem State.setSram_ctxtbase : (s.setSram i l).ctxtbase = s.ctxtbase := rfl
@[simp] theorem State.setSram_ctxcmd : (s.setSram i l).ctxcmd = s.ctxcmd := rfl
@[simp] theorem State.setSram_mcring : (s.setSram i l).mcring = s.mcring := rfl
@[simp] theorem State.setSram_mcidx : (s.setSram i l).mcidx = s.mcidx := rfl
@[simp] theorem State.setSram_evring : (s.setSram i l).evring = s.evring := rfl
@[simp] theorem State.setSram_evidx : (s.setSram i l).evidx = s.evidx := rfl
@[simp] theorem State.setSram_evseq : (s.setSram i l).evseq = s.evseq := rfl
@[simp] theorem State.setSram_terr : (s.setSram i l).terr = s.terr := rfl
@[simp] theorem State.setSram_ptpStamp : (s.setSram i l).ptpStamp = s.ptpStamp := rfl
@[simp] theorem State.setSram_links : (s.setSram i l).links = s.links := rfl
@[simp] theorem State.setSram_bar4 : (s.setSram i l).bar4 = s.bar4 := rfl
@[simp] theorem State.setSram_bridges : (s.setSram i l).bridges = s.bridges := rfl
@[simp] theorem State.setSram_mons : (s.setSram i l).mons = s.mons := rfl
@[simp] theorem State.setSram_peers : (s.setSram i l).peers = s.peers := rfl
@[simp] theorem State.setSram_tries : (s.setSram i l).tries = s.tries := rfl
@[simp] theorem State.setSram_sess : (s.setSram i l).sess = s.sess := rfl
@[simp] theorem State.setSram_signed : (s.setSram i l).signed = s.signed := rfl
@[simp] theorem State.setSram_ide : (s.setSram i l).ide = s.ide := rfl
@[simp] theorem State.setSram_fw : (s.setSram i l).fw = s.fw := rfl
@[simp] theorem State.setSram_out : (s.setSram i l).out = s.out := rfl

end

end Sys2Proof.Machine
end

