-- ==== Sys2Proof/Laws/Tbl.lean ====
section
/-! SUPPORT. Laws of tables: read after write, and the canonical form, which makes equal tables equal lists. -/
namespace Sys2Proof.Machine
variable {α : Type}

@[simp] theorem tget_nil (d : α) (n : Nat) : tget d ([] : Tbl α) n = d := rfl

theorem tget_terase_same (d : α) (t : Tbl α) (n : Nat) : tget d (terase t n) n = d := by
  induction t with
  | nil => rfl
  | cons p t ih =>
    obtain ⟨k, v⟩ := p
    by_cases h : k = n <;> simp [terase, tget, h, ih]

theorem tget_terase_ne (d : α) (t : Tbl α) {n m : Nat} (h : m ≠ n) : tget d (terase t n) m = tget d t m := by
  induction t with
  | nil => rfl
  | cons p t ih =>
    obtain ⟨k, v⟩ := p
    by_cases hk : k = n
    · subst hk; simp [terase, tget, ih, Ne.symm h]
    · by_cases hm : k = m
      · subst hm; simp [terase, tget, hk]
      · simp [terase, tget, hk, hm, ih]

theorem tget_tins_same (d : α) (t : Tbl α) (n : Nat) (v : α) (h : tget d t n = d ∨ ∀ p ∈ t, p.1 ≠ n)
    (hk : ∀ p ∈ t, p.1 ≠ n) : tget d (tins t n v) n = v := by
  induction t with
  | nil => simp [tins, tget]
  | cons p t ih =>
    obtain ⟨k, w⟩ := p
    have h1 : k ≠ n := hk (k, w) (by simp)
    have h2 : ∀ p ∈ t, p.1 ≠ n := fun p hp => hk p (by simp [hp])
    by_cases hlt : n < k
    · simp [tins, hlt, tget]
    · simp [tins, hlt, tget, h1, ih (.inr h2) h2]

theorem tget_tins_ne (d : α) (t : Tbl α) {n m : Nat} (v : α) (h : m ≠ n) : tget d (tins t n v) m = tget d t m := by
  induction t with
  | nil => simp [tins, tget, Ne.symm h]
  | cons p t ih =>
    obtain ⟨k, w⟩ := p
    by_cases hlt : n < k
    · simp [tins, hlt, tget, Ne.symm h]
    · by_cases hm : k = m
      · subst hm; simp [tins, hlt, tget]
      · simp [tins, hlt, tget, hm, ih]

theorem terase_not_mem (t : Tbl α) (n : Nat) : ∀ p ∈ terase t n, p.1 ≠ n := by
  induction t with
  | nil => simp [terase]
  | cons p t ih =>
    obtain ⟨k, v⟩ := p
    by_cases h : k = n
    · simpa [terase, h] using ih
    · intro q hq
      simp only [terase, h, if_false, List.mem_cons] at hq
      rcases hq with rfl | hq
      · exact h
      · exact ih q hq

/-- Reading a key gives what was last written there. -/
@[simp] theorem tget_tput_same [DecidableEq α] (d : α) (t : Tbl α) (n : Nat) (v : α) : tget d (tput d t n v) n = v := by
  unfold tput
  by_cases h : v = d
  · rw [if_pos h, tget_terase_same, h]
  · rw [if_neg h, tget_tins_same _ _ _ _ (.inr (terase_not_mem t n)) (terase_not_mem t n)]

/-- A write leaves every other key alone. -/
theorem tget_tput_ne [DecidableEq α] (d : α) (t : Tbl α) {n m : Nat} (v : α) (h : m ≠ n) :
    tget d (tput d t n v) m = tget d t m := by
  unfold tput
  by_cases hv : v = d
  · rw [if_pos hv, tget_terase_ne _ _ h]
  · rw [if_neg hv, tget_tins_ne _ _ _ h, tget_terase_ne _ _ h]

theorem tget_tput [DecidableEq α] (d : α) (t : Tbl α) (n m : Nat) (v : α) :
    tget d (tput d t n v) m = if m = n then v else tget d t m := by
  by_cases h : m = n
  · subst h; simp
  · simp [h, tget_tput_ne]

/-- Keys rise along a table, all above a bound. -/
def tabove [DecidableEq α] (d : α) (b : Option Nat) : Tbl α → Prop
  | [] => True
  | (k, v) :: t => (∀ x, b = some x → x < k) ∧ v ≠ d ∧ tabove d (some k) t

theorem twf_iff [DecidableEq α] (d : α) (t : Tbl α) (b : Option Nat) :
    tabove d b t ↔ twf d t = true ∧ ∀ p, t.head? = some p → ∀ x, b = some x → x < p.1 := by
  induction t generalizing b with
  | nil => simp [tabove, twf]
  | cons p t ih =>
    obtain ⟨k, v⟩ := p
    simp only [tabove, twf, ih, List.head?_cons, Option.some.injEq, Bool.and_eq_true]
    cases t with
    | nil => simp [twf]; tauto
    | cons q t => simp; tauto

theorem tabove_terase [DecidableEq α] {d : α} {t : Tbl α} {b : Option Nat} (n : Nat) (h : tabove d b t) :
    tabove d b (terase t n) := by
  induction t generalizing b with
  | nil => trivial
  | cons p t ih =>
    obtain ⟨k, v⟩ := p
    obtain ⟨h1, h2, h3⟩ := h
    by_cases hk : k = n
    · simp only [terase, hk, if_true]
      refine ih ?_
      clear ih
      cases t with
      | nil => trivial
      | cons q t => exact ⟨fun x hx => lt_trans (h1 x hx) (h3.1 k rfl), h3.2.1, h3.2.2⟩
    · simpa [terase, hk, tabove] using ⟨h1, h2, ih h3⟩

theorem tabove_tins [DecidableEq α] {d : α} {t : Tbl α} {b : Option Nat} {n : Nat} {v : α} (h : tabove d b t)
    (hn : ∀ p ∈ t, p.1 ≠ n) (hv : v ≠ d) (hb : ∀ x, b = some x → x < n) : tabove d b (tins t n v) := by
  induction t generalizing b with
  | nil => exact ⟨hb, hv, trivial⟩
  | cons p t ih =>
    obtain ⟨k, w⟩ := p
    obtain ⟨h1, h2, h3⟩ := h
    have hk : k ≠ n := hn (k, w) (by simp)
    by_cases hlt : n < k
    · simp only [tins, hlt, if_true]
      exact ⟨hb, hv, by simpa using hlt, h2, h3⟩
    · simp only [tins, hlt, if_false]
      refine ⟨h1, h2, ih h3 (fun p hp => hn p (by simp [hp])) ?_⟩
      intro x hx
      obtain rfl : k = x := by simpa using hx
      omega

/-- A write keeps the canonical form. -/
theorem twf_tput [DecidableEq α] (d : α) (t : Tbl α) (n : Nat) (v : α) (h : twf d t = true) : twf d (tput d t n v) = true := by
  have h0 : tabove d none t := (twf_iff d t none).2 ⟨h, by simp⟩
  have h1 := tabove_terase n h0
  unfold tput
  by_cases hv : v = d
  · rw [if_pos hv]; exact ((twf_iff d _ none).1 h1).1
  · rw [if_neg hv]
    exact ((twf_iff d _ none).1 (tabove_tins h1 (terase_not_mem t n) hv (by simp))).1

@[simp] theorem twf_nil [DecidableEq α] (d : α) : twf d ([] : Tbl α) = true := rfl

end Sys2Proof.Machine
end

