-- ==== Sys2Proof/Laws/Mem.lean ====
section
/-! SUPPORT. Memory: a byte read after writes, the canonical form kept, and what the checks of an access leave unchanged. -/
namespace Sys2Proof.Laws
open Sys2Proof Sys2Proof.Machine

/-- What every step of a fold keeps, the fold keeps. -/
theorem foldl_keeps {σ α : Type} (P : σ → Prop) (f : σ → α → σ) (h : ∀ s a, P s → P (f s a)) (l : List α) (s : σ) (hs : P s) :
    P (l.foldl f s) := by
  induction l generalizing s with
  | nil => exact hs
  | cons a t ih => exact ih _ (h _ _ hs)

/-- A part of the state that no step of a fold changes, the fold does not change. -/
theorem foldl_same {σ α β : Type} (p : σ → β) (f : σ → α → σ) (h : ∀ s a, p (f s a) = p s) (l : List α) (s : σ) :
    p (l.foldl f s) = p s := by
  induction l generalizing s with
  | nil => rfl
  | cons a t ih => exact (ih _).trans (h _ _)

theorem byte_setByte (s : State) (k a : Nat) (b : Byte) : (s.setByte k b).byte a = if a = k then b else s.byte a :=
  tget_tput 0 s.mem k a b

theorem byte_setBytes (s : State) (k a : Nat) (l : List Byte) :
    (s.setBytes k l).byte a = if k ≤ a ∧ a < k + l.length then l.getD (a - k) 0 else s.byte a := by
  induction l generalizing s k with
  | nil => simp only [State.setBytes, List.length_nil]; rw [if_neg (by omega)]
  | cons b t ih =>
    rw [State.setBytes, ih, byte_setByte]
    simp only [List.length_cons]
    by_cases h : k + 1 ≤ a ∧ a < k + 1 + t.length
    · have h1 : a - k = (a - (k + 1)) + 1 := by omega
      rw [if_pos h, if_pos (by omega), h1, List.getD_cons_succ]
    · rw [if_neg h]
      by_cases h2 : a = k
      · subst h2; rw [if_pos rfl, if_pos (by omega)]; simp
      · rw [if_neg h2, if_neg (by omega)]

theorem twf_setByte {s : State} (k : Nat) (b : Byte) (h : twf 0 s.mem = true) : twf 0 (s.setByte k b).mem = true :=
  twf_tput 0 s.mem k b h

theorem twf_setBytes {s : State} (k : Nat) (l : List Byte) (h : twf 0 s.mem = true) : twf 0 (s.setBytes k l).mem = true := by
  induction l generalizing s k with
  | nil => exact h
  | cons b t ih => exact ih _ (twf_setByte k b h)

theorem twf_filter {α : Type} [DecidableEq α] (d : α) (t : Tbl α) (p : Nat × α → Bool) (h : twf d t = true) :
    twf d (t.filter p) = true := by
  have key : ∀ (t : Tbl α) (b : Option Nat), tabove d b t → tabove d b (t.filter p) := by
    intro t
    induction t with
    | nil => intro b _; trivial
    | cons x r ih =>
      intro b hb
      obtain ⟨h1, h2, h3⟩ := hb
      by_cases hp : p x
      · rw [List.filter_cons_of_pos hp]; exact ⟨h1, h2, ih _ h3⟩
      · rw [List.filter_cons_of_neg (by simpa using hp)]
        have h4 := ih _ h3
        refine (twf_iff d _ b).2 ⟨((twf_iff d _ _).1 h4).1, fun q hq y hy => ?_⟩
        exact Nat.lt_trans (h1 y hy) (((twf_iff d _ _).1 h4).2 q hq _ rfl)
  exact ((twf_iff d _ none).1 (key t none ((twf_iff d t none).2 ⟨h, by simp⟩))).1

theorem fillTlb_cur (s : State) (core ctx : Nat) (a : DWord) : (s.fillTlb core ctx a).cur = s.cur := by
  unfold State.fillTlb; split <;> rfl

theorem setBytes_cur (s : State) (k : Nat) (l : List Byte) : (s.setBytes k l).cur = s.cur := by
  induction l generalizing s k with
  | nil => rfl
  | cons b t ih => rw [State.setBytes, ih]; rfl

theorem forgetGran_cur (s : State) (k : Nat) : (s.forgetGran k).cur = s.cur := rfl

theorem zeroGran_cur (s : State) (k : Nat) : (s.zeroGran k).cur = s.cur :=
  (forgetGran_cur _ _).trans (setBytes_cur _ _ _)

theorem touchGran_cur (s : State) (now : DWord) (k : Nat) : (s.touchGran now k).cur = s.cur := by
  rw [State.touchGran]
  split
  · rfl
  · simp only []
    have h (t : State) (ht : t.cur = s.cur) (b : Bool) (g : Gran) : (if b then t.setGran k g else t).cur = s.cur := by
      cases b <;> exact ht
    apply h
    split
    · exact zeroGran_cur _ _
    · rfl

theorem zeroExpired_cur (s : State) (now : DWord) (k : Nat) : (s.zeroExpired now k).cur = s.cur := by
  rw [State.zeroExpired]
  split
  · exact touchGran_cur _ _ _
  · rfl

/-- Checks that pass leave the executing cohort, fragment and slot. -/
theorem checkAcs_cur {s s' : State} {core ctx : Nat} {b : Blk} {sp : BitVec 2} {kind : Acc} {reads fill : Bool} {us : List Acs}
    {l : List (Acs × Nat × BitVec 2)} (h : checkAcs s core ctx b sp kind reads fill us = .ok l s') : s'.cur = s.cur := by
  unfold checkAcs at h
  split at h
  · simp at h
  simp only [] at h
  split at h
  · simp at h
  split at h
  · simp at h
  split at h
  · simp at h
  split at h
  · simp at h
  · simp only [Chk.ok.injEq] at h
    rw [← h.2]
    have hz : ∀ (l : List (Acs × Nat × BitVec 2)) (dead : Acs × Nat × BitVec 2 → Bool) (now : DWord) (s : State),
        (l.foldl (fun s x => if dead x then s else s.zeroExpired now x.2.1) s).cur = s.cur := fun l dead now s =>
      foldl_same State.cur _ (fun s a => by split <;> simp [zeroExpired_cur]) l s
    split
    · refine (foldl_same State.cur (fun s (u : Acs) => s.fillTlb core ctx u.addr) (fun s a => fillTlb_cur _ _ _ _) _ _).trans ?_
      split
      · exact hz _ _ _ _
      · rfl
    · split
      · exact hz _ _ _ _
      · rfl

end Sys2Proof.Laws
end

