-- ==== Sys2Proof/Laws/Operands.lean ====
section
/-! SUPPORT. Values of a type as bit vectors: reading a pattern, narrowing an exact result, a scalar's result. -/
namespace Sys2Proof.Laws
open Sys2Proof Sys2Proof.Machine

theorem tyVal_signed (w : Nat) (p : Nat) : tyVal ⟨w, true⟩ p = (BitVec.ofNat w p).toInt := by
  simp only [tyVal, BitVec.toInt, BitVec.toNat_ofNat, Bool.true_and, decide_eq_true_eq]
  rcases Nat.eq_zero_or_pos w with rfl | hw
  · simp [Nat.mod_one]
  · have h2 : 2 ^ w = 2 * 2 ^ (w - 1) := by rw [← Nat.pow_succ']; congr 1; omega
    have hlt : p % 2 ^ w < 2 ^ w := Nat.mod_lt _ (Nat.two_pow_pos w)
    have hc : ((2 ^ w : Nat) : Int) = (2 : Int) ^ w := by push_cast; rfl
    split <;> split <;> omega

theorem tyVal_unsigned (w : Nat) (p : Nat) : tyVal ⟨w, false⟩ p = ((BitVec.ofNat w p).toNat : Int) := by
  simp [tyVal]

theorem fitTy_wrap (w : Nat) (g : Bool) (r : Int) : fitTy ⟨w, g⟩ false r = (BitVec.ofInt w r).toNat := by
  simp [fitTy, BitVec.toNat_ofInt]

/-- An exact result wrapped and read again is the result modulo 2^w. -/
theorem tyVal_fit_signed (w : Nat) (r : Int) : tyVal ⟨w, true⟩ (fitTy ⟨w, true⟩ false r) = (BitVec.ofInt w r).toInt := by
  rw [tyVal_signed, fitTy_wrap, BitVec.ofNat_toNat, BitVec.setWidth_eq]

theorem tyVal_fit_unsigned (w : Nat) (r : Int) :
    tyVal ⟨w, false⟩ (fitTy ⟨w, false⟩ false r) = ((BitVec.ofInt w r).toNat : Int) := by
  rw [tyVal_unsigned, fitTy_wrap, BitVec.ofNat_toNat, BitVec.setWidth_eq]

theorem intTy_i32 : intTy 0 = ⟨32, true⟩ := rfl
theorem intTy_n32 : intTy 1 = ⟨32, false⟩ := rfl
theorem intTy_i64 : intTy 6 = ⟨64, true⟩ := rfl
theorem intTy_n64 : intTy 7 = ⟨64, false⟩ := rfl

theorem sFit_i64 (r : Int) : sFit 6 false r = BitVec.ofInt 64 r := by
  rw [sFit, sExt, intTy_i64, tyVal_fit_signed, BitVec.ofInt_toInt]

theorem sFit_n64 (r : Int) : sFit 7 false r = BitVec.ofInt 64 r := by
  rw [sFit, sExt, intTy_n64, tyVal_fit_unsigned, BitVec.ofInt_natCast, BitVec.ofNat_toNat, BitVec.setWidth_eq]

theorem sFit_i32 (r : Int) : sFit 0 false r = (BitVec.ofInt 32 r).signExtend 64 := by
  rw [sFit, sExt, intTy_i32, tyVal_fit_signed, BitVec.signExtend]

theorem sFit_n32 (r : Int) : sFit 1 false r = (BitVec.ofInt 32 r).zeroExtend 64 := by
  rw [sFit, sExt, intTy_n32, tyVal_fit_unsigned, BitVec.ofInt_natCast, BitVec.ofNat_toNat]

theorem sVal_i64 (v : DWord) : sVal 6 v = v.toInt := by
  rw [sVal, intTy_i64, tyVal_signed, BitVec.ofNat_toNat, BitVec.setWidth_eq]
theorem sVal_n64 (v : DWord) : sVal 7 v = (v.toNat : Int) := by
  rw [sVal, intTy_n64, tyVal_unsigned, BitVec.ofNat_toNat, BitVec.setWidth_eq]
theorem ofNat_low (v : DWord) : BitVec.ofNat 32 v.toNat = v.extractLsb' 0 32 := by
  apply BitVec.eq_of_toNat_eq
  simp [BitVec.extractLsb'_toNat]
theorem sVal_i32 (v : DWord) : sVal 0 v = (v.extractLsb' 0 32).toInt := by
  rw [sVal, intTy_i32, tyVal_signed, ofNat_low]
theorem sVal_n32 (v : DWord) : sVal 1 v = ((v.extractLsb' 0 32).toNat : Int) := by
  rw [sVal, intTy_n32, tyVal_unsigned, ofNat_low]

end Sys2Proof.Laws
end

