-- ==== Sys2Proof/Safety.lean ====
section
/-! DEFINITION. What counts as a safe run: the machine never stops, and the canonical forms of its tables hold; and the conditions under
which the statements say that an op completes. -/
namespace Sys2Proof.Safety
open Sys2Proof Sys2Proof.Machine

/-- The memory is in its canonical form: keys rising, no listed byte equal to what an unlisted one reads as. -/
def memWf (s : State) : Bool := twf 0 s.mem

/-- A step is safe: it answers a next state. -/
def stepSafe (s : State) : Bool := match step s with | .next _ => true | _ => false

/-- Nothing but the op itself decides its outcome: no queued matrix op has yet to read a register it writes (12 R260), and none of the
register words `reads` is lost to a soft error (20 R413). -/
def readsFree (i : Instr) (reads : List (Nat × Nat)) (s : State) : Bool :=
  !accHeld i s && (lostAt s.me reads).isNone

/-- The same for an op that reads its named registers in its active lanes. -/
def opFree (i : Instr) (s : State) : Bool := readsFree i (laneReads i s) s

end Sys2Proof.Safety
end

