-- ==== Sys2Proof/Laws/Slot.lean ====
section
/-! SUPPORT. What the end of an instruction does: the answer of an op that nothing else decides, and of one that must wait or trap. -/
namespace Sys2Proof.Laws
open Sys2Proof Sys2Proof.Machine Sys2Proof.Safety

theorem opReading_free {i : Instr} {reads : List (Nat × Nat)} {s : State} (h : readsFree i reads s = true) (r : Res) :
    opReading i reads s r = .next (settle r) := by
  simp only [readsFree, Bool.and_eq_true, Bool.not_eq_true', Option.isNone_iff_eq_none] at h
  simp [opReading, h.1, h.2, finish]

theorem op_free {i : Instr} {s : State} (h : opFree i s = true) (r : Res) : op i s r = .next (settle r) :=
  opReading_free h r

theorem op_done {i : Instr} {s : State} (h : opFree i s = true) (t : State) : op i s (.done t) = .next t.slotDone :=
  op_free h _

/-- Every answer of an op is a next state. -/
theorem op_next (i : Instr) (s : State) (reads : List (Nat × Nat)) (r : Res) : ∃ t, opReading i reads s r = .next t := by
  unfold opReading
  split
  · exact ⟨_, rfl⟩
  · split <;> exact ⟨_, rfl⟩

end Sys2Proof.Laws
end

