-- ==== Sys2Proof/Certificates/Slice0/Obligations.lean ====
section
/-! DEFINITION. The statements for the provers. "Completes" is always `exec … = .next …`, under conditions on the state and the operands alone;
`opFree` says that nothing but the op decides its outcome (12 R260, 20 R413). -/
open Sys2Proof Sys2Proof.Machine Sys2Proof.Safety

/-- 07 R135-R145: decoding an encoded instruction gives it back, for every instruction that is an op and every operand its encoding admits (register
numbers below 256 throughout): alone in form 00, and, where it takes no extension, in either slot of form 10. -/
def Obligations.DecodeOfEncode : Prop :=
  (∀ i : Instr, isOp i = true → wf i = true → ((extOf i).isSome ∨ isClassE i = false) →
    regOk freeEnv i = true → decodeWord freeEnv (encode i) = .ok ⟨false, false, i, none⟩) ∧
  (∀ (i j : Instr) (sw : Bool), isOp i = true → isOp j = true → opLegal i = true → opLegal j = true →
    extOf i = none → extOf j = none → isSolo i = false → isSolo j = false → isControl i = false →
    regOk freeEnv i = true → regOk freeEnv j = true → decodeWord freeEnv (wordOf 2 sw (encodeOp i) (encodeOp j)) = .ok ⟨sw, true, i, some j⟩)

/-- 07 R135, R143: no bit of a word is dropped: a word that passes its checks is rebuilt from what decoding answers. -/
def Obligations.DecodeDropsNoBit : Prop :=
  ∀ (env : WordEnv) (w : IWord) (d : Decoded), decodeWord env w = .ok d →
    (∀ j, d.b = some j → w = wordOf (if d.ordered then 2 else 1) d.sw (encodeOp d.a) (encodeOp j)) ∧
    (d.b = none → d.ordered = false ∧ w = wordOf 0 d.sw (encodeOp d.a) ((extOf d.a).getD 0))

/-- 07 R146: every opcode the opcode map leaves unassigned traps E_ILLEGAL, in slot A of every form and in slot B of forms 01 and 10; slot B behind one
in form 00 changes nothing. -/
def Obligations.UnassignedOpcodes : Prop :=
  let unassigned (n : Nat) : Prop :=
    n = 0x00 ∨ (0x0C ≤ n ∧ n ≤ 0x0F) ∨ (0x26 ≤ n ∧ n ≤ 0x2F) ∨ (0x58 ≤ n ∧ n ≤ 0x5F) ∨ (0x7C ≤ n ∧ n ≤ 0x8F) ∨
    (0x97 ≤ n ∧ n ≤ 0x9F) ∨ (0xB1 ≤ n ∧ n ≤ 0xBF) ∨ (0xCB ≤ n ∧ n ≤ 0xCF) ∨ (0xDD ≤ n ∧ n ≤ 0xDF) ∨
    (0xE4 ≤ n ∧ n ≤ 0xE7) ∨ n = 0xEF ∨ 0xF0 ≤ n
  ∀ (env : WordEnv) (w : IWord),
    (unassigned (opcOf (slotA w)).toNat → decodeWord env w = .error .illegal) ∧
    (formOf w ≠ 0 → unassigned (opcOf (slotB w)).toNat → decodeWord env w = .error .illegal) ∧
    (∀ s : State, decodeWord (wordEnv s.me s.frag) w = .error .illegal →
      exec (.illegalWord w) s = .next (((s.setFrag { s.frag with triedB := true }).raise .illegal 0).slotFailed none))

/-- 07 R136, R144, R147, R151: the forms. FORM 11 and bit 92 are illegal before anything else; in form 00 an op without an extension needs slot B zero;
in form 01 or 10 a solo op in either slot, or a control op in slot A, is E_PAIR once both ops are legal; and in form 01 so are two ops of one class.
A word that passes has legal ops. 07 R148: a word of form 01 that passes its checks joins two ops of different classes, at most two vector-register
reads in a bank, at most one scalar register other than s0 read, neither op reading or writing a register the other writes (s0 and p0 discard
writes). Where the spec leaves a point open this rests on the model's reading or choice in log entry 33. -/
def Obligations.WordFormsAndJointIssue : Prop :=
  (∀ (env : WordEnv) (w : IWord),
    (formOf w = 3 ∨ w.getLsbD 92 = true → decodeWord env w = .error .illegal) ∧
    (formOf w = 0 → opcTakesExt (opcOf (slotA w)) = false → slotB w ≠ 0 → decodeWord env w = .error .illegal) ∧
    (∀ i j, formOf w = 1 ∨ formOf w = 2 → w.getLsbD 92 = false → decodeOp (slotA w) none = some i → decodeOp (slotB w) none = some j →
      opLegal i = true → opLegal j = true → headerLegal env.uni env.leaf i = true → headerLegal env.uni env.leaf j = true →
      (isSolo i = true ∨ isSolo j = true ∨ isControl i = true → decodeWord env w = .error .pair) ∧
      (formOf w = 1 → opClass (opcode i).toNat = opClass (opcode j).toNat → decodeWord env w = .error .pair)) ∧
    (∀ d, decodeWord env w = .ok d →
      formOf w ≠ 3 ∧ w.getLsbD 92 = false ∧ opLegal d.a = true ∧ headerLegal env.uni env.leaf d.a = true ∧ regOk env d.a = true ∧
      (∀ j, d.b = some j → opLegal j = true ∧ headerLegal env.uni env.leaf j = true ∧ regOk env j = true ∧
        isSolo d.a = false ∧ isSolo j = false ∧ isControl d.a = false))) ∧
  (∀ (env : WordEnv) (w : IWord) (d : Decoded) (j : Instr), decodeWord env w = .ok d → formOf w = 1 → d.b = some j →
    let u := useOf env d.a
    let v := useOf env j
    let apart (l m : List Nat) : Prop := ∀ r, r ∈ l → r ∉ m
    let apart0 (l m : List Nat) : Prop := ∀ r, r ≠ 0 → r ∈ l → r ∉ m
    opClass (opcode d.a).toNat ≠ opClass (opcode j).toNat ∧
    (∀ b, b < 4 → ((u.vr ++ v.vr).dedup.filter (· % 4 = b)).length + u.banks + v.banks ≤ 2) ∧
    (∀ a ∈ u.sr ++ v.sr, ∀ b ∈ u.sr ++ v.sr, a ≠ 0 → b ≠ 0 → a = b) ∧
    apart (u.vr ++ u.vrun) (v.vw ++ v.wrun) ∧ apart (v.vr ++ v.vrun) (u.vw ++ u.wrun) ∧
    apart (u.vw ++ u.wrun) (v.vw ++ v.wrun) ∧
    apart0 u.sr v.sw ∧ apart0 v.sr u.sw ∧ apart0 u.sw v.sw ∧ apart0 u.pr v.pw ∧ apart0 v.pr u.pw ∧ apart0 u.pw v.pw ∧
    apart u.xr v.xw ∧ apart v.xr u.xw ∧ apart u.xw v.xw ∧ apart u.jr v.jw ∧ apart v.jr u.jw ∧ apart u.jw v.jw)

/-- 07 R137-R145, examples of 07 to 18: words written out from the encoding tables decode to the instructions they stand for. 06 R122, R123, 00 R8:
bytes and fields. A word is twelve bytes, the least significant first, and what follows it is left; a header word is its fields, and decoding reads
each from its place. -/
def Obligations.SpecWordsDecode : Prop :=
  (decodeWord freeEnv 0x0100C1010141800000000000 =
    .ok ⟨false, false, .sadd ⟨⟨0, false⟩, 6, 4, 4, 5, 6⟩, none⟩ ∧
  decodeWord freeEnv 0x092000000000000000000000 = .ok ⟨false, false, .mswp ⟨⟨0, false⟩, 0, 0, 0, 0, 0⟩, none⟩ ∧
  decodeWord freeEnv 0x054000420008000000000000 =
    .ok ⟨false, false, .xset ⟨⟨0, false⟩, 0, 2, 16, 32⟩, none⟩ ∧
  decodeWord freeEnv 0x090020800500800000000000 =
    .ok ⟨false, false, .mld ⟨⟨0, false⟩, 1, 0, 0, true, 0, 0, 10, 2⟩ (some 0), none⟩ ∧
  decodeWord freeEnv 0x07A040020801C00000000000 =
    .ok ⟨false, false, .vqnt ⟨⟨0, false⟩, 2, 0, 8, 32, 7⟩, none⟩ ∧
  decodeWord freeEnv 0x0A4040848604000000000000 =
    .ok ⟨false, false, .ldq ⟨⟨0, false⟩, 2, 0, 0, true, 0, 36, 12, 16⟩ (some 0), none⟩ ∧
  decodeWord freeEnv 0 = .error .illegal) ∧
  ((∀ (w : IWord) (rest : List Byte), wordOfBytes (leBytes 12 w.toNat ++ rest) = some (w, rest)) ∧
  (∀ (env : WordEnv) (w : IWord) (rest : List Byte), decodeBytes env (leBytes 12 w.toNat ++ rest) = some (decodeWord env w, rest)) ∧
  (∀ l : List Byte, l.length < 12 → wordOfBytes l = none) ∧
  (∀ w : DWord, encodeHeader (decodeHeader w) = w) ∧ (∀ h : Header, decodeHeader (encodeHeader h) = h) ∧
  (∀ (hd : DWord) (h : Header), headerValid hd h = true → h.tag = 0xA5 ∧ h.len ≠ 0 ∧ h.zero = 0) ∧
  (∀ (hd : DWord) (h : Header), fallThrough hd h = hd + BitVec.ofNat 64 ((8 + 12 * h.len.toNat + 7) / 8 * 8)))

/-- 09 R185 for the 64-bit types without SAT, in the two's-complement arithmetic of 64-bit words: i64 (TY 110) and n64 (TY 111). 09 R184, R185 for the
32-bit types without SAT: sources are bits 31:0, the result is sign-extended for i32 (TY 000) and zero-extended for n32 (TY 001). 09 R185 with SAT:
the exact result clamped to the type's range, for `sadd`, `ssub` and `smul` of every scalar type. -/
def Obligations.ScalarArithmetic : Prop :=
  (∀ (o : G3) (s : State), satOf o.mod = false →
    let a := sreg s.me o.va
    let b := sreg s.me o.vb
    let put (v : DWord) : Host.Outcome State Fault Refusal := .next (s.setS o.vd.toNat v).slotDone
    ((o.ty = 6 ∨ o.ty = 7) →
      (opFree (.sadd o) s = true → exec (.sadd o) s = put (a + b)) ∧
      (opFree (.ssub o) s = true → exec (.ssub o) s = put (a - b)) ∧
      (opFree (.smul o) s = true → exec (.smul o) s = put (a * b)) ∧
      (opFree (.sand o) s = true → exec (.sand o) s = put (a &&& b)) ∧
      (opFree (.sor o) s = true → exec (.sor o) s = put (a ||| b)) ∧
      (opFree (.sxor o) s = true → exec (.sxor o) s = put (a ^^^ b)) ∧
      (opFree (.sshl o) s = true → exec (.sshl o) s = put (a <<< (b.toNat % 64)))) ∧
    (o.ty = 6 →
      (opFree (.smulh o) s = true → exec (.smulh o) s = put ((a.signExtend 128 * b.signExtend 128).extractLsb' 64 64)) ∧
      (opFree (.sdiv o) s = true → exec (.sdiv o) s = put (if b = 0 then allOnes else a.sdiv b)) ∧
      (opFree (.srem o) s = true → exec (.srem o) s = put (a.srem b)) ∧
      (opFree (.sshr o) s = true → exec (.sshr o) s = put (a.sshiftRight (b.toNat % 64))) ∧
      (opFree (.smin o) s = true → exec (.smin o) s = put (if a.slt b then a else b)) ∧
      (opFree (.smax o) s = true → exec (.smax o) s = put (if a.slt b then b else a))) ∧
    (o.ty = 7 →
      (opFree (.smulh o) s = true → exec (.smulh o) s = put ((a.zeroExtend 128 * b.zeroExtend 128).extractLsb' 64 64)) ∧
      (opFree (.sdiv o) s = true → exec (.sdiv o) s = put (if b = 0 then allOnes else a / b)) ∧
      (opFree (.srem o) s = true → exec (.srem o) s = put (a % b)) ∧
      (opFree (.sshr o) s = true → exec (.sshr o) s = put (a >>> (b.toNat % 64))) ∧
      (opFree (.smin o) s = true → exec (.smin o) s = put (if a < b then a else b)) ∧
      (opFree (.smax o) s = true → exec (.smax o) s = put (if a < b then b else a)))) ∧
  (∀ (o : G3) (s : State), satOf o.mod = false → (o.ty = 0 ∨ o.ty = 1) →
    let a : Word := (sreg s.me o.va).extractLsb' 0 32
    let b : Word := (sreg s.me o.vb).extractLsb' 0 32
    let put (v : Word) : Host.Outcome State Fault Refusal :=
      .next (s.setS o.vd.toNat (if o.ty = 0 then v.signExtend 64 else v.zeroExtend 64)).slotDone
    (opFree (.sadd o) s = true → exec (.sadd o) s = put (a + b)) ∧
    (opFree (.ssub o) s = true → exec (.ssub o) s = put (a - b)) ∧
    (opFree (.smul o) s = true → exec (.smul o) s = put (a * b)) ∧
    (opFree (.sand o) s = true → exec (.sand o) s = put (a &&& b)) ∧
    (opFree (.sor o) s = true → exec (.sor o) s = put (a ||| b)) ∧
    (opFree (.sxor o) s = true → exec (.sxor o) s = put (a ^^^ b)) ∧
    (opFree (.sshl o) s = true → exec (.sshl o) s = put (a <<< (b.toNat % 32))) ∧
    (o.ty = 0 →
      (opFree (.smulh o) s = true → exec (.smulh o) s = put ((a.signExtend 64 * b.signExtend 64).extractLsb' 32 32)) ∧
      (opFree (.sdiv o) s = true → exec (.sdiv o) s = put (if b = 0 then 0xFFFFFFFF else a.sdiv b)) ∧
      (opFree (.srem o) s = true → exec (.srem o) s = put (a.srem b)) ∧
      (opFree (.sshr o) s = true → exec (.sshr o) s = put (a.sshiftRight (b.toNat % 32))) ∧
      (opFree (.smin o) s = true → exec (.smin o) s = put (if a.slt b then a else b)) ∧
      (opFree (.smax o) s = true → exec (.smax o) s = put (if a.slt b then b else a))) ∧
    (o.ty = 1 →
      (opFree (.smulh o) s = true → exec (.smulh o) s = put ((a.zeroExtend 64 * b.zeroExtend 64).extractLsb' 32 32)) ∧
      (opFree (.sdiv o) s = true → exec (.sdiv o) s = put (if b = 0 then 0xFFFFFFFF else a / b)) ∧
      (opFree (.srem o) s = true → exec (.srem o) s = put (a % b)) ∧
      (opFree (.sshr o) s = true → exec (.sshr o) s = put (a >>> (b.toNat % 32))) ∧
      (opFree (.smin o) s = true → exec (.smin o) s = put (if a < b then a else b)) ∧
      (opFree (.smax o) s = true → exec (.smax o) s = put (if a < b then b else a)))) ∧
  (∀ (o : G3) (s : State), satOf o.mod = true →
    let clamp (lo hi r : Int) : Int := if r < lo then lo else if hi < r then hi else r
    let put (r : Int) : Host.Outcome State Fault Refusal := .next (s.setS o.vd.toNat (BitVec.ofInt 64 r)).slotDone
    let all (val : DWord → Int) (lo hi : Int) : Prop :=
      let a := val (sreg s.me o.va)
      let b := val (sreg s.me o.vb)
      (opFree (.sadd o) s = true → exec (.sadd o) s = put (clamp lo hi (a + b))) ∧
      (opFree (.ssub o) s = true → exec (.ssub o) s = put (clamp lo hi (a - b))) ∧
      (opFree (.smul o) s = true → exec (.smul o) s = put (clamp lo hi (a * b)))
    (o.ty = 6 → all (fun v => v.toInt) (-2 ^ 63) (2 ^ 63 - 1)) ∧
    (o.ty = 7 → all (fun v => v.toNat) 0 (2 ^ 64 - 1)) ∧
    (o.ty = 0 → all (fun v => (v.extractLsb' 0 32).toInt) (-2 ^ 31) (2 ^ 31 - 1)) ∧
    (o.ty = 1 → all (fun v => (v.extractLsb' 0 32).toNat) 0 (2 ^ 32 - 1)))

/-- 09 R186-R188: comparison, selection and bit counts, and the immediates. A comparison and `sbit` read their sources as TY states; `ssel` tests and
copies all 64 bits; `saddi` wraps; `slui` shifts by 15 and ORs its immediate; `sli` joins IMM to its extension. 09 R189: `sget` writes the
identifier IMM names to sD; a cohort that is no grid's reads all ones for the grid's numbers. -/
def Obligations.ScalarTestsAndIdentifiers : Prop :=
  (∀ (s : State),
    let put (d : BitVec 8) (v : DWord) : Host.Outcome State Fault Refusal := .next (s.setS d.toNat v).slotDone
    (∀ o : G3, opFree (.scmp o) s = true → o.ty = 6 ∨ o.ty = 7 →
      let a := sreg s.me o.va
      let b := sreg s.me o.vb
      let lt := if o.ty = 6 then a.slt b else a.ult b
      (fnOf o.mod = 0 → exec (.scmp o) s = put o.vd (if a = b then 1 else 0)) ∧
      (fnOf o.mod = 1 → exec (.scmp o) s = put o.vd (if a = b then 0 else 1)) ∧
      (fnOf o.mod = 2 → exec (.scmp o) s = put o.vd (if lt then 1 else 0)) ∧
      (fnOf o.mod = 3 → exec (.scmp o) s = put o.vd (if lt then 0 else 1)) ∧
      (fnOf o.mod = 4 → exec (.scmp o) s = put o.vd (if lt ∨ a = b then 0 else 1)) ∧
      (fnOf o.mod = 5 → exec (.scmp o) s = put o.vd (if lt ∨ a = b then 1 else 0))) ∧
    (∀ o : G3, opFree (.scmp o) s = true → o.ty = 0 ∨ o.ty = 1 →
      let a : Word := (sreg s.me o.va).extractLsb' 0 32
      let b : Word := (sreg s.me o.vb).extractLsb' 0 32
      let lt := if o.ty = 0 then a.slt b else a.ult b
      (fnOf o.mod = 0 → exec (.scmp o) s = put o.vd (if a = b then 1 else 0)) ∧
      (fnOf o.mod = 1 → exec (.scmp o) s = put o.vd (if a = b then 0 else 1)) ∧
      (fnOf o.mod = 2 → exec (.scmp o) s = put o.vd (if lt then 1 else 0)) ∧
      (fnOf o.mod = 3 → exec (.scmp o) s = put o.vd (if lt then 0 else 1)) ∧
      (fnOf o.mod = 4 → exec (.scmp o) s = put o.vd (if lt ∨ a = b then 0 else 1)) ∧
      (fnOf o.mod = 5 → exec (.scmp o) s = put o.vd (if lt ∨ a = b then 1 else 0))) ∧
    (∀ o : G3, opFree (.ssel o) s = true →
      exec (.ssel o) s = put o.vd (if sreg s.me o.vd = 0 then sreg s.me o.vb else sreg s.me o.va)) ∧
    (∀ o : G3, opFree (.sbit o) s = true →
      let w := if o.ty = 0 ∨ o.ty = 1 then 32 else 64
      let a := sreg s.me o.va
      let ext (v : DWord) : DWord :=
        if o.ty = 0 then (v.extractLsb' 0 32).signExtend 64 else if o.ty = 1 then (v.extractLsb' 0 32).zeroExtend 64 else v
      o.ty = 0 ∨ o.ty = 1 ∨ o.ty = 6 ∨ o.ty = 7 →
      (fnOf o.mod = 0 → ∃ v, exec (.sbit o) s = put o.vd v ∧ v.toNat = ((List.range w).filter fun i => a.getLsbD i).length) ∧
      (fnOf o.mod = 1 → ∃ v, exec (.sbit o) s = put o.vd v ∧ v.toNat ≤ w ∧
        (∀ i, w - v.toNat ≤ i → i < w → a.getLsbD i = false) ∧ (v.toNat < w → a.getLsbD (w - 1 - v.toNat) = true)) ∧
      (fnOf o.mod = 2 → ∃ v, exec (.sbit o) s = put o.vd v ∧ v.toNat ≤ w ∧
        (∀ i, i < v.toNat → a.getLsbD i = false) ∧ (v.toNat < w → a.getLsbD v.toNat = true)) ∧
      (fnOf o.mod = 3 → ∃ v, exec (.sbit o) s = put o.vd (ext v) ∧ ∀ i, i < w → v.getLsbD i = a.getLsbD (w - 1 - i)) ∧
      (fnOf o.mod = 4 → ∃ v, exec (.sbit o) s = put o.vd (ext v) ∧
        ∀ i, i < w → v.getLsbD i = a.getLsbD (w - 8 - i / 8 * 8 + i % 8)) ∧
      (fnOf o.mod = 5 → exec (.sbit o) s = put o.vd (ext a))) ∧
    (∀ o : GI, opFree (.saddi o) s = true →
      let a := sreg s.me o.va
      let r := a + o.imm.signExtend 64
      (o.ty = 6 ∨ o.ty = 7 → exec (.saddi o) s = put o.vd r) ∧
      (o.ty = 0 → exec (.saddi o) s = put o.vd ((r.extractLsb' 0 32).signExtend 64)) ∧
      (o.ty = 1 → exec (.saddi o) s = put o.vd ((r.extractLsb' 0 32).zeroExtend 64))) ∧
    (∀ o : GI, opFree (.slui o) s = true →
      exec (.slui o) s = put o.vd (sreg s.me o.va * 2 ^ 15 ||| BitVec.ofNat 64 o.imm.toNat)) ∧
    (∀ (o : GI) (x : BitVec 46), opFree (.sli o (some x)) s = true →
      (o.ty = 6 → exec (.sli o (some x)) s = put o.vd (BitVec.ofInt 64 (o.imm.toInt * 2 ^ 46 + x.toNat))) ∧
      (o.ty = 7 → exec (.sli o (some x)) s = put o.vd (BitVec.ofNat 64 (o.imm.toNat * 2 ^ 46 + x.toNat))))) ∧
  (∀ (o : GI) (s : State), opFree (.sget o) s = true →
    let c := s.me
    let b := s.blk c.blk
    let g := s.grid c.gid
    let got (id : Nat) (v : DWord) : Prop := o.imm.toNat = id → exec (.sget o) s = .next (s.setS o.vd.toNat v).slotDone
    got 0x000 (dw c.w) ∧ got 0x00D (dw (dieOf s.cur.cid)) ∧ got 0x00E (dw (coreOf s.cur.cid % 88)) ∧
    got 0x00F (dw (s.cur.cid % 2048)) ∧ got 0x010 c.live ∧ got 0x011 s.frag.mask ∧ got 0x012 (dw c.nreg) ∧
    (c.kind = .grid →
      let gx := bits (g.rcd.getD 4 0) 0 32
      let gy := bits (g.rcd.getD 4 0) 32 16
      got 0x001 (dw (b.idx % gx)) ∧ got 0x002 (dw (b.idx / gx % gy)) ∧ got 0x003 (dw (b.idx / gx / gy)) ∧
      got 0x004 (dw gx) ∧ got 0x005 (dw gy) ∧ got 0x006 (dw (bits (g.rcd.getD 4 0) 48 16)) ∧
      got 0x007 (dw (bits (g.rcd.getD 5 0) 0 13)) ∧ got 0x008 (dw (bits (g.rcd.getD 5 0) 13 13)) ∧
      got 0x009 (dw (bits (g.rcd.getD 5 0) 26 13)) ∧ got 0x00A (dw b.cluster) ∧ got 0x00B (dw b.j) ∧
      got 0x00C (if dieGang g then dw (diex g b.die) else allOnes) ∧ got 0x013 (dw ((b.threads + c.w - 1) / c.w)) ∧
      got 0x014 (dw b.cores.length) ∧ got 0x015 (dw c.part)) ∧
    (c.kind ≠ .grid →
      (∀ id, 1 ≤ id → id ≤ 12 → got id allOnes) ∧
      got 0x013 1 ∧ got 0x014 1 ∧ got 0x015 0))

/-- 09 R190-R192, 14 R283-R287: loads and stores whose checks pass. Where no unit is poisoned, no line is another lease's, no earlier access of the
cohort to these bytes is still to be made, no copy of an uncached line has to leave first and the core's port has room, a load leaves its result
outstanding for each unit: base + OFF·size (+ the extension in form 00), a lane further by `size`, or sB + zext(vA[l]). A store's bytes are stored
unit by unit; one that is a release, or the first write after a release fence, once its release is made. `pref` completes whatever it meets. -/
def Obligations.LoadsAndStoresComplete : Prop :=
  ∀ (s : State) (x : Ext),
    let core := coreOf s.cur.cid
    let loads (i : Instr) (sp : BitVec 2) (us : List Acs) (ca : Bool) (ord : BitVec 2) (sc : BitVec 3)
        (rds : Acs × Nat × BitVec 2 → List LaneRd) : Prop :=
      opFree i s = true → ∀ l s' u, checkMine s sp .read true false us = .ok l s' →
        (∀ x ∈ l, unitPoisoned s' x.2.1 x.1.size = false ∧ unitDown s' x.2.1 = false) →
        leaseHolds s' (coreOf s'.cur.cid) s'.cur.cid l = false →
        atomLate s' s'.cur.cid (unitKeys l) = false → planeLate s' s'.cur.cid (unitKeys l) = false →
        s'.uncacheAll (coreOf s'.cur.cid) l = (true, u) →
        missUse u (coreOf s'.cur.cid) + newMisses u (coreOf s'.cur.cid) l ≤ 128 →
        exec i s = .next (u.issueLoad (l.flatMap rds) (cohsOf l) ca (if isAcq ord then some sc else none)).slotDone
    let stores (i : Instr) (sp : BitVec 2) (us : List Acs) (ca : Bool) (ord : BitVec 2) (sc : BitVec 3)
        (data : Acs → List Byte) : Prop :=
      opFree i s = true → ∀ l s' t u, checkMine s sp .write false true us = .ok l s' →
        let cid := s'.cur.cid
        let core := coreOf cid
        let rel := relScope s' (isRel ord) sc.toNat
        leaseHolds s' core cid l = false → readLate s' cid (unitKeys l) = false → atomLate s' cid (unitKeys l) = false →
        s'.uncacheAll core l = (true, t) →
        let ls := lcTargets t core l ca
        let direct := l.filter fun x => !isScratch x.2.1 && !ls.contains (lineOf x.2.1)
        let leaves := !direct.isEmpty || 1 < ls.length || ls.any fun l => (leased t core l).isSome || leaseAsked t core l
        missUse t core + direct.length ≤ 128 →
        (∀ x ∈ direct, chanFull t (dieOfCore core) (homeAgent t (lineOf x.2.1) (dieOfCore core)) = false) →
        (rel = none → u = t) → (∀ n, rel = some n → t.release t.cur.cid n leaves = (true, u) ∧ otherRel u core ls = none) →
        exec i s = .next ((l.foldl (fun v x => v.storeAt cid x.2.1 x.1.addr x.2.2 ca rel (!leaves) (data x.1)) u).relMade).slotDone
    (∀ o : M, loads (.sld o x) o.sp [⟨0, memAddr s.me o x (szBytes o.sz), szBytes o.sz⟩] o.ca o.ord o.sc
      (oneRead (o.sz.toNat ≥ 4) fun _ => [.s o.vd.toNat])) ∧
    (∀ o : M, loads (.ld o x) o.sp (strideUnits s o x (szBytes o.sz)) o.ca o.ord o.sc
      (oneRead (o.sz.toNat ≥ 4) (laneDst o.sz o.vd))) ∧
    (∀ o : M, loads (.ldq o x) o.sp (strideUnits s o x 16) o.ca o.ord o.sc (quadReads o.vd)) ∧
    (∀ o : MG, loads (.ldg o) o.sp (gatherUnits s o) o.ca o.ord o.sc (oneRead (o.sz.toNat ≥ 4) (laneDst o.sz o.vd))) ∧
    (∀ o : M, stores (.sst o x) o.sp [⟨0, memAddr s.me o x (szBytes o.sz), szBytes o.sz⟩] o.ca o.ord o.sc
      fun _ => leBytes (szBytes o.sz) (srd s.me o.vd.toNat).toNat) ∧
    (∀ o : M, stores (.st o x) o.sp (strideUnits s o x (szBytes o.sz)) o.ca o.ord o.sc (laneData s.me o.sz o.vd)) ∧
    (∀ o : M, stores (.stq o x) o.sp (strideUnits s o x 16) o.ca o.ord o.sc (quadData s.me o.vd)) ∧
    (∀ o : MG, stores (.stg o) o.sp (gatherUnits s o) o.ca o.ord o.sc (laneData s.me o.sz o.vd)) ∧
    (∀ o : M, opFree (.pref o x) s = true →
      exec (.pref o x) s = .next (if o.vd = 0 ∧ o.sp = 0 then
        (strideUnits s o x (szBytes o.sz)).foldl (fun t u => t.prefetch core s.me.ctx u.addr) s else s).slotDone)

/-- 09 R194-R202: the control ops. A transfer goes where `destination` has checked and fetched; `bc` compares sSA as a signed number with zero, `loop`
counts down, `call` saves the fall-through header in s62, `ret` and `jmpi` take an 8-byte aligned address, `bv` moves the whole fragment when its
lanes agree, `exit` waits for the results of its lanes, `yield` stops the cohort for min(sSA, 65,535) cycles. 08 R161, R162, 09 R197: `bv`. With no
lane of the fragment true it does not transfer, with every lane true the fragment transfers; on a disagreement U = 1 traps E_UNIFORM with the mask
of true lanes and nothing changed, and a split that would take the table above 64 entries (or any in the handler) traps E_SPLITDEPTH; U = 0 in a
block with UNI = 1 is E_ILLEGAL; else the true lanes go to the target and the others on, with a join entry where the block's RECON names a header.
08 R162: what a split makes of the split table: with a join header the fragment's entry becomes the join entry of two new children, the true lanes
first; without one the fragment keeps the true lanes and one new entry holds the others. -/
def Obligations.ControlOps : Prop :=
  (∀ (o : C) (s : State),
    let sa := srd s.me o.sa.toNat
    let here := joinHeader s.me s.frag
    let tgt : DWord := s.frag.hdr + BitVec.ofInt 64 (8 * o.tgt.toInt)
    let goes (i : Instr) (hdr : DWord) (k : State → State) : Prop :=
      ∀ d s', destination s here hdr = .ok (d, s') → exec i s = .next ((k s').owe (.go d)).slotDone
    let stays (i : Instr) : Prop := exec i s = .next s.slotDone
    (opFree (.nop o) s = true → stays (.nop o)) ∧
    (opFree (.br o) s = true → goes (.br o) tgt id) ∧
    (opFree (.bc o) s = true →
      let yes : Prop := (o.cc = 0 ∧ sa.toInt = 0) ∨ (o.cc = 1 ∧ sa.toInt ≠ 0) ∨ (o.cc = 2 ∧ sa.toInt < 0) ∨
        (o.cc = 3 ∧ 0 ≤ sa.toInt) ∨ (o.cc = 4 ∧ 0 < sa.toInt) ∨ (o.cc = 5 ∧ sa.toInt ≤ 0)
      (yes → goes (.bc o) tgt id) ∧ (¬ yes → o.cc.toNat ≤ 5 → stays (.bc o))) ∧
    (opFree (.call o) s = true →
      goes (.call o) tgt fun t => t.setS 62 (fallThrough t.frag.hdr t.frag.header)) ∧
    (opFree (.ret o) s = true → sa.toNat % 8 = 0 → goes (.ret o) sa id) ∧
    (opFree (.jmpi o) s = true →
      let a := sa + BitVec.ofInt 64 (8 * o.tgt.toInt)
      a.toNat % 8 = 0 → goes (.jmpi o) a id) ∧
    (opFree (.loop o) s = true →
      (sa - 1 ≠ 0 → goes (.loop o) tgt fun t => t.setS o.sa.toNat (sa - 1)) ∧
      (sa - 1 = 0 → exec (.loop o) s = .next (s.setS o.sa.toNat 0).slotDone)) ∧
    (opFree (.exit o) s = true →
      (lanesBusy s.me s.frag.mask = false → exec (.exit o) s = .next (s.owe .exit).slotDone) ∧
      (lanesBusy s.me s.frag.mask = true → ∃ t, exec (.exit o) s = .next t ∧ t = settle (.hold ⟨none, none, true⟩ s))) ∧
    (opFree (.yield o) s = true →
      let n := min sa.toNat 65535
      exec (.yield o) s = .next (s.setMe { s.me with
        age := 0, waits := s.me.waits ++ if n = 0 then [] else [.yield (s.cycOf (dieOf s.cur.cid) + n)] }).slotDone)) ∧
  ((∀ (env : WordEnv) (o : C), env.uni = true → o.u = false → decodeWord env (encode (.bv o)) = .error .illegal) ∧
  ∀ (o : C) (s : State), opFree (.bv o) s = true →
    let lanes := (List.range s.me.w).filter fun l => s.frag.mask.getLsbD l
    let yes := lanes.filter fun l => prd s.me o.g.pg.toNat l != o.g.pn
    let tgt : DWord := s.frag.hdr + BitVec.ofInt 64 (8 * o.tgt.toInt)
    let recon := reconOf s.frag.hdr s.frag.header
    let size := s.me.ents.length + if recon.isSome then 2 else 1
    (yes = [] → exec (.bv o) s = .next s.slotDone) ∧
    (yes ≠ [] → yes = lanes → ∀ d s', destination s (joinHeader s.me s.frag) tgt = .ok (d, s') →
      exec (.bv o) s = .next (s'.owe (.go d)).slotDone) ∧
    (yes ≠ [] → yes ≠ lanes → o.u = true → exec (.bv o) s = .next ((s.raise .uniform (maskOf yes)).slotFailed none)) ∧
    (yes ≠ [] → yes ≠ lanes → o.u = false → s.me.handler ≠ none ∨ 64 < size →
      exec (.bv o) s = .next ((s.raise .splitDepth 0).slotFailed none)) ∧
    (yes ≠ [] → yes ≠ lanes → o.u = false → s.me.handler = none → size ≤ 64 → (afterWord s.frag).st = .run →
      let join := if recon.isSome then recon else joinHeader s.me s.frag
      ∀ d s', destination s join tgt = .ok (d, s') →
        exec (.bv o) s = .next (s'.owe (.split (maskOf yes) recon d (afterWord s.frag))).slotDone) ∧
    (yes ≠ [] → yes ≠ lanes → o.u = false → s.me.handler = none → size ≤ 64 → (afterWord s.frag).st ≠ .run →
      let join := if recon.isSome then recon else joinHeader s.me s.frag
      ∀ d n s' s'', destination s join tgt = .ok (d, s') → destination s' join (afterWord s.frag).hdr = .ok (n, s'') →
        exec (.bv o) s = .next (s''.owe (.split (maskOf yes) recon d n)).slotDone)) ∧
  (∀ (s : State) (cid : Nat) (e : Ent) (mask : DWord) (t n : Dest),
    e ∈ (s.cohort cid).ents → (∀ f ∈ (s.cohort cid).ents, f.id = e.id → f = e) →
    (∀ f ∈ (s.cohort cid).ents, f.id < (s.cohort cid).nextEnt) →
    let c := s.cohort cid
    let id := c.nextEnt
    (∀ j,
      let u := (s.transfer cid e (.split mask (some j) t n)).cohort cid
      u.ents.length = c.ents.length + 2 ∧ (entOf u e.id).join = some j ∧
      (entOf u id).parent = some e.id ∧ (entOf u id).mask = mask ∧ (entOf u id).hdr = t.hdr ∧
      (entOf u (id + 1)).parent = some e.id ∧ (entOf u (id + 1)).mask = e.mask &&& ~~~mask ∧ (entOf u (id + 1)).hdr = n.hdr ∧
      ∀ k, k ≠ e.id → k < id → entOf u k = entOf c k) ∧
    (let u := (s.transfer cid e (.split mask none t n)).cohort cid
     u.ents.length = c.ents.length + 1 ∧ (entOf u e.id).mask = mask ∧ (entOf u e.id).hdr = t.hdr ∧
     (entOf u id).parent = e.parent ∧ (entOf u id).mask = e.mask &&& ~~~mask ∧ (entOf u id).hdr = n.hdr ∧
     ∀ k, k ≠ e.id → k < id → entOf u k = entOf c k))

/-- 09 R194, 08 R169: the end of the only slot of a word. Control goes where the word's transfer says, else to the next word, after a block's last word
to its fall-through header; no other fragment moves, and no register, status or memory byte changes. 08 R163, R164, R169, R201, 10 R217, 06 R127:
the steps by which a cohort goes on: a fragment at its join header parks once every result of its lanes is written, a header is fetched, a switch
marker and a `yield` end, results are written one after another. 06 R122-R124, R127, 00 R8: a fetch of a block that lies in one executable page,
none of it poisoned or stored newer by its core: its header is the eight bytes at the address, its words the twelve bytes each after it, least
significant first; a header that is not valid traps E_BADTARGET with its address. -/
def Obligations.CohortSteps : Prop :=
  (∀ (s : State), s.cur.slotB = false → s.frag ∈ s.me.ents → s.frag.id = s.cur.frag → s.frag.inWord = true → s.frag.runB = false →
    (∀ m r d n, s.frag.xfer ≠ some (.split m r d n)) → s.frag.xfer ≠ some .exit →
    let t := s.slotDone
    let d : Dest := match s.frag.xfer with
      | some (.go d) => d
      | _ => if s.frag.widx + 1 < s.frag.blk.words.length then ⟨s.frag.hdr, s.frag.blk, s.frag.widx + 1, .run⟩
        else ⟨fallThrough s.frag.hdr s.frag.header, ⟨0, []⟩, 0, .header⟩
    t.frag.hdr = d.hdr ∧ t.frag.blk = d.blk ∧ t.frag.widx = d.widx ∧ t.frag.st = d.st ∧ t.frag.inWord = false ∧
    t.frag.mask = s.frag.mask ∧ (∀ k, k ≠ s.cur.frag → entOf t.me k = entOf s.me k) ∧
    t.me.sr = s.me.sr ∧ t.me.vr = s.me.vr ∧ t.me.pr = s.me.pr ∧ t.me.xr = s.me.xr ∧ t.me.jr = s.me.jr ∧
    t.me.fstat = s.me.fstat ∧ t.me.fmode = s.me.fmode ∧ t.me.live = s.me.live ∧ t.me.tcause = s.me.tcause ∧
    t.mem = s.mem ∧ (∀ cid, cid ≠ s.cur.cid → t.cohort cid = s.cohort cid)) ∧
  (∀ (s : State) (cid : Nat),
    let c := s.cohort cid
    (∀ frag, atEase c frag = true → mayGo c (entOf c frag) = true → atJoin c (entOf c frag) = true →
      exec (.fragmentJoinPark cid frag) s =
        .next (s.setCohort cid (fuseParent (setEnt c { entOf c frag with st := .joined }) (entOf c frag)))) ∧
    (∀ frag b s', atEase c frag = true → (entOf c frag).st = .header → mayGo c (entOf c frag) = true →
      atJoin c (entOf c frag) = false → fetch s (coreOf cid) c.ctx (entOf c frag).hdr = .ok b s' →
      exec (.blockFetchComplete cid frag) s =
        .next (s'.setCohort cid (setEnt (s'.cohort cid) { entOf c frag with blk := b, widx := 0, st := .run, inWord := false }))) ∧
    (∀ vids, c.waits = [.switch vids] → (∀ p ∈ c.pend, p.vid ∉ vids) → (∀ p ∈ c.reds, p.vid ∉ vids) →
      exec (.switchResume cid) s = .next (s.setCohort cid { c with waits := [] })) ∧
    (∀ n, c.waits = [.yield n] → n ≤ s.cycOf (dieOf cid) →
      exec (.yieldExpire cid) s = .next (s.setCohort cid { c with waits := [] })) ∧
    (∀ vid p ws n w, c.pend.find? (·.vid == vid) = some p → pendReady c p = some ws → ws[n]? = some w →
      exec (.variableResultReturn cid vid n) s = .next (s.setCohort cid (putWr { c with
        pend := c.pend.map fun x => if x.vid = vid then { p with kind := .known, writes := ws.eraseIdx n } else x } w))) ∧
    (∀ vid p n, c.pend.find? (·.vid == vid) = some p → pendReady c p = some [] → p.flags = 0 →
      exec (.variableResultReturn cid vid n) s = .next (s.setCohort cid { c with pend := c.pend.filter (·.vid != vid) })) ∧
    (∀ (w : IWord) cause, decodeWord (wordEnv s.me s.frag) w = .error cause →
      exec (.illegalWord w) s = .next (((s.setFrag { s.frag with triedB := true }).raise cause 0).slotFailed none))) ∧
  (∀ (s : State) (core ctx : Nat) (hdr : DWord) (key : Nat) (coh : BitVec 2),
    let h := decodeHeader (dw (leNat (s.bytes key 8)))
    translateG s core ctx hdr .exec = .ok key coh → hdr.toNat % 4096 + 8 ≤ 4096 →
    (∀ i, i < blockBytes h →
      unitPoisoned s (key + i) 1 = false ∧ unitDown s (key + i) = false ∧ ownByte s core (key + i) = none) →
    (∀ e ∈ s.code, ¬ (e.core = core ∧ e.ctx = ctx ∧ e.hdr = hdr)) →
    (headerValid hdr h = false → fetch s core ctx hdr = .bad .badTarget hdr s) ∧
    (headerValid hdr h = true → hdr.toNat % 4096 + blockBytes h ≤ 4096 →
      ∃ b s', fetch s core ctx hdr = .ok b s' ∧ b.hd = dw (leNat (s.bytes key 8)) ∧ b.words.length = h.len.toNat ∧
        (∀ i, i < h.len.toNat → b.words.getD i 0 = BitVec.ofNat 96 (leNat (s.bytes (key + 8 + 12 * i) 12))) ∧
        s'.mem = s.mem ∧ s'.cohorts = s.cohorts))

/-- 07 R149-R151, 08 R165, R176: a step of a core runs the instruction its picked cohort's next fragment stands at: the fragment takes its turn, the
word is checked, counted and begun, and the step is `exec` of the decoded op of slot A; in a word begun, of the slot it has left. Where the spec
leaves a point open this rests on the model's reading or choice in log entry 27. -/
def Obligations.StepRunsDecoded : Prop :=
  ∀ (s : State) (core cid : Nat) (rest : List Move) (e : Ent),
    s.powered = true → s.fatal = false → s.sched = .core core :: rest →
    let t : State := { s with sched := rest }
    let c := s.cohort cid
    let c' := takeTurn c e
    let e' : Ent := { e with turn := c.stamp + 1 }
    pick t core = some cid → wordFrag c = some e → (∀ f ∈ c.ents, f.id = e.id → f = e) →
    (∀ d, e.inWord = false → decodeWord (wordEnv c e) e.word = .ok d →
      step s = exec d.a { ((t.setCohort cid c').countWord cid).setCohort cid
          (beginWord (countRun c' e' (runOp d.a && d.b.all runOp)) e' d.b.isSome) with
        cur := ⟨cid, e.id, false⟩ }) ∧
    (∀ d j, e.inWord = true → e.runA = false → e.runB = true → e.triedB = false → decodeWord (wordEnv c e) e.word = .ok d → d.b = some j →
      step s = exec j { t.setCohort cid c' with cur := ⟨cid, e.id, true⟩ })

/-- 21 R421, R431: the machine stops only without power; with power every step of every agent answers a next state, whatever it meets. -/
def Obligations.EveryStepAnswers : Prop :=
  (∀ (i : Instr) (s : State), ∃ t, exec i s = .next t) ∧
  (∀ s : State, s.powered = true → ∃ t, step s = .next t) ∧
  (∀ s : State, s.powered = false → (∃ t, step s = .next t) ∨ step s = .fault .noPower)

/-- 20 R405-R407: taking a trap with INH = 0 and TRAPHDR.EN = 1, once the cohort's results are written. TRAPCAUSE, TRAPINFO and TRAPPC are written from
the resume point, s60 and s61 copied into TRAPSAV0 and TRAPSAV1, INH set, and a handler fragment with the trapping fragment's mask stands at
TRAPHDR.HDR; every register, every other fragment and every memory byte stays. 20 R407, R408: a nested trap, or one with TRAPHDR.EN = 0, goes to the
host: a record joins the context's, with INH and the nested mark where it is nested, CODE, TRAPINFO, TRAPPC, the place, the TIME and its count; the
cohort stops, and every trap register keeps its value. Where the spec leaves a point open this rests on the model's reading or choice in log entries
57, 58. -/
def Obligations.TrapDelivery : Prop :=
  (∀ (s : State) (cid : Nat) (k : TrapInfo),
    let c := s.cohort cid
    let hdr := (s.ctx c.ctx).traphdr
    let e := entOf c k.frag
    c.kind ≠ .vacant → c.waits = [] → betweenWords c = true → c.pend = [] → c.reds = [] → dueTrap c = some k → k.redo = none →
    e ∈ c.ents → e.id = k.frag → e.join = none → (∀ f ∈ c.ents, f.id < c.nextEnt) → e.widx < 4096 →
    c.tcause.getLsbD 63 = false → hdr.getLsbD 0 = true →
    ∃ t, exec (.trapDelivery cid) s = .next t ∧
      let u := t.cohort cid
      let atHeader := e.st = .header ∨ e.st = .fetch ∨ e.st = .joined ∨ (e.inWord = false ∧ e.blk.words = [])
      u.tcause.getLsbD 63 = true ∧ u.tcause.getLsbD 62 = c.tcause.getLsbD 62 ∧ u.tcause.getLsbD 61 = k.sw ∧
      (u.tcause.extractLsb' 0 8).toNat = causeCode k.cause ∧
      (u.tcause.extractLsb' 44 12).toNat = (if atHeader then 0xFFF else e.widx) ∧
      (u.tcause.getLsbD 56 = if atHeader then false else if e.inWord then e.runA else true) ∧
      (u.tcause.getLsbD 57 = if atHeader then false else if e.inWord then e.runB else true) ∧
      u.tinfo = k.info ∧ u.tpc = e.hdr ∧ u.sav0 = srd c 60 ∧ u.sav1 = srd c 61 ∧
      (∃ h, u.handler = some (h, k.frag) ∧ (entOf u h).mask = e.mask ∧ (entOf u h).hdr = hdr &&& ~~~(7#64) ∧ (entOf u h).st = .header) ∧
      (∀ f ∈ c.ents, f ∈ u.ents) ∧ u.sr = c.sr ∧ u.vr = c.vr ∧ u.pr = c.pr ∧ u.xr = c.xr ∧ u.jr = c.jr ∧ u.fstat = c.fstat ∧
      u.fmode = c.fmode ∧ t.mem = s.mem ∧ (∀ d, d ≠ cid → t.cohort d = s.cohort d)) ∧
  (∀ (s : State) (cid : Nat) (k : TrapInfo),
    let c := s.cohort cid
    let e := entOf c k.frag
    let nested := c.tcause.getLsbD 63
    c.kind ≠ .vacant → c.waits = [] → betweenWords c = true → c.pend = [] → c.reds = [] → dueTrap c = some k → k.redo = none →
    cid < 12 * 88 * 2048 → e ∈ c.ents → e.id = k.frag → e.join = none → e.widx < 4096 →
    (nested = true ∨ (s.ctx c.ctx).traphdr.getLsbD 0 = false) →
    ∃ t r, exec (.trapDelivery cid) s = .next t ∧
      let u := t.cohort cid
      (t.ctx c.ctx).records = (s.ctx c.ctx).records ++ [r] ∧ (t.ctx c.ctx).made = (s.ctx c.ctx).made + 1 ∧ r.length = 8 ∧
      (r.getD 0 0).getLsbD 63 = nested ∧ ((r.getD 0 0).extractLsb' 0 8).toNat = causeCode k.cause ∧ r.getD 1 0 = k.info ∧
      r.getD 2 0 = e.hdr ∧ (c.ctx < 2 ^ 16 → bits (r.getD 3 0) 48 16 = c.ctx) ∧ bits (r.getD 3 0) 0 11 = cid % 2048 ∧
      r.getD 4 0 = s.timeOf (dieOf cid) ∧ r.getD 5 0 = dw ((s.ctx c.ctx).made + 1) ∧ r.getD 6 0 = 0 ∧ r.getD 7 0 = 0 ∧
      u.waits = [.host nested] ∧ u.tcause = c.tcause ∧ u.tinfo = c.tinfo ∧ u.tpc = c.tpc ∧ u.sav0 = c.sav0 ∧ u.sav1 = c.sav1 ∧
      u.ents = c.ents ∧ u.sr = c.sr ∧ u.vr = c.vr ∧ t.mem = s.mem)

/-- 20 R410, R411: `rett` and its forms. Outside a handler they trap E_ILLEGAL with TRAPINFO 0; `rett.to` an address not a multiple of 8 traps
E_BADTARGET; else s60 and s61 come back from TRAPSAV0 and TRAPSAV1, INH is 0, the handler's fragment is gone, and the trapping fragment runs its
slots again, counts its word complete, or goes on at the header sA. -/
def Obligations.ReturnFromTrap : Prop :=
  ∀ (o : G3) (s : State),
    let c := s.me
    let sa := sreg c o.va
    let stop (i : Instr) (k : Cause) (info : DWord) : Prop := exec i s = .next ((s.raise k info).slotFailed none)
    (opFree (.rett o) s = true → opFree (.rettSkip o) s = true → opFree (.rettTo o) s = true → c.tcause.getLsbD 63 = false →
      stop (.rett o) .illegal 0 ∧ stop (.rettSkip o) .illegal 0 ∧ stop (.rettTo o) .illegal 0) ∧
    (opFree (.rettTo o) s = true → c.tcause.getLsbD 63 = true → sa.toNat % 8 ≠ 0 → stop (.rettTo o) .badTarget sa) ∧
    (∀ h f, c.handler = some (h, f) → c.tcause.getLsbD 63 = true → c.tcause.getLsbD 62 = false → c.doomed = false → c.again = none →
      h ≠ f → entOf c f ∈ c.ents → (entOf c f).id = f →
      let back (t : State) : Prop :=
        let u := t.me
        srd u 60 = c.sav0 ∧ srd u 61 = c.sav1 ∧ u.tcause.getLsbD 63 = false ∧ u.handler = none ∧ (∀ x ∈ u.ents, x.id ≠ h) ∧
        (∀ n, n ≠ 60 → n ≠ 61 → srd u n = srd c n) ∧ u.vr = c.vr ∧ t.mem = s.mem
      (opFree (.rett o) s = true →
        ∃ t : State, exec (.rett o) s = .next t.slotDone ∧ back t ∧ entOf t.me f = entOf c f) ∧
      (opFree (.rettSkip o) s = true → (entOf c f).st ≠ .header → (entOf c f).st ≠ .fetch → (entOf c f).st ≠ .joined →
        (entOf c f).blk.words ≠ [] → (entOf c f).xfer = none →
        ∃ t : State, exec (.rettSkip o) s = .next t.slotDone ∧ back t ∧ entOf t.me f = (entOf c f).placeAt (afterWord (entOf c f))) ∧
      (opFree (.rettTo o) s = true → sa.toNat % 8 = 0 →
        ∃ t : State, exec (.rettTo o) s = .next t.slotDone ∧ back t ∧ (entOf t.me f).hdr = sa ∧ (entOf t.me f).st = .header))

/-- 20 R402-R405, R410, 03 R68, R69: `sys.rd` writes the register named to sD once the cohort has no result outstanding; an unassigned number traps
E_ILLEGAL with the number. 20 R402-R405, R410, 03 R68, R69, 19 R395, R398: `sys.wr` writes the RW fields of a register and leaves its reserved bits
0: FSTAT's flags, FMODE with a RM of 000 or 111 ignored, PRIO up to LPRIO where the context is not privileged, TRAPHDR, TSKFMT, the watchdog's and
the core's registers; from a context with PRIV = 0 a privileged one traps E_PRIV, a read-only one does from any, and neither changes anything. -/
def Obligations.SystemRegisters : Prop :=
  (∀ (o : GI) (s : State), opFree (.sysRd o) s = true →
    let c := s.me
    let x := s.ctx c.ctx
    let k := s.core (coreOf s.cur.cid)
    let got (n : Nat) (v : DWord) : Prop := o.imm.toNat = n → exec (.sysRd o) s = .next (s.setS o.vd.toNat v).slotDone
    (c.pend = [] →
      got 0x000 c.fstat ∧ got 0x001 c.fmode ∧ got 0x002 (dw (c.lprio.toNat * 2 ^ 8 + c.prio.toNat)) ∧ got 0x003 c.tcause ∧
      got 0x004 c.tinfo ∧ got 0x005 c.tpc ∧ got 0x006 c.sav0 ∧ got 0x007 c.sav1 ∧
      got 0x010 (dw ((if c.priv then 2 ^ 16 else 0) + c.ctx)) ∧ got 0x011 x.traphdr ∧ got 0x012 x.tskfmt ∧
      got 0x013 ((List.range 12).foldl (fun v d => v ||| tget 0 x.fred d) 0) ∧ got 0x014 x.wdogcfg ∧ got 0x015 x.wdogxw ∧
      got 0x016 x.acctmode ∧
      got 0x020 (dw ((Int.fdiv (credNow s (coreOf s.cur.cid)) 256 % 2 ^ 16).toNat * 2 ^ 32 + k.cap.toNat * 2 ^ 16 + k.rate.toNat)) ∧
      got 0x021 (k.leasecfg.zeroExtend 64) ∧ got 0x030 s.terr) ∧
    ((8 ≤ o.imm.toNat ∧ o.imm.toNat < 0x10) ∨ (0x17 ≤ o.imm.toNat ∧ o.imm.toNat < 0x20) ∨
        (0x22 ≤ o.imm.toNat ∧ o.imm.toNat < 0x30) ∨ 0x30 < o.imm.toNat →
      exec (.sysRd o) s = .next ((s.raise .illegal (o.imm.zeroExtend 64)).slotFailed none))) ∧
  (∀ (o : GI) (s : State), opFree (.sysWr o) s = true →
    let c := s.me
    let x := s.ctx c.ctx
    let v := sreg c o.va
    let n := o.imm.toNat
    let does (t : State) : Prop := exec (.sysWr o) s = .next t.slotDone
    let stop (k : Cause) : Prop := exec (.sysWr o) s = .next ((s.raise k (o.imm.zeroExtend 64)).slotFailed none)
    (n = 0x000 → does (s.setMe { c with fstat := v &&& 0x3F })) ∧
    (n = 0x001 → let rm := (v >>> 5) &&& 7
      does (s.setMe { c with fmode := (v &&& 0x1F1F) ||| (if rm = 0 ∨ rm = 7 then c.fmode &&& 0xE0 else v &&& 0xE0) })) ∧
    (n = 0x002 → does (s.setMe { c with
      prio := if c.priv = false ∧ c.lprio.toNat < v.toNat % 8 then c.lprio else v.extractLsb' 0 3 })) ∧
    (n = 0x006 → does (s.setMe { c with sav0 := v })) ∧ (n = 0x007 → does (s.setMe { c with sav1 := v })) ∧
    (n = 0x011 → does (s.setCtx c.ctx { x with traphdr := v &&& 0xFFFFFFFFFFFFFFF9 })) ∧
    (n = 0x012 → does (s.setCtx c.ctx { x with tskfmt := v &&& 0xFFFFFFFFFFFFFF01 })) ∧
    (n = 0x013 → ∃ f, does (s.setCtx c.ctx { x with fred := f }) ∧ ∀ d, d < 12 → tget 0 f d = tget 0 x.fred d &&& ~~~(v &&& 0xDD)) ∧
    (c.priv = true →
      (n = 0x014 → does (s.setCtx c.ctx { x with
        wdogcfg := if (v >>> 16) &&& 0xFFFF = 0 then dw (bits x.wdogcfg 16 16 * 2 ^ 16) ||| (v &&& 1) else v &&& 0xFFFF0001 })) ∧
      (n = 0x015 → does (s.setCtx c.ctx { x with wdogxw := v &&& 0x0000FFFFFFFFF03F })) ∧
      (n = 0x016 → does (s.setAcctMode c.ctx v)) ∧
      (n = 0x020 →
        let k := (s.syncCred (coreOf s.cur.cid)).core (coreOf s.cur.cid)
        let cap := if v.extractLsb' 16 16 = 0 then k.cap else v.extractLsb' 16 16
        does ((s.syncCred (coreOf s.cur.cid)).setCore (coreOf s.cur.cid) { k with
          cap := cap, rate := v.extractLsb' 0 16, cred := min k.cred ((cap.toNat : Int) * 256) })) ∧
      (n = 0x021 →
        let k := s.core (coreOf s.cur.cid)
        does (s.setCore (coreOf s.cur.cid) { k with
          leasecfg := if v.toNat % 8 ≤ 4 then v.extractLsb' 0 4 else v.extractLsb' 3 1 ++ k.leasecfg.extractLsb' 0 3 }))) ∧
    (c.priv = false → n = 0x014 ∨ n = 0x015 ∨ n = 0x016 ∨ n = 0x020 ∨ n = 0x021 → stop .priv) ∧
    (n = 0x003 ∨ n = 0x004 ∨ n = 0x005 ∨ n = 0x010 ∨ n = 0x030 → stop .priv) ∧
    ((8 ≤ n ∧ n < 0x10) ∨ (0x17 ≤ n ∧ n < 0x20) ∨ (0x22 ≤ n ∧ n < 0x30) ∨ 0x30 < n → stop .illegal))

/-- 20 R408, R410: `trap` completes and raises its code with sA and SW = 1, a code outside 0x01-0x16 traps E_ILLEGAL with the code; `halt` stops the
cohort with a record of CODE 0 and sA; a record goes to its ring once that has room, HTWIDX advances and MSI-X vector VEC is sent; an orphan trap
goes to the die's handlers or, with TRAPHDR.EN = 0, to the host. Where the spec leaves a point open this rests on the model's reading or choice in
log entry 57. -/
def Obligations.TrapsRaisedAndRecorded : Prop :=
  ∀ (s : State),
    let c := s.me
    (∀ o : GI, opFree (.trap o) s = true → ∀ k : Cause, causeCode k = o.imm.toNat → 1 ≤ o.imm.toNat → o.imm.toNat ≤ 0x16 →
      exec (.trap o) s = .next (s.setMe { c with
        dtraps := c.dtraps ++ [⟨s.cur.frag, k, sreg c o.va, true, c.tcause.getLsbD 63, none, some (entOf c s.cur.frag).stamp, false⟩] }).slotDone) ∧
    (∀ o : GI, opFree (.trap o) s = true → o.imm.toNat = 0 ∨ 0x16 < o.imm.toNat →
      exec (.trap o) s = .next ((s.raise .illegal (o.imm.zeroExtend 64)).slotFailed none)) ∧
    (∀ o : G3, opFree (.halt o) s = true → c.pend = [] → c.reds = [] → ∃ (t : State) (r : List DWord), exec (.halt o) s = .next t.slotDone ∧
      t.me = { c with waits := c.waits ++ [.host false] } ∧ (t.ctx c.ctx).records = (s.ctx c.ctx).records ++ [r] ∧
      ((r.getD 0 0).extractLsb' 0 8) = 0 ∧ r.getD 1 0 = 0 ∧ r.getD 2 0 = (afterWord s.frag).hdr ∧ r.getD 6 0 = sreg c o.va) ∧
    (∀ ctx r rs base lgn w rd, (s.ctx ctx).records = r :: rs → trapRing s ctx = some (base, lgn, w, rd) → (w - rd).toNat < 2 ^ lgn →
      isHost (sysKey s base) = false ∨ hostUp s = true →
      let t := (s.setCtx ctx { s.ctx ctx with records := rs }).setSysWords (base + 64 * (w.toNat % 2 ^ lgn)) r
      exec (.hostTrapRecord ctx) s =
        .next ((t.setSysWord (ctxEntryAddr t ctx + 0x28) (w + 1)).emit (.msix (bits (ctxWord t ctx 1) 20 11)))) ∧
    (∀ ctx cause info die, die < 12 →
      ((s.ctx ctx).traphdr.getLsbD 0 = true → exec (.orphanTrap ctx cause info die) s =
        .next (s.setDie die { s.die die with orphans := (s.die die).orphans ++ [(ctx, cause, info)] })) ∧
      ((s.ctx ctx).traphdr.getLsbD 0 = false → ∃ t r, exec (.orphanTrap ctx cause info die) s = .next t ∧
        (t.ctx ctx).records = (s.ctx ctx).records ++ [r] ∧ ((r.getD 0 0).extractLsb' 0 8).toNat = causeCode cause ∧
        (r.getD 0 0).getLsbD 62 = true ∧ r.getD 1 0 = info ∧ bits (r.getD 3 0) 39 4 = 0xF ∧ bits (r.getD 3 0) 32 7 = 0x7F ∧
        bits (r.getD 3 0) 0 11 = 0x7FF))

/-- 08 R160, 10 R205, 20 R413: what an op that writes one value in each of some lanes leaves: the named register, or even-odd pair, of those lanes holds
the value, and loses the mark of a lost word; every other register word keeps its value. 07 R142, 08 R159: a write of a scalar register by the
executing cohort changes that register alone, and s0 discards it and reads 0; a write of a predicate bit changes that bit alone, and p0 discards it
and reads true. Nothing else of the machine changes. -/
def Obligations.RegisterWritesLand : Prop :=
  (∀ (c : Cohort) (lanes : List Nat) (two : Bool) (vd n l : Nat) (f : Cohort → Nat → Nat),
    (∀ m ∈ lanes, m < 64) → l < 64 →
    let t := forLanes lanes (fun c acc l => laneSet acc two vd l (f c l)) c
    (l ∈ lanes → n = vd → vrd t n l = BitVec.ofNat 32 (f c l)) ∧
    (l ∈ lanes → two = true → n = vd + 1 → vrd t n l = BitVec.ofNat 32 (f c l / 2 ^ 32)) ∧
    (l ∈ lanes → n = vd → tget false t.lost (64 * n + l) = false) ∧
    (l ∉ lanes ∨ (n ≠ vd ∧ (two = false ∨ n ≠ vd + 1)) → vrd t n l = vrd c n l) ∧
    t.sr = c.sr ∧ t.pr = c.pr ∧ t.xr = c.xr ∧ t.jr = c.jr ∧ t.fstat = c.fstat ∧ t.fmode = c.fmode ∧ t.ents = c.ents ∧ t.pend = c.pend) ∧
  ((∀ (s : State) (n : Nat) (v : DWord),
    let t := s.setS n v
    srd t.me n = (if n = 0 then 0 else v) ∧ (∀ m, m ≠ n → srd t.me m = srd s.me m) ∧ srd t.me 0 = 0 ∧
    t.me = { s.me with sr := t.me.sr } ∧ (∀ d, d ≠ s.cur.cid → t.cohort d = s.cohort d) ∧ t = { s with cohorts := t.cohorts }) ∧
  (∀ (c : Cohort) (n l m k : Nat) (b : Bool), l < 64 → k < 64 →
    let t := pwr c n l b
    prd t n l = (if n = 0 then true else b) ∧ (m ≠ n ∨ k ≠ l → prd t m k = prd c m k) ∧ prd t 0 k = true ∧ t = { c with pr := t.pr }))

/-- 10 R206 without SAT: each element of vD is the function of the elements of vA and vB, in arithmetic modulo 2^w on elements of w = 8, 16, 32 or 64
bits, for every integer type. 10 R206-R212 with SAT, and the conversions: each element receives the exact result clamped to its type's range;
`vcvti` takes element h of the source of its own width, else the elements of vA and vB, or of half H of vA, that the table of R212 gives. 10 R206,
R208, R210: bit counts and fields, moves and selects, in each active lane. -/
def Obligations.VectorInteger : Prop :=
  (∀ (o : G3) (s : State), satOf o.mod = false →
    let t := intTy o.ty
    let two := isPairTy o.ty
    let c := s.me
    let res (i : Instr) (g : BitVec t.w → BitVec t.w → BitVec t.w) : Prop :=
      opFree i s = true → ∃ f : Nat → Nat,
        exec i s = .next (s.setMe (forLanes (s.active o.g) (fun _ acc l => laneSet acc two o.vd.toNat l (f l)) c)).slotDone ∧
        ∀ l, f l < 2 ^ (if two then 64 else 32) ∧ ∀ e, e < elemsOf t → elem t (f l) e =
          (g (BitVec.ofNat t.w (elem t (laneVal c two o.va.toNat l) e))
             (BitVec.ofNat t.w (elem t (laneVal c two o.vb.toNat l) e))).toNat
    res (.vadd o) (· + ·) ∧ res (.vsub o) (· - ·) ∧ res (.vmul o) (· * ·) ∧
    res (.vand o) (· &&& ·) ∧ res (.vor o) (· ||| ·) ∧ res (.vxor o) (· ^^^ ·) ∧ res (.vnot o) (fun a _ => ~~~a) ∧
    res (.vshl o) (fun a b => a <<< (b.toNat % t.w)) ∧ res (.vrot o) (fun a b => a.rotateLeft (b.toNat % t.w)) ∧
    (t.signed = true →
      res (.vmulh o) (fun a b => (a.signExtend (2 * t.w) * b.signExtend (2 * t.w)).extractLsb' t.w t.w) ∧
      res (.vmin o) (fun a b => if a.slt b then a else b) ∧ res (.vmax o) (fun a b => if a.slt b then b else a) ∧
      res (.vabs o) (fun a _ => if a.slt 0 then -a else a) ∧ res (.vshr o) (fun a b => a.sshiftRight (b.toNat % t.w))) ∧
    (t.signed = false →
      res (.vmulh o) (fun a b => (a.zeroExtend (2 * t.w) * b.zeroExtend (2 * t.w)).extractLsb' t.w t.w) ∧
      res (.vmin o) (fun a b => if a.ult b then a else b) ∧ res (.vmax o) (fun a b => if a.ult b then b else a) ∧
      res (.vshr o) (fun a b => a >>> (b.toNat % t.w)))) ∧
  (∀ (s : State),
    let c := s.me
    let clamp (t : IntTy) (sat : Bool) (r : Int) : Nat :=
      let lo : Int := if t.signed then -(2 ^ (t.w - 1)) else 0
      let hi : Int := if t.signed then 2 ^ (t.w - 1) - 1 else 2 ^ t.w - 1
      ((if sat then (if r < lo then lo else if hi < r then hi else r) else r) % 2 ^ t.w).toNat
    let res (i : Instr) (g : Guard) (vd : BitVec 8) (t : IntTy) (two : Bool) (val : Nat → Nat → Nat) : Prop :=
      opFree i s = true → ∃ f : Nat → Nat,
        exec i s = .next (s.setMe (forLanes (s.active g) (fun _ acc l => laneSet acc two vd.toNat l (f l)) c)).slotDone ∧
        ∀ l, f l < 2 ^ (if two then 64 else 32) ∧ ∀ e, e < elemsOf t → elem t (f l) e = val l e
    (∀ o : G3, satOf o.mod = true →
      let t := intTy o.ty
      let two := isPairTy o.ty
      let x (v : BitVec 8) (l e : Nat) : Int := tyVal t (elem t (laneVal c two v.toNat l) e)
      res (.vadd o) o.g o.vd t two (fun l e => clamp t true (x o.va l e + x o.vb l e)) ∧
      res (.vsub o) o.g o.vd t two (fun l e => clamp t true (x o.va l e - x o.vb l e)) ∧
      res (.vmul o) o.g o.vd t two (fun l e => clamp t true (x o.va l e * x o.vb l e)) ∧
      res (.vabs o) o.g o.vd t two (fun l e => clamp t true |x o.va l e|)) ∧
    (∀ (o : G4) (x : Ext),
      let t : IntTy := ⟨if o.t2.toNat < 2 then 32 else 16, o.t2.toNat % 2 = 0⟩
      let v (r : BitVec 8) (l e : Nat) : Int := tyVal t (elem t (laneVal c false r.toNat l) e)
      let sat := match x with | some w => w.getLsbD 0 | none => false
      res (.vmad o x) o.g o.vd t false (fun l e => clamp t sat (v o.va l e * v o.vb l e + v o.vc l e))) ∧
    (∀ (o : GI) (x : Ext),
      let t := intTy o.ty
      let two := isPairTy o.ty
      let imm : Int := o.imm.toInt + (match x with | some w => w.toInt | none => 0)
      res (.vaddi o x) o.g o.vd t two (fun l e => clamp t false (elem t (laneVal c two o.va.toNat l) e + imm)) ∧
      res (.vmovi o x) o.g o.vd t two (fun _ _ => clamp t false imm)) ∧
    (∀ o : G3,
      let d := intTy o.ty
      let sty : BitVec 3 := BitVec.ofNat 3 (fnOf o.mod)
      let st := intTy sty
      let h := if 8 ≤ fnOf o.mod then 1 else 0
      let a (l e : Nat) : Int := tyVal st (elem st (laneVal c (isPairTy sty) o.va.toNat l) e)
      let b (l e : Nat) : Int := tyVal st (elem st (laneVal c false o.vb.toNat l) e)
      legalVcvti o = true →
      res (.vcvti o) o.g o.vd d (isPairTy o.ty) (fun l e => clamp d (satOf o.mod)
        (if st.w = d.w ∨ (32 ≤ st.w ∧ 32 ≤ d.w) then a l e
         else if st.w = 2 * d.w then (if e < elemsOf st then a l e else b l (e - elemsOf st))
         else a l (elemsOf d * h + e))))) ∧
  (∀ (s : State),
    let c := s.me
    let res (i : Instr) (g : Guard) (vd : BitVec 8) (two : Bool) (ok : Nat → Nat → Prop) : Prop :=
      opFree i s = true → ∃ f : Nat → Nat,
        exec i s = .next (s.setMe (forLanes (s.active g) (fun _ acc l => laneSet acc two vd.toNat l (f l)) c)).slotDone ∧
        ∀ l, f l < 2 ^ (if two then 64 else 32) ∧ ok l (f l)
    (∀ o : G3,
      let two := isPairTy o.ty
      res (.vmov o) o.g o.vd two (fun l v => v = laneVal c two o.va.toNat l) ∧
      res (.vsel o) o.g o.vd two (fun l v => v =
        if (prd c (fnOf o.mod % 8) l = true ↔ fnOf o.mod < 8) then laneVal c two o.va.toNat l else laneVal c two o.vb.toNat l) ∧
      res (.s2v o) o.g o.vd two (fun _ v => v = (sreg c o.va).toNat % 2 ^ (if two then 64 else 32))) ∧
    (∀ o : G3,
      let t := intTy o.ty
      let two := isPairTy o.ty
      let each (l v : Nat) (p : BitVec t.w → BitVec t.w → Prop) : Prop := ∀ e, e < elemsOf t →
        p (BitVec.ofNat t.w (elem t (laneVal c two o.va.toNat l) e)) (BitVec.ofNat t.w (elem t v e))
      (fnOf o.mod = 0 → res (.vbit o) o.g o.vd two fun l v => each l v fun a r =>
        r.toNat = ((List.range t.w).filter fun i => a.getLsbD i).length) ∧
      (fnOf o.mod = 1 → res (.vbit o) o.g o.vd two fun l v => each l v fun a r =>
        r.toNat ≤ t.w ∧ (∀ i, t.w - r.toNat ≤ i → i < t.w → a.getLsbD i = false) ∧ (r.toNat < t.w → a.getLsbD (t.w - 1 - r.toNat) = true)) ∧
      (fnOf o.mod = 2 → res (.vbit o) o.g o.vd two fun l v => each l v fun a r =>
        r.toNat ≤ t.w ∧ (∀ i, i < r.toNat → a.getLsbD i = false) ∧ (r.toNat < t.w → a.getLsbD r.toNat = true)) ∧
      (fnOf o.mod = 3 → res (.vbit o) o.g o.vd two fun l v => each l v fun a r =>
        ∀ i, i < t.w → r.getLsbD i = a.getLsbD (t.w - 1 - i)) ∧
      (fnOf o.mod = 4 → res (.vbit o) o.g o.vd two fun l v => each l v fun a r =>
        ∀ i, i < t.w → r.getLsbD i = a.getLsbD (t.w - 8 - i / 8 * 8 + i % 8))) ∧
    (∀ o : G4,
      let field (l : Nat) : Nat × Nat :=
        let k := vrd c o.vc.toNat l
        (k.toNat % 32, min (k.toNat / 256 % 64) (32 - k.toNat % 32))
      res (.vbfe o) o.g o.vd false (fun l v => ∀ i, i < 32 → (BitVec.ofNat 32 v).getLsbD i =
        if i < (field l).2 then (vrd c o.va.toNat l).getLsbD ((field l).1 + i)
        else (o.t2 = 0 ∧ (field l).2 ≠ 0 ∧ (vrd c o.va.toNat l).getLsbD ((field l).1 + (field l).2 - 1) = true)) ∧
      res (.vbfi o) o.g o.vd false (fun l v => ∀ i, i < 32 → (BitVec.ofNat 32 v).getLsbD i =
        if (field l).1 ≤ i ∧ i < (field l).1 + (field l).2 then (vrd c o.vb.toNat l).getLsbD (i - (field l).1)
        else (vrd c o.va.toNat l).getLsbD i)))

/-- 10 R211, R220: predicates. A predicate op writes its bit in the active lanes and leaves the others; the ops that read a predicate answer for the
active lanes where it is 1. -/
def Obligations.PredicateOps : Prop :=
  ∀ (o : G3) (s : State),
    let c := s.me
    let lanes := s.active o.g
    let set := lanes.filter fun l => prd c o.va.toNat l
    let puts (i : Instr) (f : Nat → Bool) : Prop := opFree i s = true → (∀ l ∈ lanes, l < 64) →
      ∃ u, exec i s = .next (s.setMe u).slotDone ∧
        (o.vd ≠ 0 → ∀ l, l < 64 → prd u o.vd.toNat l = if l ∈ lanes then f l else prd c o.vd.toNat l) ∧
        (∀ n l, n ≠ o.vd.toNat ∨ o.vd = 0 → prd u n l = prd c n l) ∧ u.sr = c.sr ∧ u.vr = c.vr
    let lt (l : Nat) : Bool := cmpFn 2 (tyVal (intTy o.ty) (laneVal c (isPairTy o.ty) o.va.toNat l))
      (tyVal (intTy o.ty) (laneVal c (isPairTy o.ty) o.vb.toNat l))
    let eq (l : Nat) : Bool := tyVal (intTy o.ty) (laneVal c (isPairTy o.ty) o.va.toNat l) ==
      tyVal (intTy o.ty) (laneVal c (isPairTy o.ty) o.vb.toNat l)
    (fnOf o.mod = 0 → puts (.vcmp o) eq) ∧ (fnOf o.mod = 1 → puts (.vcmp o) fun l => !eq l) ∧
    (fnOf o.mod = 2 → puts (.vcmp o) lt) ∧ (fnOf o.mod = 3 → puts (.vcmp o) fun l => !lt l) ∧
    (fnOf o.mod = 4 → puts (.vcmp o) fun l => !lt l && !eq l) ∧ (fnOf o.mod = 5 → puts (.vcmp o) fun l => lt l || eq l) ∧
    puts (.pmov o) (fun l => (sreg c o.va).getLsbD l) ∧
    (fnOf o.mod = 0 → puts (.plog o) fun l => prd c o.va.toNat l && prd c o.vb.toNat l) ∧
    (fnOf o.mod = 1 → puts (.plog o) fun l => prd c o.va.toNat l || prd c o.vb.toNat l) ∧
    (fnOf o.mod = 2 → puts (.plog o) fun l => prd c o.va.toNat l != prd c o.vb.toNat l) ∧
    (fnOf o.mod = 3 → puts (.plog o) fun l => prd c o.va.toNat l && !prd c o.vb.toNat l) ∧
    (fnOf o.mod = 4 → puts (.plog o) fun l => !prd c o.va.toNat l) ∧
    (opFree (.vballot o) s = true → (∀ l ∈ lanes, l < 64) →
      ∃ v : DWord, exec (.vballot o) s = .next (s.setS o.vd.toNat v).slotDone ∧ ∀ l, l < 64 → (v.getLsbD l = true ↔ l ∈ set)) ∧
    (opFree (.pcnt o) s = true → exec (.pcnt o) s = .next (s.setS o.vd.toNat (dw set.length)).slotDone) ∧
    (opFree (.pfirst o) s = true →
      (set = [] → exec (.pfirst o) s = .next (s.setS o.vd.toNat 0xFFFFFFFFFFFFFFFF).slotDone) ∧
      (∀ l r, set = l :: r → exec (.pfirst o) s = .next (s.setS o.vd.toNat (dw l)).slotDone ∧ ∀ m ∈ r, l < m))

/-- 10 R213-R215, R221, R222: values of other lanes and indexed registers. Each active lane takes vA of its source lane as it stands; `vscan` is the
prefix over the active lanes in order; `vldx` and `vstx` use register BASE + i (2i for a pair) of the index register, and an index out of its bound
in an active lane traps E_IDXBOUND with the lowest such lane and its index, no lane written. 10 R216-R219: reductions and J registers. `vred` leaves
the fold of the active lanes to be written; the write advances SEQ by 1 modulo 2^32, an error of the tree giving VALUE 0 and POIS 1; `jget` takes a
value already reached, waits for one still coming, traps E_JPOISON on a poisoned one and E_ILLEGAL with want where no `vred` issued can reach it. -/
def Obligations.OtherLanesAndJRegisters : Prop :=
  (∀ (o : G3) (s : State),
    let c := s.me
    let two := isPairTy o.ty
    let lanes := s.active o.g
    let d := (sreg c o.vb).toNat
    let pick (i : Instr) (own : List Nat) (j : Nat → Nat) : Prop :=
      readsFree i (lanes.flatMap fun l => (regs o.va (iw o.ty)).map (·, j l) ++ own.map (·, l)) s = true →
      exec i s = .next (s.setMe (forLanes lanes (fun c acc l => laneSet acc two o.vd.toNat l (laneVal c two o.va.toNat (j l))) c)).slotDone
    let idx (l : Nat) : Nat := (if two then 2 else 1) * (vrd c o.vb.toNat l).toNat
    let bad (x : XReg) (l : Nat) : Bool := x.bound < idx l + (if two then 2 else 1) || (two && x.base % 2 == 1)
    let stop (i : Instr) (l : Nat) : Prop :=
      exec i s = .next ((s.raise .idxBound (((vrd c o.vb.toNat l).zeroExtend 64 <<< 32) ||| dw l)).slotFailed none)
    pick (.vlane o) [o.vb.toNat] (fun l => (vrd c o.vb.toNat l).toNat % c.w) ∧ pick (.vbcast o) [] (fun _ => d % c.w) ∧
    (fnOf o.mod = 0 → pick (.vshfl o) [] fun l => l ^^^ (d % c.w)) ∧
    (fnOf o.mod = 1 → pick (.vshfl o) [] fun l => if d ≤ l then l - d else l) ∧
    (fnOf o.mod = 2 → pick (.vshfl o) [] fun l => if l + d < c.w then l + d else l) ∧
    pick (.vrotl o) [] (fun l => (l + d) % c.w) ∧
    (opFree (.vscan o) s = true → lanes.Nodup → ∃ f : Nat → Nat,
      exec (.vscan o) s = .next (s.setMe (forLanes lanes (fun _ acc l => laneSet acc two o.vd.toNat l (f l)) c)).slotDone ∧
      ∀ k, (h : k < lanes.length) → fnOf o.mod = 0 → satOf o.mod = false → ∀ e, e < elemsOf (intTy o.ty) →
        elem (intTy o.ty) (f lanes[k]) e =
          (((lanes.take (k + 1)).map fun l => elem (intTy o.ty) (laneVal c two o.va.toNat l) e).sum) % 2 ^ (intTy o.ty).w) ∧
    (let x := xrd c o.va.toNat
     (lanes.filter (bad x) = [] →
       readsFree (.vldx o) (lanes.map (fun l => (o.vb.toNat, l)) ++
         lanes.flatMap fun l => (List.range (iw o.ty)).map fun k => (x.base + idx l + k, l)) s = true →
       exec (.vldx o) s = .next (s.setMe
         (forLanes lanes (fun c acc l => laneSet acc two o.vd.toNat l (laneVal c two (x.base + idx l) l)) c)).slotDone) ∧
     (∀ l r, lanes.filter (bad x) = l :: r → readsFree (.vldx o) (lanes.map fun l => (o.vb.toNat, l)) s = true → stop (.vldx o) l)) ∧
    (let x := xrd c o.vd.toNat
     opFree (.vstx o) s = true →
     (lanes.filter (bad x) = [] → exec (.vstx o) s = .next (s.setMe
       (forLanes lanes (fun c acc l => laneSet acc two (x.base + idx l) l (laneVal c two o.va.toNat l)) c)).slotDone) ∧
     (∀ l r, lanes.filter (bad x) = l :: r → stop (.vstx o) l)) ∧
    (∀ p : GI, opFree (.xset p) s = true → exec (.xset p) s =
      .next (s.setMe { c with xr := tput ⟨0, 0⟩ c.xr p.vd.toNat ⟨p.va.toNat, p.imm.toNat % 512⟩ }).slotDone)) ∧
  (∀ (s : State),
    let c := s.me
    (∀ o : G3, accHeld (.vred o) s = false → ∃ p : RedPend,
      exec (.vred o) s = .next (s.setMe { c with nextVid := c.nextVid + 1, reds := c.reds ++ [p] }).slotDone ∧
      p.j = o.vd.toNat ∧ p.vid = c.nextVid ∧ (c.lost = [] → p.bad = false) ∧
      (fnOf o.mod = 0 → satOf o.mod = false →
        (o.ty = 0 → p.value = BitVec.ofInt 64 (((s.active o.g).map fun l => (vrd c o.va.toNat l).toInt).sum)) ∧
        (o.ty = 1 → p.value = BitVec.ofNat 64 (((s.active o.g).map fun l => (vrd c o.va.toNat l).toNat).sum)) ∧
        (o.ty = 6 ∨ o.ty = 7 → p.value = BitVec.ofNat 64 (((s.active o.g).map fun l => (vrd2 c o.va.toNat l).toNat).sum)))) ∧
    (∀ cid p rest, let k := s.cohort cid
      k.reds = p :: rest → (∀ q ∈ rest, q.vid ≠ p.vid) → k.pend = [] →
      (p.bad = false → exec (.vredWrite cid p.vid false) s = .next (s.setCohort cid { k with
        reds := rest, jr := tput ⟨0, 0, false⟩ k.jr p.j ⟨p.value, (jrd k p.j).seq + 1, false⟩ })) ∧
      (p.bad = true → ∃ t, exec (.vredWrite cid p.vid false) s = .next t ∧ jrd (t.cohort cid) p.j = ⟨0, (jrd k p.j).seq + 1, true⟩) ∧
      (∃ t, exec (.vredWrite cid p.vid true) s = .next t ∧ jrd (t.cohort cid) p.j = ⟨0, (jrd k p.j).seq + 1, true⟩)) ∧
    (∀ o : G3, opFree (.jget o) s = true →
      let want : Word := (sreg c o.vb).extractLsb' 0 32
      let r := jrd c o.va.toNat
      let pending := (c.reds.filter fun p => p.j == o.va.toNat).length
      let reached (q : Word) : Prop := (q - want).toNat < 2 ^ 31
      let may := reached (r.seq + BitVec.ofNat 32 pending)
      (may → reached r.seq → r.pois = false →
        exec (.jget o) s = .next (s.addPend .known [⟨.s o.vd.toNat, r.value⟩] none).slotDone) ∧
      (may → reached r.seq → r.pois = true →
        exec (.jget o) s = .next ((s.raise .jPoison (dw (o.va.toNat * 2 ^ 32 + r.seq.toNat))).slotFailed none)) ∧
      (may → ¬ reached r.seq →
        exec (.jget o) s = .next (s.addPend (.jget o.va.toNat o.vb.toNat want o.vd.toNat) [] none).slotDone) ∧
      (¬ may →
        exec (.jget o) s = .next ((s.raise .illegal (want.zeroExtend 64)).slotFailed none))))

/-- 11 R224-R232, R235-R238: the fixed-latency float ops write each active lane the rounded elements of vD, their flags into FSTAT; `vfdiv` and `vfsqrt`
leave both to come. The sources take their modifiers first (`vfma` and its forms those of the extension, then the signs their names say), the NaN
rule and the one rounding are `opRes`, `fmaRes`, `divRes` and `sqrtRes` of the exact value. -/
def Obligations.FloatArithmetic : Prop :=
  ∀ (s : State),
    let c := s.me
    let fixed (i : Instr) (g : Guard) (f : Fmt) (vd : BitVec 8) (e : Nat → Nat → Nat × Flags) : Prop := opFree i s = true →
      exec i s = .next (s.setMe (writeLanes c s.cur.frag (f == .f64) vd.toNat ((s.active g).map fun l => (l, laneRes f (e l))))).slotDone
    let later (i : Instr) (g : Guard) (f : Fmt) (vd : BitVec 8) (e : Nat → Nat → Nat × Flags) : Prop := opFree i s = true →
      let rs := (s.active g).map fun l => (l, laneRes f (e l))
      let ws (r : Nat × Nat × Flags) : List Wr :=
        if f = .f64 then [⟨.v vd.toNat r.1, dw r.2.1⟩, ⟨.v (vd.toNat + 1) r.1, dw (r.2.1 / 2 ^ 32)⟩] else [⟨.v vd.toNat r.1, dw r.2.1⟩]
      exec i s = .next (s.addPend .known (rs.flatMap ws) none (orFlags (rs.map (·.2.2)))).slotDone
    let rnd (f : Fmt) (rm l h : Nat) : Rnd :=
      ⟨if rm = 0 then bits c.fmode 5 3 else rm, (l * fltElems f + h) % 32, bits c.fmode 8 5⟩
    (∀ o : G3,
      let f := fltFmt o.ty.toNat
      let a (l h : Nat) : FV := modV (o.mod.getLsbD 6) (o.mod.getLsbD 4) (fltVal c f o.va.toNat l h)
      let b (l h : Nat) : FV := modV (o.mod.getLsbD 5) (o.mod.getLsbD 3) (fltVal c f o.vb.toNat l h)
      let r (l h : Nat) : Rnd := rnd f (o.mod.toNat % 8) l h
      let down (l h : Nat) : Bool := (r l h).mode == 4
      fixed (.vfadd o) o.g f o.vd (fun l h => opRes f (r l h) [a l h, b l h] (addV (down l h) (a l h) (b l h))) ∧
      fixed (.vfsub o) o.g f o.vd (fun l h => opRes f (r l h) [a l h, b l h] (addV (down l h) (a l h) (negV (b l h)))) ∧
      fixed (.vfmul o) o.g f o.vd (fun l h => opRes f (r l h) [a l h, b l h] (mulV (a l h) (b l h))) ∧
      fixed (.vfmin o) o.g f o.vd (fun l h => minMax f false (o.mod.toNat % 8 = 1) (a l h) (b l h)) ∧
      fixed (.vfmax o) o.g f o.vd (fun l h => minMax f true (o.mod.toNat % 8 = 1) (a l h) (b l h)) ∧
      fixed (.vfrnd o) o.g f o.vd (fun l h => rndRes f (r l h) (a l h)) ∧
      fixed (.vfscl o) o.g f o.vd (fun l h => sclRes f (r l h) (a l h)
        (if fltElems f = 2 then ((vrd c o.vb.toNat l).extractLsb' (16 * h) 16).toInt else (vrd c o.vb.toNat l).toInt)) ∧
      later (.vfdiv o) o.g f o.vd (fun l h => divRes f (r l h) (a l h) (b l h)) ∧
      later (.vfsqrt o) o.g f o.vd (fun l h => sqrtRes f (r l h) (a l h)) ∧
      (let st := fltFmt (vfcvtSt o.mod)
       let x (n : BitVec 8) (l h : Nat) : FV := modV (o.mod.getLsbD 6) (o.mod.getLsbD 4) (fltVal c st n.toNat l h)
       ¬ (fltElems st = 2 ∧ fltElems f = 1) →
       fixed (.vfcvt o) o.g f o.vd (fun l h => roundTo f (r l h) false
         (if fltElems st = 2 then x o.va l h else x (if h = 0 then o.va else o.vb) l 0))) ∧
      (let st := fltFmt (vfcvtSt o.mod)
       let e (l h : Nat) : Nat × Flags := roundTo f (rnd .f32 (o.mod.toNat % 8) l 0) false
         (modV (o.mod.getLsbD 6) (o.mod.getLsbD 4) (fltVal c st o.va.toNat l h))
       opFree (.vfcvt o) s = true → fltElems st = 2 → fltElems f = 1 →
       exec (.vfcvt o) s = .next (s.setMe (opFlags
         ((s.active o.g).foldl (fun acc l => vwr (vwr acc o.vd.toNat l (BitVec.ofNat 32 (e l 0).1)) (o.vd.toNat + 1) l
           (BitVec.ofNat 32 (e l 1).1)) c) s.cur.frag (orFlags ((s.active o.g).map fun l => (e l 0).2 ||| (e l 1).2)))).slotDone) ∧
      (let it : BitVec 3 := BitVec.ofNat 3 (o.mod.toNat / 8)
       let e (l : Nat) : List (Nat × Flags) := (List.range (fltElems f)).map fun h => toIntRes (intTy it) (r l h) (fltVal c f o.va.toNat l h)
       opFree (.vfcvti o) s = true → o.mod.getLsbD 6 = false →
       exec (.vfcvti o) s = .next (s.setMe (writeLanes c s.cur.frag (isPairTy it) o.vd.toNat ((s.active o.g).map fun l =>
         (l, packElems (intTy it) (fun h => ((e l).getD h (0, 0)).1), orFlags ((e l).map (·.2)))))).slotDone) ∧
      (let it : BitVec 3 := BitVec.ofNat 3 (o.mod.toNat / 8)
       o.mod.getLsbD 6 = true →
       fixed (.vfcvti o) o.g f o.vd (fun l h => roundTo f (r l h) false
         (finOf (tyVal (intTy it) (elem (intTy it) (laneVal c (isPairTy it) o.va.toNat l) h)) 1)))) ∧
    (∀ (o : G4) (x : Ext),
      let f := fltFmt o.t2.toNat
      let e : BitVec 46 := match x with | some w => w | none => 0
      let a (l h : Nat) : FV := modV (e.getLsbD 8) (e.getLsbD 5) (fltVal c f o.va.toNat l h)
      let b (l h : Nat) : FV := modV (e.getLsbD 7) (e.getLsbD 4) (fltVal c f o.vb.toNat l h)
      let d (l h : Nat) : FV := modV (e.getLsbD 6) (e.getLsbD 3) (fltVal c f o.vc.toNat l h)
      let r (l h : Nat) : Rnd := rnd f (e.toNat % 8) l h
      fixed (.vfma o x) o.g f o.vd (fun l h => fmaRes f (r l h) (a l h) (b l h) (d l h)) ∧
      fixed (.vfms o x) o.g f o.vd (fun l h => fmaRes f (r l h) (a l h) (b l h) (negV (d l h))) ∧
      fixed (.vfnma o x) o.g f o.vd (fun l h => fmaRes f (r l h) (negV (a l h)) (b l h) (negV (d l h))) ∧
      fixed (.vfnms o x) o.g f o.vd (fun l h => fmaRes f (r l h) (negV (a l h)) (b l h) (d l h))) ∧
    (∀ o : G3, opFree (.vfcmp o) s = true →
      let f := fltFmt o.ty.toNat
      let rs := (s.active o.g).map fun l => (l, fltCmp (o.mod.toNat % 8)
        (modV (o.mod.getLsbD 6) (o.mod.getLsbD 4) (fltVal c f o.va.toNat l 0))
        (modV (o.mod.getLsbD 5) (o.mod.getLsbD 3) (fltVal c f o.vb.toNat l 0)))
      exec (.vfcmp o) s = .next (s.setMe (opFlags (rs.foldl (fun acc r => pwr acc o.vd.toNat r.1 r.2.1) c) s.cur.frag
        (orFlags (rs.map (·.2.2))))).slotDone) ∧
    (∀ o : G3, opFree (.vfclass o) s = true →
      let f := fltFmt o.ty.toNat
      let bit (l h : Nat) : Nat := 2 ^ fltClass f (fltVal c f o.va.toNat l h)
      exec (.vfclass o) s = .next (s.setMe (forLanes (s.active o.g) (fun _ acc l => laneSet acc false o.vd.toNat l
        (if fltElems f = 2 then bit l 0 + 2 ^ 16 * bit l 1 else bit l 0)) c)).slotDone)

/-- 03 R67, R69, R70: an op's flags are ORed into FSTAT; where one of them is enabled in FMODE the cohort owes E_FPTRAP with exactly the flags raised,
once the word is complete and after every other trap it owes, and nothing else of it changes; IOV, which FMODE cannot enable, never traps. 03 R56,
R57, 11 R227-R232: a NaN operand decides: the result is the first NaN quieted, and a signalling one raises invalid; ∞ − ∞, 0 × ∞, 0/0, ∞/∞ and the
root of a negative number give the default NaN with invalid; a finite non-zero number over zero gives an infinity with divide-by-zero. Where the
spec leaves a point open this rests on the model's reading or choice in log entries 34, 35. -/
def Obligations.FloatFlagsAndNans : Prop :=
  (∀ (c : Cohort) (frag : Nat) (fl : BitVec 6),
    let t := opFlags c frag fl
    let on : Prop := ∃ i, i < 5 ∧ fl.getLsbD i = true ∧ c.fmode.getLsbD i = true
    (∀ i, t.fstat.getLsbD i = (c.fstat.getLsbD i || fl.getLsbD i)) ∧
    (on → t.dtraps = c.dtraps ++ [⟨frag, .fpTrap, fl.zeroExtend 64, false, c.tcause.getLsbD 63, none, some (entOf c frag).stamp, false⟩]) ∧
    (¬ on → t.dtraps = c.dtraps) ∧ t.trap = c.trap ∧ t.fmode = c.fmode ∧ t.sr = c.sr ∧ t.vr = c.vr ∧ t.pr = c.pr ∧ t.ents = c.ents) ∧
  (∀ (f : Fmt) (r : Rnd), f = .f64 ∨ f = .f32 ∨ f = .f16 ∨ f = .bf16 →
    let p := fmtEF f
    let inv (fr : Nat) : Flags := if fr.testBit 51 then 0 else fINV
    let quiet (neg : Bool) (fr : Nat) : Nat :=
      signCode f neg + (2 ^ p.1 - 1) * 2 ^ p.2.1 + (fr / 2 ^ (52 - p.2.1) ||| 2 ^ (p.2.1 - 1))
    let dflt : Nat := (2 ^ p.1 - 1) * 2 ^ p.2.1 + 2 ^ (p.2.1 - 1)
    (∀ neg fr b x, isNan b = false → opRes f r [.nan neg fr, b] x = (quiet neg fr, inv fr)) ∧
    (∀ neg fr a x, isNan a = false → opRes f r [a, .nan neg fr] x = (quiet neg fr, inv fr)) ∧
    (∀ n1 f1 n2 f2 x, (opRes f r [.nan n1 f1, .nan n2 f2] x).1 = quiet n1 f1) ∧
    (∀ rd neg, opRes f r [.inf neg, .inf (!neg)] (addV rd (.inf neg) (.inf (!neg))) = (dflt, fINV)) ∧
    (∀ neg s d, opRes f r [.fin s 0 d, .inf neg] (mulV (.fin s 0 d) (.inf neg)) = (dflt, fINV)) ∧
    (∀ s t d e, divRes f r (.fin s 0 d) (.fin t 0 e) = (dflt, fINV)) ∧ (∀ s t, divRes f r (.inf s) (.inf t) = (dflt, fINV)) ∧
    (∀ s t n d e, n ≠ 0 → divRes f r (.fin s n d) (.fin t 0 e) = (signCode f (s != t) + (2 ^ p.1 - 1) * 2 ^ p.2.1, fDZ)) ∧
    (∀ n d, n ≠ 0 → sqrtRes f r (.fin true n d) = (dflt, fINV)) ∧ sqrtRes f r (.inf true) = (dflt, fINV) ∧
    (∀ s d, sqrtRes f r (.fin s 0 d) = (signCode f s, 0)))

/-- 03 R58-R60: a value that a floating format holds rounds to its own code with no flag, in every rounding mode and at every dither position; so
rounding again changes nothing. -/
def Obligations.ExactValuesRoundToThemselves : Prop :=
  ∀ (f : Fmt) (r : Rnd) (sat : Bool) (code : Nat) (neg : Bool) (n d : Nat),
    f = .f64 ∨ f = .f32 ∨ f = .f16 ∨ f = .bf16 ∨ f = .e5m2 ∨ f = .e4m3 ∨ f = .e2m1 →
    code < 2 ^ fmtBits f → decodeFloat f code = .fin neg n d → roundTo f r sat (.fin neg n d) = (code, 0)

/-- 11 R233, R234: `vfrcp`, `vfrsq`, `vfexp2`, `vflog2`, `vfsin`, `vfcos`, `vftanh` and `vfsig` complete, with their results outstanding in each active
lane; a packed element is widened, evaluated and rounded once; and the exact and special cases of R234 hold whatever value the SC12 chooses
elsewhere. -/
def Obligations.SpecialFunctions : Prop :=
  (∀ (o : G3) (s : State),
    let c := s.me
    let f := fltFmt o.ty.toNat
    let res (fn : Nat) (l h : Nat) : Nat × Flags :=
      let r := sfuRes fn o.ty.toNat (modV (o.mod.getLsbD 6) (o.mod.getLsbD 4) (fltVal c f o.va.toNat l h))
      if f = .f32 then r else ((roundTo f rne false (decodeFloat .f32 r.1)).1, r.2 ||| (roundTo f rne false (decodeFloat .f32 r.1)).2)
    let ws (r : Nat × Nat × Flags) : List Wr :=
      if f = .f64 then [⟨.v o.vd.toNat r.1, dw r.2.1⟩, ⟨.v (o.vd.toNat + 1) r.1, dw (r.2.1 / 2 ^ 32)⟩] else [⟨.v o.vd.toNat r.1, dw r.2.1⟩]
    let after (fn : Nat) : State :=
      let rs := (s.active o.g).map fun l => (l, laneRes f (res fn l))
      (s.addPend .known (rs.flatMap ws) none (orFlags (rs.map (·.2.2)))).slotDone
    (opFree (.vfrcp o) s = true → exec (.vfrcp o) s = .next (after 0)) ∧
    (opFree (.vfrsq o) s = true → exec (.vfrsq o) s = .next (after 1)) ∧
    (opFree (.vfexp2 o) s = true → exec (.vfexp2 o) s = .next (after 2)) ∧
    (opFree (.vflog2 o) s = true → exec (.vflog2 o) s = .next (after 3)) ∧
    (opFree (.vfsin o) s = true → exec (.vfsin o) s = .next (after 4)) ∧
    (opFree (.vfcos o) s = true → exec (.vfcos o) s = .next (after 5)) ∧
    (opFree (.vftanh o) s = true → exec (.vftanh o) s = .next (after 6)) ∧
    (opFree (.vfsig o) s = true → exec (.vfsig o) s = .next (after 7))) ∧
  (∀ ty s d,
    let pinf : Nat := 0x7F800000
    let ninf : Nat := 0xFF800000
    let dn : Nat := 0x7FC00000
    let sign (s : Bool) (v : Nat) : Nat := if s then 2 ^ 31 + v else v
    sfuRes 0 ty (.fin s 0 d) = (sign s pinf, fDZ) ∧ sfuRes 0 ty (.inf s) = (sign s 0, 0) ∧
    sfuRes 1 ty (.fin s 0 d) = (sign s pinf, fDZ) ∧ sfuRes 1 ty (.inf false) = (0, 0) ∧ sfuRes 1 ty (.inf true) = (dn, fINV) ∧
    (∀ n, n ≠ 0 → sfuRes 1 ty (.fin true n d) = (dn, fINV)) ∧
    sfuRes 2 ty (.inf true) = (0, 0) ∧ sfuRes 2 ty (.inf false) = (pinf, 0) ∧
    (∀ n, 128 * d ≤ n → sfuRes 2 ty (.fin false n d) = (pinf, fOVF ||| fINX)) ∧
    sfuRes 3 ty (.fin s 0 d) = (ninf, fDZ) ∧ sfuRes 3 ty (.inf true) = (dn, fINV) ∧ sfuRes 3 ty (.inf false) = (pinf, 0) ∧
    (∀ n, n ≠ 0 → sfuRes 3 ty (.fin true n d) = (dn, fINV)) ∧
    sfuRes 4 ty (.fin s 0 d) = (sign s 0, 0) ∧ sfuRes 4 ty (.inf s) = (dn, fINV) ∧
    sfuRes 5 ty (.fin s 0 d) = (0x3F800000, 0) ∧ sfuRes 5 ty (.inf s) = (dn, fINV) ∧
    sfuRes 6 ty (.fin s 0 d) = (sign s 0, 0) ∧ sfuRes 6 ty (.inf s) = (sign s 0x3F800000, 0) ∧
    (∀ n, d ≠ 0 → 9 * d ≤ n → sfuRes 6 ty (.fin s n d) = (sign s 0x3F800000, fINX)) ∧
    sfuRes 7 ty (.fin s 0 d) = (0x3F000000, 0) ∧ sfuRes 7 ty (.inf false) = (0x3F800000, 0) ∧ sfuRes 7 ty (.inf true) = (0, 0))

/-- 02 R37, 11 R239-R243: the quantisers. A slot that fails R37, or that the op does not accept, traps E_FSLOT; a run, or the scale register where it is
read, that reaches the register count traps E_REGRANGE with its highest register; else `vqsc`, `vqnt` and `vdqnt` complete: each active lane's 32
elements are scaled, quantised or read back, and `vqnt` advances DPH. Where the spec leaves a point open this rests on the model's reading or choice
in log entry 37. -/
def Obligations.QuantisersComplete : Prop :=
  ∀ (o : G3) (s : State),
    let c := s.me
    let stop (i : Instr) (k : Cause) (info : DWord) : Prop := exec i s = .next ((s.raise k info).slotFailed none)
    let free (i : Instr) : Prop := accHeld i s = false ∧ c.lost = []
    let elemAt (l e : Nat) : FV := fltVal c .f32 (o.va.toNat + e) l 0
    (free (.vqsc o) → free (.vqnt o) → free (.vdqnt o) → slotOf c o.ty.toNat = none →
      stop (.vqsc o) .fSlot 0 ∧ stop (.vqnt o) .fSlot 0 ∧ stop (.vdqnt o) .fSlot 0) ∧
    (∀ sl tab, slotOf c o.ty.toNat = some (sl, tab) →
      let w := fmtBits sl.elem
      let wide : Prop := sl.elem = .f64 ∨ sl.elem = .f32
      let scale (l e : Nat) : Nat := if sl.sf = 0 then 0 else scaleByte c o.vb.toNat l (e / sl.bs)
      (free (.vqsc o) →
        let top := max (o.va.toNat + 31) o.vd.toNat
        (sl.sf = 0 → stop (.vqsc o) .fSlot 0) ∧
        (sl.sf ≠ 0 → c.nreg ≤ top → stop (.vqsc o) .regRange (dw top)) ∧
        (sl.sf ≠ 0 → top < c.nreg → ∃ f : Nat → Nat,
          exec (.vqsc o) s = .next (s.setMe (forLanes (s.active o.g) (fun _ acc l => laneSet acc false o.vd.toNat l (f l)) c)).slotDone ∧
          ∀ l, f l = (List.range (32 / sl.bs)).foldl (fun v b => v + 256 ^ b *
            deriveScale ((List.range sl.bs).map fun e => elemAt l (b * sl.bs + e)) sl.elem sl.sf) 0)) ∧
      (free (.vqnt o) →
        let top := max (max (o.va.toNat + 31) (o.vd.toNat + w - 1)) (if sl.sf = 0 then 0 else o.vb.toNat)
        (wide → stop (.vqnt o) .fSlot 0) ∧
        (¬ wide → c.nreg ≤ top → stop (.vqnt o) .regRange (dw top)) ∧
        (¬ wide → top < c.nreg → ∃ u, exec (.vqnt o) s = .next (s.setMe u).slotDone ∧
          bits u.fmode 8 5 = (bits c.fmode 8 5 + 1) % 32 ∧ u.sr = c.sr ∧ u.pr = c.pr ∧
          ((∀ m ∈ s.active o.g, m < 64) → ∀ l ∈ s.active o.g, ∀ k, k < w → vrd u (o.vd.toNat + k) l =
            BitVec.ofNat 32 ((List.range (32 / w)).foldl (fun a i =>
              let e := k * (32 / w) + i
              a + 2 ^ (w * i) * (quantise (elemAt l e) sl tab (scale l e) (if sl.bs = 1 then e else e % sl.bs) (bits c.fmode 8 5)).1) 0)))) ∧
      (free (.vdqnt o) →
        let top := max (max (o.va.toNat + w - 1) (o.vd.toNat + 31)) (if sl.sf = 0 then 0 else o.vb.toNat)
        (wide → stop (.vdqnt o) .fSlot 0) ∧
        (¬ wide → c.nreg ≤ top → stop (.vdqnt o) .regRange (dw top)) ∧
        (¬ wide → top < c.nreg → ∃ u, exec (.vdqnt o) s = .next (s.setMe u).slotDone ∧
          u.fmode = c.fmode ∧ u.sr = c.sr ∧ u.pr = c.pr ∧
          ((∀ m ∈ s.active o.g, m < 64) → ∀ l ∈ s.active o.g, ∀ e, e < 32 → (vrd u (o.vd.toNat + e) l).toNat =
            (roundTo .f32 rne false (fetchElem sl tab (runCode c w o.va.toNat l e) (scale l e)).1).1 % 2 ^ 32))))

/-- 12 R250-R254, 08 R179: `mld` and `mldsc` complete after their checks: they join the matrix queue with the 8-byte units of their rows, an acquire
holding the cohort, `mld` making the shadow plane a loading one of its slot. A load reads its units one by one; with the last one the plane becomes
valid, or FAILED with the lowest address that could not be read. `mswp` joins the queue and completes, the planes exchanged, once the cohort's loads
have read theirs, or traps with the shadow plane's cause. -/
def Obligations.MatrixPlanes : Prop :=
  ∀ (s : State),
    let c := s.me
    let cid := s.cur.cid
    let core := coreOf cid
    let stop (i : Instr) (k : Cause) (info : DWord) : Prop := exec i s = .next ((s.raise k info).slotFailed none)
    let queued (i : Instr) (t : State) (l : List (Acs × Nat × BitVec 2)) (ord : BitVec 2) (sc : BitVec 3) : Prop :=
      t.me.act = c.act ∧ t.me.mused = c.mused ∧ t.me.sr = c.sr ∧ t.me.vr = c.vr ∧ t.mem = s.mem ∧
      (ord.getLsbD 0 = true → t.me.waits = c.waits ++ [.acquire c.nextVid sc []]) ∧ (ord.getLsbD 0 = false → t.me.waits = c.waits) ∧
      ∃ e : MatEnt, (t.core core).matq.getLast? = some e ∧ e.op = i ∧ e.cid = cid ∧ e.done = false ∧
        e.units = l.map (fun a => (a.2.1, a.1.addr)) ∧ e.todo = List.range l.length
    (∀ (o : M) (x : Ext), opFree (.mld o x) s = true →
      (slotOf c o.sz.toNat = none → stop (.mld o x) .fSlot 0) ∧
      (∀ sl tab g, slotOf c o.sz.toNat = some (sl, tab) → groupOf sl.elem = some g →
        let rowb := groupN g * fmtBits sl.elem / 8
        let rstr := match x with | some w => w.toNat % 2 ^ 24 | none => 0
        let addr := srd c o.sb.toNat + BitVec.ofInt 64 (64 * o.off.toInt)
        let us := (List.range (groupK g)).flatMap fun k => (List.range (rowb / 8)).map fun j =>
          addr + dw (k * (if rstr = 0 then rowb else 8 * rstr)) + dw (8 * j)
        (addr.toNat % 8 ≠ 0 → stop (.mld o x) .align addr) ∧
        (∀ l s', checkPlane s o.sp 8 addr us = .ok l s' → matRoom s' core = true →
          ∃ t : State, exec (.mld o x) s = .next t.slotDone ∧ t.me.shd = ⟨.loading, o.sz.toNat, [], [], .none0, 0⟩ ∧
            queued (.mld o x) t l o.ord o.sc))) ∧
    (∀ o : M, opFree (.mldsc o) s = true →
      (c.shd.st = .empty ∨ c.shd.slot ≠ o.sz.toNat → stop (.mldsc o) .fSlot 0) ∧
      (∀ sl tab g, slotOf c o.sz.toNat = some (sl, tab) → groupOf sl.elem = some g →
        (sl.sf = 0 → stop (.mldsc o) .fSlot 0) ∧
        (sl.sf ≠ 0 → c.shd.st ≠ .empty → c.shd.slot = o.sz.toNat →
          let addr := srd c o.sb.toNat + BitVec.ofInt 64 (32 * o.off.toInt)
          let us := (List.range (groupK g / sl.bs)).flatMap fun k => (List.range (groupN g / 8)).map fun j =>
            addr + dw (k * groupN g) + dw (8 * j)
          (addr.toNat % 32 ≠ 0 → stop (.mldsc o) .align addr) ∧
          (∀ l s', checkPlane s o.sp 32 addr us = .ok l s' → matRoom s' core = true →
            ∃ t : State, exec (.mldsc o) s = .next t.slotDone ∧ t.me.shd = c.shd ∧ queued (.mldsc o) t l o.ord o.sc)))) ∧
    (∀ k (e : MatEnt) rest i u, (s.core k).matq = e :: rest → isLoad e.op = true → e.done = false → e.todo = [i] → e.units[i]? = some u →
      unitCan s k e u = true → (∀ x ∈ rest, isLoad x.op = false ∧ x.todo = [] ∧ x.seq ≠ e.seq) →
      let r := e.readUnit s k i
      ∃ t : State, exec (.planeLoadComplete k) s = .next t ∧ (t.cohort e.cid).shd = loadedPlane (s.cohort e.cid) r ∧
        { r with done := true } ∈ (t.core k).matq ∧ t.mem = s.mem) ∧
    (∀ (d : Cohort) (e : MatEnt),
      let bytes := (List.range e.units.length).flatMap fun i => leBytes 8 (tget 0 e.got i).toNat
      (∀ o x sl tab, e.op = .mld o x → slotOf d o.sz.toNat = some (sl, tab) → e.bad = [] →
        (loadedPlane d e).st = .valid ∧ (loadedPlane d e).slot = d.shd.slot ∧ (loadedPlane d e).codes = planeCodes sl.elem bytes) ∧
      (∀ o x f, e.op = .mld o x → f ∈ e.bad → (loadedPlane d e).st = .failed ∧ (loadedPlane d e).info.toNat ≤ f.2.toNat) ∧
      (∀ o, e.op = .mldsc o → e.bad = [] → loadedPlane d e = { d.shd with scales := bytes.map (·.toNat) }) ∧
      (∀ o f, e.op = .mldsc o → f ∈ e.bad → (loadedPlane d e).st = .failed)) ∧
    (∀ o : G3, opFree (.mswp o) s = true →
      let mine (e : MatEnt) : Prop := e.cid = cid ∧ e.op = .mswp o ∧ e.done = false
      matRoom s core = true ∨ (∃ e ∈ (s.core core).matq, mine e) →
      ((∀ e ∈ (s.core core).matq, e.cid = cid → isLoad e.op = true → e.done = true) →
        (c.shd.st ≠ .failed → ∃ t : State, exec (.mswp o) s = .next t.slotDone ∧ t.me = { c with act := c.shd, shd := c.act } ∧
          (∃ e ∈ (t.core core).matq, e.cid = cid ∧ e.op = .mswp o ∧ e.done = true) ∧ (∀ e ∈ (t.core core).matq, ¬ mine e) ∧ t.mem = s.mem) ∧
        (c.shd.st = .failed → ∃ t : State, exec (.mswp o) s = .next ((t.raise c.shd.cause c.shd.info).slotFailed none) ∧ t.me = c ∧
          (∀ e ∈ (t.core core).matq, ¬ mine e) ∧ t.mem = s.mem)) ∧
      (∀ e ∈ (s.core core).matq, e.cid = cid → isLoad e.op = true → e.done = false →
        ∃ t : State, exec (.mswp o) s = .next (settle (.wait .other t)) ∧ t.me = c ∧ (∃ f ∈ (t.core core).matq, mine f) ∧ e ∈ (t.core core).matq))

/-- 08 R180, 12 R256-R264: `mmac` and `mmacz` complete after their checks: they read their A rows at issue and join the queue with the active plane and
a charge U between a quarter of c = ⌈W·K·N/rate⌉ and c, which MUSED gains; `mwait` completes with at most VB of the cohort's ops unfinished and no
trap of theirs owed, and `mbud.used` and `mbud.cred` complete, with MUSED or the credit's floor in 16 bits of two's complement. 08 R181, R182, 12
R260, R261: the credit grows by RATE/256 a cycle up to CAP; with the unit free the entry of the lowest U, ties to the older, is chosen, and held,
until it starts once the credit is at least U (or equals CAP, where U is more), which takes U away and holds the unit for c cycles; when they are
over its rows have come, those of lanes whose result mismatched twice apart, for which the cohort owes E_SOFT. Where the spec leaves a point open
this rests on the model's reading or choice in log entry 37. -/
def Obligations.MatrixUnit : Prop :=
  (∀ (s : State),
    let c := s.me
    let core := coreOf s.cur.cid
    let stop (i : Instr) (k : Cause) (info : DWord) : Prop := exec i s = .next ((s.raise k info).slotFailed none)
    (∀ (o : G3) (x : Ext) (i : Instr), i = .mmac o x ∨ i = .mmacz o x → c.lost = [] →
      let klim := match x with | some w => bits (w.zeroExtend 64) 16 8 | none => 0
      (slotOf c o.ty.toNat = none → stop i .fSlot 0) ∧
      (∀ sl tab, slotOf c o.ty.toNat = some (sl, tab) → groupOf sl.elem = none → stop i .fSlot 0) ∧
      (∀ sl tab g, slotOf c o.ty.toNat = some (sl, tab) → groupOf sl.elem = some g →
        (c.act.st = .empty → stop i .illegal 0) ∧
        (∀ pl tab', c.act.st ≠ .empty → slotOf c c.act.slot = some (pl, tab') →
          let odd : Prop := g = .d ∧ (o.va.toNat % 2 = 1 ∨ o.vd.toNat % 2 = 1)
          let na := if g = .d then 8 else groupK g * fmtBits sl.elem / 32
          let ns := if sl.sf = 0 then 0 else (groupK g / sl.bs + 3) / 4
          let top := max (max (o.va.toNat + na - 1) (o.vd.toNat + 15)) (if sl.sf = 0 then 0 else o.vb.toNat + ns - 1)
          (groupOf pl.elem ≠ some g → stop i .fSlot 0) ∧
          (groupOf pl.elem = some g → groupK g < klim ∨ odd → stop i .illegal 0) ∧
          (groupOf pl.elem = some g → klim ≤ groupK g → ¬ odd → c.nreg ≤ top → stop i .regRange (dw top)) ∧
          (groupOf pl.elem = some g → klim ≤ groupK g → ¬ odd → top < c.nreg → matRoom s core = true →
            ∃ (t : State) (e : MatEnt), exec i s = .next t.slotDone ∧ (t.core core).matq.getLast? = some e ∧ e.op = i ∧ e.plane = c.act ∧ e.vid = some c.nextVid ∧
              e.lanes = s.active o.g ∧ e.rows.length = e.lanes.length ∧
              c.w * groupK g * groupN g ≤ e.c * groupRate g pl.elem ∧ e.c * groupRate g pl.elem < c.w * groupK g * groupN g + groupRate g pl.elem ∧
              (e.c + 3) / 4 ≤ e.u ∧ e.u ≤ e.c ∧ ((∀ r ∈ e.rows, ∀ a ∈ r, ∀ b ∈ r, a = b) → e.u = (e.c + 3) / 4) ∧
              t.me.mused = c.mused + dw e.u ∧ t.me.sr = c.sr ∧ t.me.vr = c.vr ∧ t.me.act = c.act ∧ t.me.shd = c.shd ∧
              t.me.fstat = c.fstat ∧ t.mem = s.mem)))) ∧
    (∀ o : G3, opFree (.mwait o) s = true → c.dtraps = [] → (matLeft s s.cur.cid).length ≤ o.vb.toNat →
      exec (.mwait o) s = .next s.slotDone) ∧
    (∀ o : G3, opFree (.mwait o) s = true → c.dtraps = [] → o.vb.toNat < (matLeft s s.cur.cid).length →
      exec (.mwait o) s = .next (settle (.wait .other s))) ∧
    (∀ o : G3, opFree (.mwait o) s = true → c.dtraps ≠ [] → exec (.mwait o) s = .next (s.slotFailed none)) ∧
    (∀ o : G3, opFree (.mbudUsed o) s = true → exec (.mbudUsed o) s = .next (s.setS o.vd.toNat c.mused).slotDone) ∧
    (∀ o : G3, opFree (.mbudCred o) s = true →
      exec (.mbudCred o) s = .next (s.setS o.vd.toNat ((BitVec.ofInt 16 (Int.fdiv (credNow s core) 256)).signExtend 64)).slotDone)) ∧
  (∀ (s : State) (core : Nat),
    let k := s.core core
    let now := s.cycOf (dieOfCore core)
    let cap : Int := k.cap.toNat * 256
    let cred : Int := min cap (k.cred + k.rate.toNat * ((now : Int) - k.credAt))
    (∃ t : State, exec (.matrixCreditRefill core) s = .next t ∧ t.core core = { k with cred := cred, credAt := now }) ∧
    (∀ r, ∃ t : State, exec (.powerManagementRateWrite core r) s = .next t ∧ t.core core = { k with cred := cred, credAt := now, rate := r }) ∧
    (∀ e, k.matRun = none → e ∈ matCandidates (matPrune s k.matq) →
      (k.matPick = none ∧ ∀ x ∈ matCandidates (matPrune s k.matq), x.seq < 2 ^ 64 ∧ (∀ t0, x.since = some t0 → now < t0 + 1024) ∧
        (x ≠ e → e.u < x.u ∨ (e.u = x.u ∧ e.seq < x.seq))) ∨
      (k.matPick = some e.seq ∧ ∀ x ∈ matCandidates (matPrune s k.matq), x.seq = e.seq → x = e) →
      let fee : Int := (e.u : Int) * 256
      (k.rate ≠ 0 → fee ≤ cred ∨ (cap < fee ∧ cred = cap) →
        ∃ (t : State) (r : MatRun), exec (.matrixStart core) s = .next t ∧ (t.core core).matRun = some r ∧ r.ent = e ∧ r.endAt = now + e.c ∧
          (t.core core).cred = cred - fee) ∧
      (k.rate = 0 →
        ∃ (t : State) (r : MatRun), exec (.matrixStart core) s = .next t ∧ (t.core core).matRun = some r ∧ r.ent = e ∧ r.endAt = now + e.c) ∧
      (k.rate ≠ 0 → cred < fee → ¬ (cap < fee ∧ cred = cap) →
        ∃ t : State, exec (.matrixStart core) s = .next t ∧ (t.core core).matRun = none ∧ (t.core core).cred = cred ∧
          (t.core core).matPick = some e.seq)) ∧
    (∀ r bad1 bad2, k.matRun = some r → r.endAt ≤ now →
      let lanes := maskOf r.ent.lanes
      let bad := bad2 &&& lanes
      let c := s.cohort r.ent.cid
      ∃ t : State, exec (.matrixComplete core bad1 bad2) s = .next t ∧ (t.core core).matRun = none ∧
        let u := t.cohort r.ent.cid
        (∀ p ∈ c.pend, some p.vid = r.ent.vid → bad1 &&& lanes = 0 →
          { p with kind := .known, writes := r.writes, flags := r.flags } ∈ u.pend) ∧
        (∀ p ∈ c.pend, some p.vid ≠ r.ent.vid → p ∈ u.pend) ∧
        (bad1 &&& lanes = 0 ∨ bad = 0 → u.dtraps = c.dtraps) ∧
        (bad1 &&& lanes ≠ 0 → bad ≠ 0 → ∃ f, u.dtraps = c.dtraps ++ [⟨f, .soft, bad, false, c.tcause.getLsbD 63, none, none, false⟩] ∧
          ∀ p ∈ u.pend, some p.vid = r.ent.vid → ∀ w ∈ p.writes, ∀ n l, w.dst = .v n l → bad.getLsbD l = false) ∧
        u.sr = c.sr ∧ u.vr = c.vr))

/-- 03 R71-R73: the sums of a matrix op. An integer sum wraps modulo 2^32, with IOV exactly where it lies outside the INT32 range; a window that every
term fits is the exact sum rounded once to nearest even; a NaN operand decides, and infinities of both signs give the default NaN with invalid. -/
def Obligations.MatrixSums : Prop :=
  (∀ (a b : List Int) (c : Nat),
    let x : Int := ((a.zip b).map fun p => p.1 * p.2).sum + (BitVec.ofNat 32 c).toInt
    matInt a b c = ((BitVec.ofInt 32 x).toNat, if -(2 : Int) ^ 31 ≤ x ∧ x < 2 ^ 31 then 0 else fIOV)) ∧
  (∀ xs : List Int, (∀ x ∈ xs, x ≠ 0 ∧ x.natAbs < 2 ^ 64) →
    windowSum (xs.map fun x => (decide (x < 0), x.natAbs, 1)) = roundTo .f32 rne false (finOf xs.sum 1)) ∧
  (∀ (a b : List FV) (c : FV) neg fr,
    (matSum (.nan neg fr :: a) b c).1 = signCode .f32 neg + 0xFF * 2 ^ 23 + (fr / 2 ^ 29 ||| 2 ^ 22)) ∧
  (∀ (a b : List FV), (∀ v ∈ a ++ b, isNan v = false) → ∀ neg, .inf neg ∈ (a.zip b).filterMap (fun p => mulV p.1 p.2) →
    matSum a b (.inf (!neg)) = (0x7FC00000, fINV)) ∧
  (∀ (a b : FV) (c : Nat) as bs fl,
    matChain (a :: as) (b :: bs) c fl = matChain as bs (fmaRes .f64 rne a b (decodeFloat .f64 c)).1
      (fl ||| (fmaRes .f64 rne a b (decodeFloat .f64 c)).2))

/-- 14 R284, 09 R192: the checks of an access, over all its units, in order: alignment, the space, what translation refuses, what it parks; the first
that any unit fails decides, with the lowest address among those that fail it. The op then traps with it, or parks, and writes nothing. -/
def Obligations.AccessChecksInOrder : Prop :=
  ∀ (s : State) (sp : BitVec 2) (kind : Acc) (reads fill : Bool) (us : List Acs),
    let tr (u : Acs) : Tr := translate s (coreOf s.cur.cid) s.me.ctx (s.blk s.me.blk) sp kind u.addr
    let mis (u : Acs) : Prop := u.addr.toNat % u.size ≠ 0
    let refused (u : Acs) : Prop := tr u = .xlate ∨ tr u = .protect
    let calm (t : State) : Prop := t.cohorts = s.cohorts
    let least (p : Acs → Prop) (u : Acs) : Prop := u ∈ us ∧ p u ∧ ∀ v ∈ us, p v → u.addr.toNat ≤ v.addr.toNat
    let chk := checkMine s sp kind reads fill us
    (∀ u, least mis u → chk = .bad (.trap .align u.addr s)) ∧
    (∀ u, (∀ v ∈ us, ¬ mis v) → least (fun v => tr v = .outside) u → chk = .bad (.trap .protect u.addr s)) ∧
    (∀ u, (∀ v ∈ us, ¬ mis v ∧ tr v ≠ .outside) → least refused u →
      (tr u = .xlate → ∃ t, chk = .bad (.trap .xlate u.addr t) ∧ calm t) ∧
      (tr u = .protect → ∃ t, chk = .bad (.trap .protect u.addr t) ∧ calm t)) ∧
    (∀ u, (∀ v ∈ us, ¬ mis v ∧ tr v ≠ .outside ∧ ¬ refused v) → least (fun v => tr v = .park) u →
      ∃ n t, chk = .bad (.park ⟨n, u.addr, kind == .write⟩ t) ∧ calm t ∧ t.mem = s.mem ∧ ∃ r ∈ t.preqs, r.n = n ∧
        r.ctx = s.me.ctx ∧ r.page = (u.addr >>> 12) <<< 12 ∧ ((∀ q ∈ s.preqs, q.ctx ≠ r.ctx ∨ q.page ≠ r.page) → r.write = (kind == .write))) ∧
    (∀ r, chk = .bad r →
      (∀ (o : M) (x : Ext), us = strideUnits s o x (szBytes o.sz) → sp = o.sp → kind = .read → reads = true → fill = false →
        opFree (.ld o x) s = true → exec (.ld o x) s = .next (settle r)) ∧
      (∀ (o : M) (x : Ext), us = strideUnits s o x (szBytes o.sz) → sp = o.sp → kind = .write → reads = false → fill = true →
        opFree (.st o x) s = true → exec (.st o x) s = .next (settle r)) ∧
      (∀ o : MG, us = gatherUnits s o → sp = o.sp → kind = .read → reads = true → fill = false →
        opFree (.ldg o) s = true → exec (.ldg o) s = .next (settle r)) ∧
      (∀ o : MG, us = gatherUnits s o → sp = o.sp → kind = .write → reads = false → fill = true →
        opFree (.stg o) s = true → exec (.stg o) s = .next (settle r)))

/-- 14 R285, 09 R190: a store to scratch. Each byte of memory reads after it as the highest lane that stores there gives it, at the addresses `memAddr`,
`strideUnits` and `gatherUnits` compute, and every other byte of memory, every register and flag as before. 09 R190, 14 R285: a load from scratch
changes no register at once, nor memory, and leaves as its result the bytes at its addresses, least significant first: 8 and 16 bits extended as SZ
says, a pair or a quad register by register. -/
def Obligations.ScratchAccesses : Prop :=
  (∀ (s : State) (x : Ext),
    let core := coreOf s.cur.cid
    let stores (i : Instr) (sp : BitVec 2) (ord : BitVec 2) (sc : BitVec 3) (us : List Acs) (data : Acs → List Byte) : Prop :=
      opFree i s = true → ∀ l s', checkMine s sp .write false true us = .ok l s' →
        (∀ c, relScope s (isRel ord) sc.toNat = some c → (s'.release s.cur.cid c).1 = true ∧ otherRel s' core [] = none) →
        leaseHolds s' core s.cur.cid l = false → atomLate s' s.cur.cid (unitKeys l) = false → readLate s' s.cur.cid (unitKeys l) = false →
        missUse s' core ≤ 128 → (∀ a ∈ l, isScratch a.2.1 = true ∧ (s.gran a.2.1).cls ≠ 1) →
        ∃ t : State, exec i s = .next t.slotDone ∧
          (∀ k, t.byte k = match l.reverse.find? (fun a => a.2.1 ≤ k && k < a.2.1 + a.1.size) with
            | some a => (data a.1).getD (k - a.2.1) 0
            | none => s.byte k) ∧
          t.me.sr = s.me.sr ∧ t.me.vr = s.me.vr ∧ t.me.pr = s.me.pr ∧ t.me.xr = s.me.xr ∧ t.me.jr = s.me.jr ∧ t.me.fstat = s.me.fstat ∧
          t.me.fmode = s.me.fmode ∧ t.me.tcause = s.me.tcause ∧ (∀ c, c ≠ s.cur.cid → t.cohort c = s.cohort c)
    (∀ o : M, stores (.sst o x) o.sp o.ord o.sc [⟨0, memAddr s.me o x (szBytes o.sz), szBytes o.sz⟩]
      fun _ => leBytes (szBytes o.sz) (srd s.me o.vd.toNat).toNat) ∧
    (∀ o : M, stores (.st o x) o.sp o.ord o.sc (strideUnits s o x (szBytes o.sz)) (laneData s.me o.sz o.vd)) ∧
    (∀ o : M, stores (.stq o x) o.sp o.ord o.sc (strideUnits s o x 16) (quadData s.me o.vd)) ∧
    (∀ o : MG, stores (.stg o) o.sp o.ord o.sc (gatherUnits s o) (laneData s.me o.sz o.vd))) ∧
  (∀ (s : State) (x : Ext),
    let core := coreOf s.cur.cid
    let val (key n : Nat) : Nat := leNat (s.bytes key n)
    let ext (sz : BitVec 3) (v : Nat) : DWord :=
      if sz = 4 then (BitVec.ofNat 8 v).signExtend 64 else if sz = 5 then (BitVec.ofNat 16 v).signExtend 64 else dw v
    let loads (i : Instr) (sp : BitVec 2) (us : List Acs) (res : Acs × Nat × BitVec 2 → List Wr) : Prop :=
      opFree i s = true → ∀ l s', checkMine s sp .read true false us = .ok l s' →
        leaseHolds s' core s.cur.cid l = false → atomLate s' s.cur.cid (unitKeys l) = false → planeLate s' s.cur.cid (unitKeys l) = false →
        missUse s' core ≤ 128 → (∀ a ∈ l, isScratch a.2.1 = true ∧ ∀ i, i < a.1.size → s.scratchPois (a.2.1 + i) = false) →
        ∃ (t : State) (p : Pend), exec i s = .next t.slotDone ∧ t.me.pend = s.me.pend ++ [p] ∧ p.vid = s.me.nextVid ∧
          pendReady t.me p = some (l.flatMap res) ∧ t.me.sr = s.me.sr ∧ t.me.vr = s.me.vr ∧ t.me.fstat = s.me.fstat ∧ t.mem = s.mem
    (∀ o : M, o.sz.toNat ≤ 5 → loads (.sld o x) o.sp [⟨0, memAddr s.me o x (szBytes o.sz), szBytes o.sz⟩] fun a =>
      [⟨.s o.vd.toNat, ext o.sz (val a.2.1 (szBytes o.sz))⟩]) ∧
    (∀ o : M, o.sz.toNat ≤ 5 → loads (.ld o x) o.sp (strideUnits s o x (szBytes o.sz)) fun a =>
      if o.sz = 3 then [⟨.v o.vd.toNat a.1.lane, dw (val a.2.1 8)⟩, ⟨.v (o.vd.toNat + 1) a.1.lane, dw (val a.2.1 8) >>> 32⟩]
      else [⟨.v o.vd.toNat a.1.lane, ext o.sz (val a.2.1 (szBytes o.sz))⟩]) ∧
    (∀ o : M, loads (.ldq o x) o.sp (strideUnits s o x 16) fun a =>
      (List.range 4).map fun i => ⟨.v (o.vd.toNat + i) a.1.lane, dw (val (a.2.1 + 4 * i) 4)⟩))

/-- 14 R288-R291: `cp.in`, `cp.out` and `cp.tile` join the copy queue as one request of BYTES·ROWS bytes, packed on its near side and, for `cp.tile`,
STRIDE apart on its far one; an operand that is not a multiple of 16 traps E_ALIGN, and nothing is moved at issue. 14 R290-R292, R294: the copy unit
starts a core's oldest request; a unit of 16 bytes that may move is written to scratch as its source reads, counts 16 bytes on the request's barrier
and is no longer to do; a refused address aborts the request, which poisons its barrier or is owed as E_COPYABORT; a request with a mark writes it
last. -/
def Obligations.CopyUnit : Prop :=
  (∀ (s : State) (o : M) (x : Ext),
    let c := s.me
    let core := coreOf s.cur.cid
    let b := s.blk c.blk
    let w : BitVec 46 := match x with | some w => w | none => 0
    let f (lo n : Nat) : Nat := bits (w.zeroExtend 64) lo n
    let near := srd c o.vd.toNat
    let far := srd c o.sb.toNat + BitVec.ofInt 64 (16 * o.off.toInt)
    let nsp : BitVec 2 := if o.sz = 1 then 2 else 1
    let issues (i : Instr) (toNear : Bool) (rowb rows : Nat) (stride : DWord) (bar : Option Nat) (mark : Option (DWord × DWord)) : Prop :=
      opFree i s = true →
      let faraddr (u : Nat) : DWord := far + dw (16 * u / rowb) * stride + dw (16 * u % rowb)
      let scope : Nat := if o.ord = 2 then o.sc.toNat else if toNear = false then 4 else if o.sz = 1 then 2 else 1
      (∀ v, [near, far, dw rowb, stride].find? (fun v => v.toNat % 16 != 0) = some v →
        exec i s = .next ((s.raise .align v).slotFailed none)) ∧
      (near.toNat % 16 = 0 → far.toNat % 16 = 0 → rowb % 16 = 0 → rowb < 2 ^ 13 → stride.toNat % 16 = 0 →
        (∀ m v, mark = some (m, v) → m.toNat % 8 = 0 ∧ translate s core c.ctx b nsp .read m ≠ .outside) →
        (∀ u, u < rowb * rows / 16 → translate s core c.ctx b nsp .read (near + dw (16 * u)) ≠ .outside ∧
          translate s core c.ctx b o.sp .read (faraddr u) ≠ .outside) →
        (∀ n, bar = some n → ∃ y, barOf b n = some y ∧ y.byteMode = true) →
        (s.copies.filter (·.core == core)).length < 48 →
        dstLate s (copyReq s o ⟨toNear, rowb, rows, stride, bar, mark⟩) = false →
        (o.ord = 2 → atomsOut s s.cur.cid = false ∧ (s.release s.cur.cid scope).1 = true) →
        ∃ (t : State) (r : CopyReq), exec i s = .next t.slotDone ∧ t.copies = s.copies ++ [r] ∧ r.cid = s.cur.cid ∧ r.toNear = toNear ∧
          r.todo = List.range (rowb * rows / 16) ∧ (∀ u, r.nearAddr u = near + dw (16 * u)) ∧ (∀ u, r.farAddr u = faraddr u) ∧
          r.nearSp = nsp ∧ r.farSp = o.sp ∧ r.bar = bar ∧ r.mark = mark ∧ r.scope.toNat = scope ∧ r.started = false ∧
          t.mem = s.mem ∧ t.cohorts = s.cohorts)
    let bar1 := if w.getLsbD 20 then some (f 12 8) else none
    let mark1 := if w.getLsbD 21 then some (srd c (f 22 6), srd c (f 28 6)) else none
    issues (.cpIn o x) true (f 0 12 + 1) 1 0 bar1 mark1 ∧
    issues (.cpOut o x) false (f 0 12 + 1) 1 0 bar1 mark1 ∧
    issues (.cpTile o x) (!w.getLsbD 16) ((f 0 8 + 1) * 16) (f 8 8 + 1) (srd c (o.vd.toNat + 1))
      (if w.getLsbD 25 then some (f 17 8) else none) (if w.getLsbD 26 then some (srd c (f 27 6), srd c (f 33 6)) else none)) ∧
  (∀ (s : State) (r : CopyReq),
    let b := s.blk r.blk
    (∀ core, (s.copies.find? fun q => q.core == core && !q.started) = some r →
      ∃ (t : State) (q : CopyReq), exec (.copyRequestStart core) s = .next t ∧ q ∈ t.copies ∧ q.id = r.id ∧ q.started = true ∧
        q.todo = r.todo ∧ t.mem = s.mem) ∧
    (s.copies.head? = some r → r.started = true → r.paused = none → r.called = [] →
      (∀ u sk dk co co', r.markDue = false → u ∈ r.todo → copyLowest s r true = none → copyLowest s r false = none →
        r.trans s (!r.toNear) .read (r.srcAddr u) = .ok sk co → r.trans s r.toNear .write (r.dstAddr u) = .ok dk co' →
        isScratch dk = true → (s.gran dk).cls ≠ 1 → claimedBy s sk (some r.id) = false → atomLate s r.cid [(sk, 16)] = false →
        ∃ t : State, exec (.copyDelivery r.id (16 * u)) s = .next t ∧
          (∀ i, i < 16 → t.byte (dk + i) = match ownByte s r.core (sk + i) with | some v => v | none => s.byte (sk + i)) ∧
          (∀ k, k < dk ∨ dk + 16 ≤ k → t.byte k = s.byte k) ∧
          (∀ q ∈ t.copies, q.id = r.id → u ∉ q.todo) ∧
          ((r.todo.filter (· != u)) = [] → r.mark = none → ∀ q ∈ t.copies, q.id ≠ r.id) ∧
          (∀ n y, r.bar = some n → barOf b n = some y → y.byteMode = true →
            barOf (t.blk r.blk) n = some (barTest [] { y with got := (y.got + 16) % 2 ^ 32, sc := max y.sc r.scope.toNat }))) ∧
      (∀ u a, r.markDue = false → u ∈ r.todo → copyLowest s r true = some a →
        ∃ t : State, exec (.copyDelivery r.id (16 * u)) s = .next t ∧ (∀ q ∈ t.copies, q.id ≠ r.id) ∧ t.mem = s.mem ∧
          (∀ n y, r.bar = some n → barOf b n = some y → ∃ z, barOf (t.blk r.blk) n = some z ∧ z.abt = true ∧
            z.abta = if y.abt then y.abta else a) ∧
          (r.bar = none → r.dead = false → ∃ k ∈ (t.cohort r.cid).dtraps, k.cause = .copyAbort ∧ k.info = a)) ∧
      (∀ m v dk co, r.markDue = true → r.mark = some (m, v) → r.trans s true .write m = .ok dk co → isScratch dk = true →
        (s.gran dk).cls ≠ 1 → s.lapsed dk r.nearSp b m = false →
        ∃ t : State, exec (.copyDelivery r.id 0) s = .next t ∧ t.bytes dk 8 = leBytes 8 v.toNat ∧
          (∀ k, k < dk ∨ dk + 8 ≤ k → t.byte k = s.byte k) ∧ ∀ q ∈ t.copies, q.id ≠ r.id)))

/-- 14 R294-R296: byte-counting barriers and waits on an address. `bcb.exp` adds to EXP, and a phase whose bytes have come ends; `bcb.wt` completes once
PH has reached vB with the phase in sD, and traps E_COPYABORT on an aborted barrier; `wadr` completes with the value it read once its condition
holds, from another die's home 10 ns later, and waits as long as it does not. Where the spec leaves a point open this rests on the model's reading
or choice in log entry 50. -/
def Obligations.ByteBarriersAndWaits : Prop :=
  ∀ (s : State),
    let c := s.me
    let core := coreOf s.cur.cid
    let stop (i : Instr) (k : Cause) (info : DWord) : Prop := exec i s = .next ((s.raise k info).slotFailed none)
    (∀ o : G3, opFree (.bcbExp o) s = true →
      let e := (sreg c o.vb).toNat % 2 ^ 32
      (barOf (s.blk c.blk) o.va.toNat = none → stop (.bcbExp o) .illegal (dw o.va.toNat)) ∧
      (∀ y, barOf (s.blk c.blk) o.va.toNat = some y → y.byteMode = false ∨ 2 ^ 32 ≤ y.exp + e → stop (.bcbExp o) .illegal (dw o.va.toNat)) ∧
      (∀ y, barOf (s.blk c.blk) o.va.toNat = some y → y.byteMode = true → y.exp + e < 2 ^ 32 →
        exec (.bcbExp o) s = .next (s.setBar c.blk o.va.toNat (some
          (if 0 < y.exp + e ∧ y.exp + e ≤ y.got then { y with got := y.got - (y.exp + e), exp := 0, ph := (y.ph + 1) % 2 ^ 32 }
           else { y with exp := y.exp + e }))).slotDone)) ∧
    (∀ (o : G3) y, opFree (.bcbWt o) s = true → barOf (s.blk c.blk) o.va.toNat = some y →
      (y.byteMode = false → stop (.bcbWt o) .illegal (dw o.va.toNat)) ∧
      (y.byteMode = true → y.abt = true → stop (.bcbWt o) .copyAbort y.abta) ∧
      (y.byteMode = true → y.abt = false → reached (BitVec.ofNat 32 y.ph) ((sreg c o.vb).extractLsb' 0 32) = true →
        exec (.bcbWt o) s = .next ((s.setS o.vd.toNat (dw y.ph)).acquire s.cur.cid y.sc []).slotDone) ∧
      (y.byteMode = true → y.abt = false → reached (BitVec.ofNat 32 y.ph) ((sreg c o.vb).extractLsb' 0 32) = false →
        exec (.bcbWt o) s = .next (settle (.wait (.bytes o.va.toNat) s)))) ∧
    (∀ o : M, opFree (.wadr o) s = true →
      let n := szBytes o.sz
      let addr := srd c o.sb.toNat + BitVec.ofInt 64 (o.off.toInt * n)
      ∀ u key coh s', checkMine s o.sp .read true false [⟨0, addr, n⟩] = .ok [(u, key, coh)] s' →
        unitPoisoned s' key n = false → unitDown s' key = false → (isScratch key = false → ownDirty s' core key n = false) →
        claimedBy s' key none = false → atomLate s' s.cur.cid [(key, n)] = false →
        let v := leNat (s'.bytes key n)
        let d := (sreg c o.vd).toNat % 2 ^ (8 * n)
        let met : Prop := if o.ca then (v + 2 ^ (8 * n) - d) % 2 ^ (8 * n) < 2 ^ (8 * n - 1) else v ≠ d
        let toks := toksOf s'.tokens ((List.range n).map (key + ·))
        let read (v : Nat) (toks : List Token) : State :=
          let t := s'.setS o.vd.toNat (dw v)
          let t := t.setMe { t.me with lastVid := none, lastToks := toks }
          if isAcq o.ord then t.acquire t.cur.cid o.sc.toNat toks else t
        let asked : Prop := ∃ t v ts, Wait.op (.answer t v ts) ∈ s'.me.waits
        (¬ asked → met → homeDie key = dieOf s'.cur.cid → exec (.wadr o) s = .next (read v toks).slotDone) ∧
        (¬ asked → met → homeDie key ≠ dieOf s'.cur.cid → exec (.wadr o) s = .next (settle (.wait (.answer s'.ptime v toks) s'))) ∧
        (∀ t v ts, s'.me.waits = [.op (.answer t v ts)] → 160 ≤ (s'.ptime - t).toNat → exec (.wadr o) s = .next (read v ts).slotDone) ∧
        (¬ asked → ¬ met → exec (.wadr o) s = .next (settle (.wait (.word addr (isHost key || isPeer key)) s')))) ∧
    (∀ cid addr o t u, Wait.op (.word addr true) ∈ (s.cohort cid).waits → wake s cid 0 = some (.wadr o, t) → exec (.wadr o) t = .next u →
      exec (.wadrPoll cid) s = .next u)

/-- 14 R297-R299: `xdma` reads its descriptor once: sD takes 3 where it cannot be read, 2 where it breaks R298, else 0, with the transfer accepted, or
1, where the queues are full, with none; a transfer moves its bytes piece by piece, and completes, all of them moved, with CVAL stored to CADDR.
Where the spec leaves a point open this rests on the model's reading or choice in log entry 69. -/
def Obligations.TransfersComplete : Prop :=
  ∀ (s : State),
    let c := s.me
    let core := coreOf s.cur.cid
    (∀ (o : M) (x : Ext), opFree (.xdma o x) s = true →
      let addr := srd c o.sb.toNat + BitVec.ofInt 64 (64 * o.off.toInt)
      (addr.toNat % 64 ≠ 0 → exec (.xdma o x) s = .next ((s.raise .align addr).slotFailed none)) ∧
      (addr.toNat % 64 = 0 → (s.xdmas.filter (·.core == core)).length < 16 → atomsOut s s.cur.cid = false →
        (s.release s.cur.cid 5).1 = true →
        (∀ t, translateG s core c.ctx addr .read = t → t ≠ .park → (∀ k h, t ≠ .ok k h) →
          exec (.xdma o x) s = .next (s.setS o.vd.toNat 3).slotDone) ∧
        (∀ k h, translateG s core c.ctx addr .read = .ok k h →
          (srcPois s k 64 = true → exec (.xdma o x) s = .next (s.setS o.vd.toNat 3).slotDone) ∧
          (srcPois s k 64 = false → claimedBy s k none = false →
            let w (i : Nat) : DWord := dw (leNat ((List.range 8).map fun j => srcByte s core (k + 8 * i + j)))
            let good : Prop := bits (w 2) 40 24 = 0 ∧ w 2 ≠ 0 ∧ (w 3).toNat % 8 = 0 ∧ (w 4).getLsbD 63 = false ∧ w 5 = 0 ∧ w 6 = 0 ∧ w 7 = 0
            (¬ good → exec (.xdma o x) s = .next ((s.fillTlb core c.ctx addr).setS o.vd.toNat 2).slotDone) ∧
            (good → ∃ t : State, exec (.xdma o x) s = .next t.slotDone ∧ t.mem = s.mem ∧
              ((t.me = swr c o.vd.toNat 1 ∧ t.xdmas = s.xdmas) ∨
               (t.me = swr c o.vd.toNat 0 ∧ ∃ q, t.xdmas = s.xdmas ++ [q] ∧ q.src = w 0 ∧ q.dst = w 1 ∧ q.len = (w 2).toNat ∧ q.caddr = w 3 ∧
                 q.cval = w 4 ∧ q.spans = [(0, (w 2).toNat)]))))))) ∧
    (∀ (q : Xdma) off p sk dk h h', (s.xdmas.find? (·.id == q.id)) = some q → q.paused = none → q.abort = false → q.called = [] →
      q.spans.find? (fun p => p.1 ≤ off && off < p.1 + p.2) = some p →
      translateG s 0x10000 q.ctx (q.src + dw off) .read = .ok sk h → translateG s 0x10000 q.ctx (q.dst + dw off) .write = .ok dk h' →
      isHost dk = true → hostUp s = true → claimedBy s sk (some q.id) = false →
      let n := min (p.1 + p.2 - off) (min (128 - (q.src + dw off).toNat % 128) (128 - (q.dst + dw off).toNat % 128))
      ∃ t : State, exec (.xdmaDelivery q.id off) s = .next t ∧ (∀ i, i < n → t.byte (dk + i) = srcByte s q.core (sk + i)) ∧
        (∀ k, k < dk ∨ dk + n ≤ k → t.byte k = s.byte k) ∧
        { q with spans := cutSpans q.spans off n } ∈ t.xdmas) ∧
    (∀ q : Xdma, (s.xdmas.find? (·.id == q.id)) = some q → q.paused = none → q.abort = true ∨ q.spans = [] →
      160 ≤ (s.ptime - q.issued).toNat →
      (q.caddr = 0 → exec (.xdmaComplete q.id) s = .next { s with xdmas := s.xdmas.filter (·.id != q.id) }) ∧
      (∀ k h, q.caddr ≠ 0 → translateG s 0x10000 q.ctx q.caddr .write = .ok k h → isHost k = true → hostUp s = true →
        portReady s k (toksFor s (some 5) (12 + q.io) ((List.range 8).map (k + ·))) = true →
        ∃ t : State, exec (.xdmaComplete q.id) s = .next t ∧ t.xdmas = s.xdmas.filter (·.id != q.id) ∧
          t.bytes k 8 = leBytes 8 (if q.abort then q.cval + (1#64 <<< 63) else q.cval).toNat))

/-- 14 R300-R302, 05 R117, R118: `res.bind` takes the lowest handle free on every die, or all ones; `res.set` and `res.drop` change a handle of the
cohort's context; `res.set.life` gives every granule of a range its class; an until granule at its deadline is lapsed. -/
def Obligations.ResidencyComplete : Prop :=
  ∀ (s : State),
    let c := s.me
    let stop (i : Instr) (k : Cause) (info : DWord) : Prop := exec i s = .next ((s.raise k info).slotFailed none)
    (∀ o : G3, opFree (.resBind o) s = true →
      let a := sreg c o.va
      let n := sreg c o.vb
      let free (h : Nat) : Prop := ∀ d, d < 12 → (handleOf s d h).2.getLsbD 63 = false
      a.toNat % 4096 = 0 → n.toNat % 4096 = 0 → n ≠ 0 → a.toNat + n.toNat ≤ 2 ^ 48 →
      (∀ h, h < 256 → free h → (∀ g, g < h → ¬ free g) → ∃ t : State, exec (.resBind o) s = .next t.slotDone ∧
        t.me = swr c o.vd.toNat (dw h) ∧ t.mem = s.mem ∧ (∀ d g, d < 12 → g ≠ h → handleOf t d g = handleOf s d g) ∧
        ∀ d, d < 12 → handleOf t d h =
          ((dw c.ctx <<< 48) ||| a, (1#64 <<< 63) ||| (o.ty.zeroExtend 64 <<< 60) ||| dw (n.toNat / 4096))) ∧
      ((∀ h, h < 256 → ¬ free h) → exec (.resBind o) s = .next (s.setS o.vd.toNat allOnes).slotDone)) ∧
    (∀ o : G3, opFree (.resSetPrio o) s = true → opFree (.resDrop o) s = true →
      let v := sreg c o.va
      let h := handleOf s (dieOf s.cur.cid) v.toNat
      let mine : Prop := h.2.getLsbD 63 = true ∧ bits h.1 48 16 = c.ctx
      (255 < v.toNat → stop (.resSetPrio o) .illegal 0 ∧ stop (.resDrop o) .illegal 0) ∧
      (v.toNat ≤ 255 → ¬ mine → stop (.resSetPrio o) .protect v ∧ stop (.resDrop o) .protect v) ∧
      (v.toNat ≤ 255 → mine →
        (∃ t : State, exec (.resSetPrio o) s = .next t.slotDone ∧ t.cohorts = s.cohorts ∧
          ∀ d, d < 12 → handleOf t d v.toNat = ((handleOf s d v.toNat).1, setBits (handleOf s d v.toNat).2 60 3 o.ty.toNat)) ∧
        (∃ t : State, exec (.resDrop o) s = .next t.slotDone ∧ t.cohorts = s.cohorts ∧
          ∀ d, d < 12 → handleOf t d v.toNat = ((handleOf s d v.toNat).1, setBits (handleOf s d v.toNat).2 63 1 0)))) ∧
    (∀ (o : G3) (i : Instr) (sp : BitVec 2), (i = .resSetLifeS o ∧ sp = 1) ∨ (i = .resSetLifeM o ∧ sp = 3) → opFree i s = true →
      let a := sreg c o.va
      let n := sreg c o.vb
      let now := s.timeOf (dieOf s.cur.cid)
      let cls := o.ty.extractLsb' 0 2
      (a.toNat % 4096 ≠ 0 → stop i .align a) ∧
      (a.toNat % 4096 = 0 → n.toNat % 4096 ≠ 0 ∨ n = 0 → stop i .align n) ∧
      (∀ key : Nat → Nat, a.toNat % 4096 = 0 → n.toNat % 4096 = 0 → n ≠ 0 →
        (∀ j, j < n.toNat / 4096 → let g := a + dw (4096 * j)
          (sp = 3 → g.toNat / 2 ^ 30 = a.toNat / 2 ^ 30) ∧
          (∃ coh, translate s (coreOf s.cur.cid) c.ctx (s.blk c.blk) sp .write g = .ok (key j) coh) ∧
          s.lapsed (key j) sp (s.blk c.blk) g = false ∧ ∀ m, m < j → key m / 4096 ≠ key j / 4096) →
        readLate s s.cur.cid ((List.range (n.toNat / 4096)).map fun j => (key j, 4096)) = false →
        (cls = 2 → now.toNat < (sreg c o.vd).toNat) →
        ∃ t : State, exec i s = .next t.slotDone ∧ t.me = c ∧ ∀ j, j < n.toNat / 4096 →
          t.gran (key j) = ⟨cls, if cls = 1 then now else 0, if cls = 2 then sreg c o.vd else 0, false⟩)) ∧
    (∀ g, (s.gran (g * 4096)).cls = 2 → (s.gran (g * 4096)).lapsed = false →
      (s.gran (g * 4096)).deadline.toNat ≤ (s.timeOf (homeDie (g * 4096))).toNat →
      (isCarve (g * 4096) = true → exec (.untilLapse g) s =
        .next (s.setGran (g * 4096) { s.gran (g * 4096) with lapsed := true })) ∧
      (∀ b i, isCarve (g * 4096) = false → granOwner s g = some (b, i) → exec (.untilLapse g) s =
        .next (((s.setBlk b { s.blk b with lapsed := (s.blk b).lapsed ++ [i] }).setGran (g * 4096) Gran.hold).passSoon (s.blk b).die)))

/-- 18 R366-R368: what an atomic writes. The integer functions are those of the unit's width, wrapping, min and max signed or not as SG says; `amcas`
writes where the unit equals c, `amgts` where d lies 1 to 2^(w-1) - 1 ahead, `amvcs` where it agrees with c under the mask, and then only masked
bits; the floating ones round to nearest even, exchange, or take an operand whole. 18 R360, R363, R364, R369: an atomic on scratch, after its
checks: each active lane's unit at sB + zext(vA[l]) takes what its function writes, every other byte stays. `am`, `amcas`, `amgts`, `amvcs`, `ampcs`
and `amf` complete with the old units as one result and the flags in FSTAT, an enabled one owed as E_FPTRAP; `red` and `redf` complete with the
flags in FREDFLAGS. No result outstanding bears the number of the new one: a cohort counts its results. -/
def Obligations.Atomics : Prop :=
  (let fn (w size : Nat) : Prop := ∀ (a b c m : BitVec w) (sg : Bool),
    let int (f : BitVec 4) : Option Nat × Flags := atomStep (.int f sg) size a.toNat b.toNat c.toNat m.toNat
    int 0 = (some (a + b).toNat, 0) ∧
    int 1 = (some (if (if sg then b.toInt < a.toInt else b.toNat < a.toNat) then b else a).toNat, 0) ∧
    int 2 = (some (if (if sg then a.toInt < b.toInt else a.toNat < b.toNat) then b else a).toNat, 0) ∧
    int 3 = (some (a &&& b).toNat, 0) ∧ int 4 = (some (a ||| b).toNat, 0) ∧ int 5 = (some (a ^^^ b).toNat, 0) ∧ int 6 = (some b.toNat, 0) ∧
    int 7 = (some (if b.toNat ≤ a.toNat then 0 else a + 1).toNat, 0) ∧
    int 8 = (some (if a = 0 ∨ b.toNat < a.toNat then b else a - 1).toNat, 0) ∧
    atomStep .cas size a.toNat b.toNat c.toNat m.toNat = (if a = c then some b.toNat else none, 0) ∧
    atomStep .gts size a.toNat b.toNat c.toNat m.toNat = (if 0 < (b - a).toInt then some b.toNat else none, 0) ∧
    atomStep .vcs size a.toNat b.toNat c.toNat m.toNat =
      (if a &&& m = c &&& m then some ((a &&& ~~~m) ||| (b &&& m)).toNat else none, 0)
  fn 32 4 ∧ fn 64 8 ∧
  (∀ (a b c m : BitVec 128), atomStep .pcs 16 a.toNat b.toNat c.toNat m.toNat = (if a = c then some b.toNat else none, 0)) ∧
  (∀ (a b c m : BitVec 32) (ft : BitVec 2), ft = 0 →
    let x := decodeFloat .f32 a.toNat
    let y := decodeFloat .f32 b.toNat
    atomStep (.flt 3 ft) 4 a.toNat b.toNat c.toNat m.toNat = (some b.toNat, 0) ∧
    (let r := opRes .f32 rne [x, y] (addV false x y)
     atomStep (.flt 0 ft) 4 a.toNat b.toNat c.toNat m.toNat = (some r.1, r.2)) ∧
    (isNan x = false → isNan y = false →
      atomStep (.flt 1 ft) 4 a.toNat b.toNat c.toNat m.toNat = (some (if below x y then a else b).toNat, 0) ∧
      atomStep (.flt 2 ft) 4 a.toNat b.toNat c.toNat m.toNat = (some (if below x y then b else a).toNat, 0)))) ∧
  (∀ (s : State) (o : MG) (x : Ext),
    let c := s.me
    let core := coreOf s.cur.cid
    let w : BitVec 46 := match x with | some w => w | none => 0
    let f (lo n : Nat) : Nat := bits (w.zeroExtend 64) lo n
    let atomic (i : Instr) (size : Nat) (fn : AtomFn) (ret : Bool) : Prop :=
      opFree i s = true → ∀ l s', checkMine s o.sp .write true false (atomUnits s o size) (fun k => isHost k && !hostAtom fn) = .ok l s' →
        leaseHolds s' core s.cur.cid l = false → readLate s' s.cur.cid (unitKeys l) = false → atomLate s' s.cur.cid (unitKeys l) = false →
        (∀ sc, relScope s (isRel o.ord) o.sc.toNat = some sc → (s'.release s.cur.cid sc true).1 = true) → (∀ p ∈ c.pend, p.vid < c.nextVid) →
        (∀ a ∈ l, isScratch a.2.1 = true ∧ s.expired (s.timeOf (homeDie a.2.1)) a.2.1 = false ∧
          ∀ i, i < size → s.scratchPois (a.2.1 + i) = false) →
        l.Pairwise (fun a b => a.2.1 + size ≤ b.2.1 ∨ b.2.1 + size ≤ a.2.1) →
        let old (a : Acs × Nat × BitVec 2) : Nat := leNat (s.bytes a.2.1 size)
        let r (a : Acs × Nat × BitVec 2) : Option Nat × Flags := atomStep fn size (old a) (laneN c o.vd.toNat a.1.lane size)
          (laneN c (f 30 8) a.1.lane size) (laneN c (f 22 8) a.1.lane size)
        let flags : Flags := orFlags (l.map fun a => (r a).2)
        ∃ t : State, exec i s = .next t.slotDone ∧
          (∀ a ∈ l, t.bytes a.2.1 size = match (r a).1 with | some v => leBytes size v | none => s.bytes a.2.1 size) ∧
          (∀ k, (∀ a ∈ l, k < a.2.1 ∨ a.2.1 + size ≤ k) → t.byte k = s.byte k) ∧
          t.me.sr = c.sr ∧ t.me.vr = c.vr ∧ t.me.fstat = (if ret then c.fstat ||| flags.zeroExtend 64 else c.fstat) ∧
          (ret = false ∨ flags.extractLsb' 0 5 &&& c.fmode.extractLsb' 0 5 = 0 → t.me.dtraps = c.dtraps) ∧
          (ret = true → flags.extractLsb' 0 5 &&& c.fmode.extractLsb' 0 5 ≠ 0 → ∃ k, t.me.dtraps = c.dtraps ++ [k] ∧ k.cause = .fpTrap ∧
            k.info = flags.zeroExtend 64 ∧ k.frag = s.cur.frag) ∧
          (ret = true → ∃ p, t.me.pend = c.pend ++ [p] ∧ p.vid = c.nextVid ∧
            pendReady t.me p = some (l.flatMap fun a => (List.range (size / 4)).map fun n =>
              ⟨.v (f 38 8 + n) a.1.lane, dw (old a / 2 ^ (32 * n) % 2 ^ 32)⟩)) ∧
          (ret = false → t.me.pend = c.pend ∧ ∀ a ∈ l, ∀ b, (r a).2.getLsbD b = true →
            (tget 0 (t.ctx c.ctx).fred (homeDie a.2.1)).getLsbD b = true)
    let size := if o.sz = 3 then 8 else 4
    let int : AtomFn := .int (BitVec.ofNat 4 (f 18 4)) (w.getLsbD 17)
    let flt : AtomFn := .flt (BitVec.ofNat 4 (f 18 4)) (BitVec.ofNat 2 (f 15 2))
    atomic (.am o x) size int true ∧ atomic (.red o x) size int false ∧ atomic (.amcas o x) size .cas true ∧
    atomic (.amgts o x) size .gts true ∧ atomic (.amvcs o x) size .vcs true ∧ atomic (.ampcs o x) 16 .pcs true ∧
    atomic (.amf o x) size flt true ∧ atomic (.redf o x) size flt false)

/-- 16 R322, R339, 18 R363, R364, R369: a far atomic leaves as one request to its line's home, its result outstanding where it returns one; a near one
waits for an implicit lease of 32 core cycles, asked for once a line. At a line no core holds the home applies the request and answers with the old
unit; a poisoned line is answered as poisoned. The answer is the lane's result and its flags are raised, or E_POISON is owed. 18 R363, R370-R372:
`redo` sends one tagged request a lane and completes; the home applies the one whose tag is the cell's NEXT, counts NEXT up and acknowledges it,
holds one ahead, refuses it where 64 are held, discards one behind with FREDFLAGS.OSTALE, and answers one on a poisoned line as poisoned; a refused
one goes again after its delay; those that only a grid's ended cohorts left are discarded with OLOST. Where the spec leaves a point open this rests
on the model's reading or choice in log entry 41. -/
def Obligations.FarAtomicsAndOrderedReductions : Prop :=
  ((∀ (s : State) (o : MG) (x : Ext) (i : Instr) (size : Nat) (fn : AtomFn) (ret : Bool),
    let w : BitVec 46 := match x with | some w => w | none => 0
    (i = .am o x ∧ fn = .int (BitVec.ofNat 4 (bits (w.zeroExtend 64) 18 4)) (w.getLsbD 17) ∧ size = (if o.sz = 3 then 8 else 4) ∧ ret = true) ∨
      (i = .amf o x ∧ fn = .flt (BitVec.ofNat 4 (bits (w.zeroExtend 64) 18 4)) (BitVec.ofNat 2 (bits (w.zeroExtend 64) 15 2)) ∧
        size = (if o.sz = 3 then 8 else 4) ∧ ret = true) ∨
      (i = .red o x ∧ fn = .int (BitVec.ofNat 4 (bits (w.zeroExtend 64) 18 4)) (w.getLsbD 17) ∧ size = (if o.sz = 3 then 8 else 4) ∧ ret = false) ∨
      (i = .redf o x ∧ fn = .flt (BitVec.ofNat 4 (bits (w.zeroExtend 64) 18 4)) (BitVec.ofNat 2 (bits (w.zeroExtend 64) 15 2)) ∧
        size = (if o.sz = 3 then 8 else 4) ∧ ret = false) ∨
      (i = .amcas o x ∧ fn = .cas ∧ size = (if o.sz = 3 then 8 else 4) ∧ ret = true) ∨
      (i = .amgts o x ∧ fn = .gts ∧ size = (if o.sz = 3 then 8 else 4) ∧ ret = true) ∨
      (i = .amvcs o x ∧ fn = .vcs ∧ size = (if o.sz = 3 then 8 else 4) ∧ ret = true) ∨
      (i = .ampcs o x ∧ fn = .pcs ∧ size = 16 ∧ ret = true) →
    opFree i s = true →
    let core := coreOf s.cur.cid
    ∀ u key coh s', checkMine s o.sp .write true false (atomUnits s o size) (fun k => isHost k && !hostAtom fn) = .ok [(u, key, coh)] s' →
      leaseHolds s' core s.cur.cid [(u, key, coh)] = false → readLate s' s.cur.cid [(key, u.size)] = false →
      atomLate s' s.cur.cid [(key, u.size)] = false → portsFull s' core [(u, key, coh)] = false →
      (∀ sc, relScope s (isRel o.ord) o.sc.toNat = some sc → (s'.release s.cur.cid sc true).1 = true) →
      (coh = 2 → (s'.lc core (lineOf key)).valid = 0) →
      let asks (r : AtomReq) (t : State) : Prop := r.key = key ∧ r.size = size ∧ r.fn = fn ∧ r.cid = s.cur.cid ∧ r.lane = u.lane ∧
        r.addr = u.addr ∧ r.ret = ret ∧ r.dead = false ∧ r.d = BitVec.ofNat 128 (laneN s.me o.vd.toNat u.lane size) ∧ t.mem = s.mem ∧
        (ret = true → ∃ p, t.me.pend = s.me.pend ++ [p] ∧ r.vid = p.vid ∧ p.kind = .atom 1 []) ∧ (ret = false → t.me.pend = s.me.pend)
      (placeOf s' core s.cur.cid key coh o.ca = .far → ownDirty s' core key u.size = false →
        ∃ (t : State) (r : AtomReq), exec i s = .next t.slotDone ∧ t.net = s.net ++ [.atom r] ∧ asks r t) ∧
      (placeOf s' core s.cur.cid key coh o.ca = .near → (s'.lc core (lineOf key)).rel = false →
        ∃ (t : State) (x : Near), exec i s = .next t.slotDone ∧ (t.core core).nears = (s.core core).nears ++ [x] ∧ asks x.r t ∧ x.coh = coh ∧
          t.net = if (s.core core).nears.any (fun y => lineOf y.r.key == lineOf key) then s.net
            else s.net ++ [.lreq s.cur.cid (lineOf key) 32 ⟨(coh == 1), true⟩])) ∧
  (∀ (s : State) (r : AtomReq), s.dirEnt (lineOf r.key) = DirEnt.none → deferred s (sliceOf (lineOf r.key)) = [] → unitDown s r.key = false →
    s.expired (s.timeOf (homeDie r.key)) r.key = false →
    let old := leNat (s.bytes r.key r.size)
    let x := atomStep r.fn r.size old r.d.toNat r.c.toNat r.m.toNat
    ∃ (t : State) (a : AtomResp), exec (.atom r) s = .next t ∧ t.net = s.net ++ [.aresp a] ∧ a.cid = r.cid ∧ a.vid = r.vid ∧ a.lane = r.lane ∧
      (s.poisoned (lineOf r.key) = true → a.pois = true ∧ t.mem = s.mem) ∧
      (s.poisoned (lineOf r.key) = false → a.pois = false ∧ a.old = BitVec.ofNat 128 old ∧ a.flags = x.2 ∧
        t.bytes r.key r.size = (match x.1 with | some v => leBytes r.size v | none => s.bytes r.key r.size) ∧
        ∀ k, k < r.key ∨ r.key + r.size ≤ k → t.byte k = s.byte k)) ∧
  (∀ (s : State) (r : AtomResp) (p : Pend), r.dead = false → r.ret = true →
    (s.cohort r.cid).pend.find? (·.vid == r.vid) = some p → p.kind = .atom 1 [] →
    ∃ (t : State) (q : Pend), exec (.aresp r) s = .next t ∧ (t.cohort r.cid).pend.find? (·.vid == r.vid) = some q ∧
      let c := s.cohort r.cid
      let flags : Flags := p.flags ||| r.flags
      let trapped : Prop := flags.extractLsb' 0 5 &&& c.fmode.extractLsb' 0 5 ≠ 0
      (t.cohort r.cid).fstat = c.fstat ||| flags.zeroExtend 64 ∧
      (trapped → ∃ k ∈ (t.cohort r.cid).dtraps, k.cause = .fpTrap ∧ k.info = flags.zeroExtend 64 ∧ k.frag = p.frag) ∧
      (r.pois = false → pendReady (t.cohort r.cid) q = some (p.writes ++ (List.range (r.size / 4)).map fun n =>
          ⟨.v (r.rd + n) r.lane, dw (r.old.toNat / 2 ^ (32 * n) % 2 ^ 32)⟩) ∧
        (¬ trapped → (t.cohort r.cid).dtraps = c.dtraps)) ∧
      (r.pois = true → ∃ k ∈ (t.cohort r.cid).dtraps, k.cause = .poison ∧ k.info = r.addr ∧ k.frag = p.frag)) ∧
  (∀ (s : State) (r : AtomResp), r.dead = false → r.ret = false → r.pois = true →
    ∃ (t : State) (k : TrapInfo), exec (.aresp r) s = .next t ∧ (t.cohort r.cid).dtraps = (s.cohort r.cid).dtraps ++ [k] ∧
      k.cause = .poison ∧ k.info = r.addr ∧ k.frag = r.frag)) ∧
  ((∀ (s : State) (o : MG) (x : Ext), opFree (.redo o x) s = true →
    let core := coreOf s.cur.cid
    let w : BitVec 46 := match x with | some w => w | none => 0
    ∀ l s', checkMine s o.sp .write true false (atomUnits s o 16) (fun k => isHost k || isPeer k) = .ok l s' →
      (∀ a ∈ l, ownDirty s' core a.2.1 16 = false ∧ (a.2.2 = 2 → (s'.lc core (lineOf a.2.1)).valid = 0)) →
      leaseHolds s' core s.cur.cid l = false → portsFull s' core l = false →
      (∀ sc, relScope s (isRel o.ord) o.sc.toNat = some sc → (s'.release s.cur.cid sc true).1 = true) →
      readLate s' s.cur.cid (unitKeys l) = false → atomLate s' s.cur.cid (unitKeys l) = false →
      ∃ (t : State) (rs : List RedoReq), exec (.redo o x) s = .next t.slotDone ∧ t.net = s.net ++ rs.map .redoRequest ∧
        rs.map (fun r => (r.cid, r.key, r.addr, r.tag, r.d)) = l.map (fun a => (s.cur.cid, a.2.1, a.1.addr,
          vrd s.me (bits (w.zeroExtend 64) 30 8) a.1.lane, dw (laneN s.me o.vd.toNat a.1.lane (if o.sz = 3 then 8 else 4)))) ∧
        (∀ r ∈ rs, r.f64 = decide (bits (w.zeroExtend 64) 15 2 = 1)) ∧ t.mem = s.mem) ∧
  (∀ (s : State) (r : RedoReq), let line := lineOf r.key
    s.dirEnt line = DirEnt.none → (∀ d ∈ deferred s (sliceOf line), ∀ q, d = .redo q → lineOf q.key ≠ line) →
    s.expired (s.timeOf (homeDie r.key)) r.key = false →
    let next := BitVec.ofNat 32 (leNat (s.bytes (r.key + 8) 4))
    let ahead := (r.tag - next).toNat
    let n := if r.f64 then 8 else 4
    let sum := fltAtom 0 (if r.f64 then 1 else 0) (leNat (s.bytes r.key n)) (r.d.toNat % 2 ^ (8 * n))
    let tells (t : State) (pois : Bool) : Prop := ∃ a : AtomResp, t.net = s.net ++ [.aresp a] ∧ a.cid = r.cid ∧ a.frag = r.frag ∧
      a.addr = r.addr ∧ a.ret = false ∧ a.pois = pois
    let sends (i : Instr) : Prop :=
      (s.poisoned line = true → ∃ t : State, exec i s = .next t ∧ tells t true ∧ t.mem = s.mem) ∧
      (s.poisoned line = false → ahead = 0 → ∃ t : State, exec i s = .next t ∧ t.bytes r.key n = leBytes n sum.1 ∧
        t.bytes (r.key + 8) 4 = leBytes 4 (next + 1).toNat ∧ tells t false ∧ (∀ k, k < r.key ∨ r.key + 12 ≤ k → t.byte k = s.byte k) ∧
        ∀ b, sum.2.getLsbD b = true → (tget 0 (t.ctx r.ctx).fred (homeDie r.key)).getLsbD b = true) ∧
      (s.poisoned line = false → 0 < ahead → ahead < 2 ^ 31 → (deferred s (sliceOf line)).length < 64 → ∃ t : State, exec i s = .next t ∧
        deferred t (sliceOf line) = deferred s (sliceOf line) ++ [.redo r] ∧ t.mem = s.mem) ∧
      (s.poisoned line = false → 0 < ahead → ahead < 2 ^ 31 → 64 ≤ (deferred s (sliceOf line)).length → ∃ (t : State) (q : RedoReq), exec i s = .next t ∧
        t.net = s.net ++ [.redoRetry q] ∧ q.delay = (if r.delay = 0 then 256 else min 8192 (2 * r.delay)) ∧ q.tag = r.tag ∧ t.mem = s.mem) ∧
      (s.poisoned line = false → 2 ^ 31 ≤ ahead → ∃ t : State, exec i s = .next t ∧ tells t false ∧ (tget 0 (t.ctx r.ctx).fred (homeDie r.key)).getLsbD 6 = true ∧ t.mem = s.mem)
    sends (.redoRequest r) ∧ (r.sentAt + r.delay ≤ s.cycOf (dieOf r.cid) → sends (.redoRetry r)) ∧
    (s.cycOf (dieOf r.cid) < r.sentAt + r.delay → exec (.redoRetry r) s = .next (s.send (.redoRetry r)))) ∧
  (∀ (s : State) (g : Nat) t0, let x := s.grid g
    let mine := (tkeys s.blks).filter fun b => (s.blk b).used && (s.blk b).kind == .grid && (s.blk b).gid == g
    x.active = true → x.gang = false → (∀ sl ∈ x.slices, nextUp s g sl = none) → (∀ v ∈ s.saved, v.blk.gid ≠ g) → mine ≠ [] →
    (∀ b ∈ mine, cohortsEnded s b = true ∧ blockDrained s b = true ∧ redosHeld s b = true) →
    (x.ended = none → exec (.redoDiscard g) s = .next (s.setGrid g { x with ended := some s.ptime })) ∧
    (x.ended = some t0 → 16000000 ≤ (s.ptime - t0).toNat →
      ∃ t : State, exec (.redoDiscard g) s = .next t ∧ t.mem = s.mem ∧ (∀ p ∈ t.defer, ∀ r, .redo r ∈ p.2 → r.grid ≠ g) ∧
        ∀ p ∈ s.defer, ∀ r, .redo r ∈ p.2 → r.grid = g → (tget 0 (t.ctx r.ctx).fred (homeDie r.key)).getLsbD 7 = true)))

/-- 16 R329-R333, 18 R374-R377: leases. `lsa` asks for the line and waits, and with the grant gives sD its length; `lsr` ends the lease, frees its slot
and tells how it ended; a lease ends after L core cycles, or early where it must; its end sends the line's dirty bytes home, and the home clears
LSE. -/
def Obligations.LeasesComplete : Prop :=
  ∀ (s : State),
    let c := s.me
    let cid := s.cur.cid
    let core := coreOf cid
    (∀ o : M, opFree (.lsa o) s = true →
      let va := ((srd c o.sb.toNat + BitVec.ofInt 64 (128 * o.off.toInt)) >>> 7) <<< 7
      let b := s.blk c.blk
      ∀ key coh, translate s core c.ctx b o.sp .write va = .ok key coh →
        let line := lineOf key
        (coh = 2 ∨ isHost key = true ∨ isPeer key = true → exec (.lsa o) s = .next ((s.raise .lease va).slotFailed none)) ∧
        (coh ≠ 2 → isHost key = false → isPeer key = false → s.lapsed key o.sp b va = false →
          s.expired (s.timeOf (dieOfCore core)) key = false →
          (∀ g, grantedLease c (s.core core) cid line = some g → ∃ t : State, exec (.lsa o) s = .next t.slotDone ∧
            t.me = swr { c with leases := c.leases ++ [⟨va, line, none, some (s.cur.frag, 0)⟩] } o.vd.toNat (dw g.len) ∧ t.mem = s.mem) ∧
          (grantedLease c (s.core core) cid line = none →
            let full : Prop := (∃ y ∈ c.leases, y.vline = va) ∨ 4 ≤ c.leases.length
            (full → exec (.lsa o) s = .next ((s.raise .lease va).slotFailed none)) ∧
            (¬ full → s.poisoned line = true → exec (.lsa o) s = .next ((s.raise .poison va).slotFailed none)) ∧
            (¬ full → s.poisoned line = false → leaseAsked s core line = false → (s.lc core line).rel = false →
              ∃ t : State, exec (.lsa o) s = .next (settle (.wait .lease t)) ∧ t.mem = s.mem ∧
                t.net = s.net ++ [.lreq cid line (leaseLen (s.core core) line) ⟨(coh == 1), false⟩])))) ∧
    (∀ o : M, opFree (.lsr o) s = true →
      let va := ((srd c o.sb.toNat + BitVec.ofInt 64 (128 * o.off.toInt)) >>> 7) <<< 7
      (c.leases.find? (·.vline == va) = none → exec (.lsr o) s = .next (s.setS o.vd.toNat 3).slotDone) ∧
      (∀ y, c.leases.find? (·.vline == va) = some y →
        (∀ how, y.ended = some how → ∃ t : State, exec (.lsr o) s = .next t.slotDone ∧
          t.me = swr { c with leases := c.leases.filter (·.vline != va) } o.vd.toNat (dw how)) ∧
        (∀ g, y.ended = none → (s.core core).leases.find? (fun l => l.line == y.line && l.cid == some cid) = some g → g.probes = [] →
          let how : Nat := if g.endAt.any (· ≤ s.cycOf (dieOfCore core)) then 2
            else if g.start + g.len ≤ s.cycOf (dieOfCore core) then 1 else 0
          ∃ (t : State) (car : Carry), exec (.lsr o) s = .next t.slotDone ∧ srd t.me o.vd.toNat = srd (swr c o.vd.toNat (dw how)) o.vd.toNat ∧
            (∀ z ∈ t.me.leases, z.vline ≠ va) ∧ (∀ l ∈ (t.core core).leases, ¬ (l.line = y.line ∧ l.cid = some cid)) ∧
            (how = 0 → tget 0 (t.core core).lens (g.line % 512) = min 4 (tget 0 (s.core core).lens (g.line % 512) + 1)) ∧
            .lend core y.line (s.lc core y.line).dirty (s.lc core y.line).bytes ⟨false, car⟩ ∈ t.net ∧ t.mem = s.mem))) ∧
    (∀ k line l, (s.core k).leases.find? (·.line == line) = some l → l.probes = [] →
      (l.start + l.len ≤ s.cycOf (dieOfCore k) → ∃ (t : State) (car : Carry), exec (.leaseExpiry k line) s = .next t ∧
        (∀ x ∈ (t.core k).leases, ¬ (x.line = line ∧ x.cid = l.cid)) ∧
        .lend k line (s.lc k line).dirty (s.lc k line).bytes ⟨false, car⟩ ∈ t.net ∧ (t.lc k line).dirty = 0) ∧
      (s.cycOf (dieOfCore k) < l.start + l.len → exec (.leaseExpiry k line) s = .next s)) ∧
    (∀ k l, (s.core k).leases.find? (fun l => l.endAt.any (· ≤ s.cycOf (dieOfCore k))) = some l → l.probes = [] →
      ∃ (t : State) (car : Carry), exec (.leaseForcedEnd k) s = .next t ∧ (∀ x ∈ (t.core k).leases, ¬ (x.line = l.line ∧ x.cid = l.cid)) ∧
        .lend k l.line (s.lc k l.line).dirty (s.lc k l.line).bytes ⟨false, car⟩ ∈ t.net) ∧
    (∀ d line len si imp, s.dirEnt line = DirEnt.none → deferred s (sliceOf line) = [] → s.poisoned line = false →
      ∃ t : State, exec (.lreq d line len ⟨si, imp⟩) s = .next t ∧
        t.net = s.net ++ [.lgrant d line len (s.lineData line) ⟨si, imp, lineToks s line⟩] ∧
        (∃ n, (t.dirEnt line).lse = some (coreOf d, if imp then none else some d, n) ∧
          (dieOfCore (coreOf d) = homeDie (line * 128) → n = s.cycOf (homeDie (line * 128)) + len + 64)) ∧ t.mem = s.mem) ∧
    (∀ d line len bytes si toks,
      let k := coreOf d
      let s1 := s.makeRoom k line
      let e := s1.lc k line
      let l : Lease := ⟨line, some d, len, s.cycOf (dieOf d), [], none, false⟩
      let kept : LineMask := if si then e.dirty else e.valid
      (∃ u : State, (u.lc k line).valid = BitVec.allOnes 128 ∧ (u.lc k line).fill = s.cycOf (dieOf d) ∧ (u.lc k line).selfInv = si ∧
        ((∀ b ∈ (s1.core k).wbufs, b.line ≠ line) →
          ∀ i, i < 128 → lineByte (u.lc k line).bytes i = lineByte (if kept.getLsbD i then e.bytes else bytes) i) ∧
        (u.core k).leases = (s.core k).leases ++ [l] ∧ u.mem = s.mem ∧ u.cohorts = s.cohorts ∧
        (∀ o v t key coh, wake u d 0 = some (.lsa o, v) →
          translate v k v.me.ctx (v.blk v.me.blk) o.sp .write (leaseLine v.me o) = .ok key coh → lineOf key = line →
          exec (.lsa o) v = .next t → exec (.lgrant d line len bytes ⟨si, false, toks⟩) s = .next t) ∧
        ((∀ o v, wake u d 0 ≠ some (.lsa o, v)) → exec (.lgrant d line len bytes ⟨si, false, toks⟩) s = .next (u.endLease k l 2))) ∧
      ∃ (t : State) (x : Lease), exec (.lgrant d line len bytes ⟨si, true, toks⟩) s = .next t ∧ x ∈ (t.core k).leases ∧ x.line = line ∧
        x.cid = none ∧ x.imp = true ∧ x.endAt = some (s.cycOf (dieOf d)) ∧ ∀ n ∈ (t.core k).nears, lineOf n.r.key ≠ line) ∧
    (∀ k line mask bytes d n, (s.dirEnt line) = { DirEnt.none with lse := some (k, d, n) } → deferred s (sliceOf line) = [] →
      ∀ car, ∃ t : State, exec (.lend k line mask bytes ⟨false, car⟩) s = .next t ∧ (t.dirEnt line).lse = none ∧
        ∀ i, i < 128 → t.byte (line * 128 + i) = if mask.getLsbD i then lineByte bytes i else s.byte (line * 128 + i)) ∧
    (∀ line k d n hold wrt, (s.dirEnt line) = { DirEnt.none with lse := some (k, d, n), hold := hold, wrt := wrt } →
      deferred s (sliceOf line) = [] → n ≤ s.cycOf (homeDie (line * 128)) → (∀ l ∈ (s.core k).leases, l.line ≠ line) → s.net = [] →
      ∃ t : State, exec (.homeLeaseTimeout line) s = .next t ∧ (t.dirEnt line).lse = none ∧ (k ∈ wrt → t.poisoned line = true))

/-- 16 R322, R323, R325, R336, R337, R340: what a home does on each message for a line on which nothing waits: RD is answered with the merged bytes, WB
is merged and answered once every other holder has acknowledged, the acknowledgements merge the bytes they carry and complete what waited for them,
a claim holds back RD, and its engine is recalled once; a refused probe goes again 64 cycles of the home's die later. Where the spec leaves a point
open this rests on the model's reading or choice in log entries 40, 48. -/
def Obligations.HomeActsOnMessages : Prop :=
  ∀ (s : State) (core line : Nat), (s.dirEnt line).held = [] → deferred s (sliceOf line) = [] →
    let e := s.dirEnt line
    let merged (t : State) (mask : LineMask) (d : LineData) : Prop :=
      ∀ i, i < 128 → t.byte (line * 128 + i) = if mask.getLsbD i then lineByte d i else s.byte (line * 128 + i)
    let noClaim : Prop := ∀ t ∈ e.txns, ∀ eng, t.done ≠ .claim eng
    (∀ alloc, (e.clm = [] → noClaim → ∃ t : State, exec (.rd core line alloc) s = .next t ∧ t.mem = s.mem ∧
        t.net = s.net ++ [.data core line (s.lineData line) ⟨s.poisoned line, lineToks s line⟩] ∧ (alloc = true → core ∈ (t.dirEnt line).hold)) ∧
      (∀ eng rest, e.clm = eng :: rest → ∃ t : State, exec (.rd core line alloc) s = .next t ∧ (t.dirEnt line).held = [.rd core line alloc] ∧
        t.net = s.net ++ if e.recalled then [] else [.recall eng line])) ∧
    (∃ t : State, exec (.wi core line) s = .next t ∧ core ∈ (t.dirEnt line).wrt ∧ core ∈ (t.dirEnt line).hold ∧ t.net = s.net ∧ t.mem = s.mem) ∧
    (∀ mask d n car, unitDown s (line * 128) = false → e.txns = [] → e.clm = [] → e.lse = none →
      ((∀ c ∈ e.hold, c = core) → ∃ t : State, exec (.wb core line mask d false ⟨n, car⟩) s = .next t ∧ merged t mask d ∧
        t.net = s.net ++ [.wback core line n] ∧ core ∉ (t.dirEnt line).wrt) ∧
      ((∃ c ∈ e.hold, c ≠ core) → let cs := (e.hold.filter (· != core)).eraseDups
        ∃ t : State, exec (.wb core line mask d false ⟨n, car⟩) s = .next t ∧ merged t mask d ∧
          t.net = s.net ++ cs.map (fun c => .inv c line s.next) ∧ (t.dirEnt line).txns = [⟨s.next, cs, [], .wback core n⟩])) ∧
    (∀ txn c n, e.txns = [⟨txn, [core], [], .wback c n⟩] → e.lse = none →
      (∃ t : State, exec (.iackClean core line txn) s = .next t ∧ t.net = s.net ++ [.wback c line n] ∧
        (t.dirEnt line).hold = e.hold.erase core ∧ (t.dirEnt line).txns = [] ∧ t.mem = s.mem) ∧
      (∀ mask d car, e.clm = [] → ∃ t : State, exec (.iackData core line txn mask d ⟨false, car⟩) s = .next t ∧ merged t mask d ∧
        (t.dirEnt line).hold = e.hold.erase core ∧ core ∉ (t.dirEnt line).wrt ∧ .wback c line n ∈ t.net ∧
        ((∀ c ∈ e.hold, c = core) → t.net = s.net ++ [.wback c line n]) ∧ ∀ c ∈ e.hold, c ≠ core → .inv c line s.next ∈ t.net) ∧
      (∀ k mask d b car, .wb core line mask d b ⟨k, car⟩ ∈ s.net → ∃ t : State, exec (.iackWbif core line txn k) s = .next t ∧
        (t.dirEnt line).txns = [⟨txn, [], [(core, k)], .wback c n⟩] ∧ (t.dirEnt line).hold = e.hold.erase core ∧ t.net = s.net)) ∧
    (∀ txn mask d car, e.txns = [] → e.lse = none → e.clm = [] → ∃ t : State, exec (.fack core line txn mask d ⟨false, car⟩) s = .next t ∧
      merged t mask d ∧ core ∉ (t.dirEnt line).wrt ∧ (t.dirEnt line).hold = e.hold ∧
      (mask ≠ 0 → ∀ c ∈ e.hold, c ≠ core → .inv c line s.next ∈ t.net)) ∧
    (∀ txn w due, let now := s.cycOf (homeDie (line * 128))
      exec (.retry core line txn ⟨w, 0⟩) s = .next (s.send (.retry core line txn ⟨w, now + 64⟩)) ∧
      (due ≠ 0 → now < due → exec (.retry core line txn ⟨w, due⟩) s = .next (s.send (.retry core line txn ⟨w, due⟩))) ∧
      (due ≠ 0 → due ≤ now → exec (.retry core line txn ⟨w, due⟩) s =
        .next (s.send (match w with | some b => .fwd core line ⟨txn, b⟩ | none => .inv core line txn)))) ∧
    (∀ eng, (e.lse = none → e.hold = [] → noClaim → ∃ t : State, exec (.claim eng line) s = .next t ∧ (t.dirEnt line).clm = e.clm ++ [eng] ∧ t.mem = s.mem) ∧
      (∀ x, e.lse = some x → ∃ t : State, exec (.claim eng line) s = .next t ∧ (t.dirEnt line).held = [.claim eng line] ∧
        (t.dirEnt line).clm = e.clm)) ∧
    (∀ eng, ∃ t : State, exec (.crel eng line) s = .next t ∧ (t.dirEnt line).clm = e.clm.filter (· != eng) ∧ t.mem = s.mem) ∧
    ((e.lse = none → ∃ t : State, exec (.directoryVictim line) s = .next t ∧
        t.net = s.net ++ e.hold.eraseDups.map (fun c => .inv c line s.next) ∧ t.mem = s.mem) ∧
      (e.lse ≠ none → exec (.directoryVictim line) s = .next s)) ∧
    (∀ r : CopyReq, (s.copies.find? (·.id == r.id)) = some r → line ∈ r.claims → ∃ t : State, exec (.recall r.id line) s = .next t ∧
      { r with called := r.called ++ [line] } ∈ t.copies ∧ (∀ q ∈ t.copies, q.id = r.id → q.called = r.called ++ [line]) ∧ t.net = s.net ∧ t.mem = s.mem) ∧
    (∀ x : Xdma, (s.copies.find? (·.id == x.id)) = none → (s.xdmas.find? (·.id == x.id)) = some x → line ∈ x.claims →
      ∃ t : State, exec (.recall x.id line) s = .next t ∧ (∀ q ∈ t.xdmas, q.id = x.id → q.called = x.called ++ [line]) ∧ t.net = s.net ∧ t.mem = s.mem)

/-- 16 R318, R319, R325, R326, R329, R340: what a core does on each message: DATA fills the entry under its dirty bytes and completes the loads that
waited for it; a probe is answered with the dirty bytes, or by naming the write-back in flight, or waits while the line is leased; a dirty entry is
written back; a clean self-invalidating one expires. 15 R306, R307, R310: a die's beacon carries what has been applied of each die's channel to it,
to every other die; the receiver holds its counts, and drops a beacon of an epoch that is over. -/
def Obligations.CoreActsOnMessages : Prop :=
  (∀ (s : State) (core line : Nat),
    let k := s.core core
    let e := s.lc core line
    (∀ d toks x, k.miss.find? (·.line == line) = some x →
      ∃ t : State, exec (.data core line d ⟨false, toks⟩) s = .next t ∧ (∀ m ∈ (t.core core).miss, m.n ≠ x.n) ∧
        (x.alloc = true → (t.lc core line).valid = BitVec.allOnes 128 ∧ (t.lc core line).dirty = e.dirty ∧
          (t.lc core line).fill = s.cycOf (dieOfCore core) ∧ (t.lc core line).selfInv = x.selfInv ∧
          ∀ i, i < 128 → lineByte (t.lc core line).bytes i =
            if e.dirty.getLsbD i then lineByte e.bytes i else if x.mask.getLsbD i then lineByte x.bytes i else lineByte d i) ∧
        (∀ cid p lanes buf, coreOf cid = core → p ∈ (s.cohort cid).pend → p.kind = .load lanes buf [(line, x.n)] →
          ∃ q ∈ (t.cohort cid).pend, q.vid = p.vid ∧ pendReady (t.cohort cid) q ≠ none) ∧ t.mem = s.mem) ∧
    (∀ d toks x, k.miss.find? (·.line == line) = some x →
      ∃ t : State, exec (.data core line d ⟨true, toks⟩) s = .next t ∧ t.lines = s.lines ∧
        (∀ cid p lanes buf, coreOf cid = core → p ∈ (s.cohort cid).pend → p.kind = .load lanes buf [(line, x.n)] →
          p ∉ (t.cohort cid).pend ∧ ∃ x ∈ (t.cohort cid).dtraps, x.cause = .poison ∧ x.frag = p.frag)) ∧
    (∀ n, ∃ t : State, exec (.wback core line n) s = .next t ∧ (t.core core).wbufs = k.wbufs.filter (fun b => !(b.line == line && b.n == n)) ∧
      t.lc core line = (if e.wbn = some n then { e with wbn := none } else e)) ∧
    (∀ txn, leased s core line = none → mayLeave s core line = false → (∃ t : State, exec (.inv core line txn) s = .next t ∧ .inv core line txn ∈ t.net) ∧
      ∀ w, ∃ t : State, exec (.fwd core line ⟨txn, w⟩) s = .next t ∧ .fwd core line ⟨txn, w⟩ ∈ t.net) ∧
    (∀ txn, leased s core line = none → mayLeave s core line = true →
      let buf := k.wbufs.find? (·.line == line)
      (buf = none → e.dirty = 0 → ∃ t : State, exec (.inv core line txn) s = .next t ∧ t.lc core line = LcEnt.none ∧
        t.net = s.net ++ [.iackClean core line txn]) ∧
      (buf = none → e.dirty ≠ 0 → ∃ (t : State) (car : Carry), exec (.inv core line txn) s = .next t ∧ t.lc core line = LcEnt.none ∧
        t.net = s.net ++ [.iackData core line txn e.dirty e.bytes ⟨false, car⟩]) ∧
      (∀ b, buf = some b → e.dirty = 0 → ∃ t : State, exec (.inv core line txn) s = .next t ∧ t.lc core line = LcEnt.none ∧
        t.net = s.net ++ [.iackWbif core line txn b.n]) ∧
      (∀ b, buf = some b → e.dirty ≠ 0 → ∃ t : State, exec (.inv core line txn) s = .next t ∧ (t.lc core line).valid = e.dirty ∧
        (t.lc core line).dirty = e.dirty ∧ (t.lc core line).bytes = e.bytes ∧ t.net = s.net ++ [.iackWbif core line txn b.n, .wi core line]) ∧
      (∀ w, ∃ (t : State) (m : LineMask) (d : LineData) (car : Carry), exec (.fwd core line ⟨txn, w⟩) s = .next t ∧
        t.net = s.net ++ [.fack core line txn m d ⟨false, car⟩] ∧ t.lc core line = { e with dirty := 0, writers := [], deps := [], rel := false } ∧
        ∀ i, i < 128 → (e.dirty.getLsbD i = true → m.getLsbD i = true ∧ lineByte d i = lineByte e.bytes i) ∧
          (buf = none → m.getLsbD i = e.dirty.getLsbD i))) ∧
    (∀ txn l, leased s core line = some l → (k.leases.map (·.probes.length)).sum < 16 →
      ∃ t : State, exec (.inv core line txn) s = .next t ∧ { l with probes := l.probes ++ [.inv core line txn] } ∈ (t.core core).leases ∧ t.net = s.net) ∧
    (∀ txn w l, leased s core line = some l → (k.leases.map (·.probes.length)).sum < 16 →
      ∃ t : State, exec (.fwd core line ⟨txn, w⟩) s = .next t ∧
        { l with probes := l.probes ++ [.fwd core line ⟨txn, w⟩] } ∈ (t.core core).leases ∧ t.net = s.net) ∧
    (∀ txn w l, leased s core line = some l → 16 ≤ (k.leases.map (·.probes.length)).sum →
      (∃ t : State, exec (.inv core line txn) s = .next t ∧ t.net = s.net ++ [.retry core line txn ⟨none, 0⟩] ∧
        ∃ y ∈ (t.core core).leases, y.endAt ≠ none) ∧
      (∃ t : State, exec (.fwd core line ⟨txn, w⟩) s = .next t ∧ t.net = s.net ++ [.retry core line txn ⟨some w, 0⟩] ∧
        ∃ y ∈ (t.core core).leases, y.endAt ≠ none)) ∧
    (leased s core line = none → mayLeave s core line = true → e.dirty ≠ 0 → e.wbn = none →
      chanFull s (dieOfCore core) (homeAgent s line (dieOfCore core)) = false →
      ∃ (t : State) (car : Carry), exec (.writebackDeadline core line) s = .next t ∧
        t.net = s.net ++ [.wb core line e.dirty e.bytes false ⟨k.wbn, car⟩] ∧
        t.lc core line = { e with dirty := 0, wbn := some k.wbn, writers := [], deps := [], rel := false } ∧
        (t.core core).wbufs = k.wbufs ++ [⟨line, k.wbn, e.dirty, e.bytes, e.writers, e.deps, false⟩] ∧ t.mem = s.mem) ∧
    (e.selfInv = true → e.dirty = 0 → e.valid ≠ 0 → (∀ l ∈ k.leases, l.line ≠ line) → e.fill + 2048 ≤ s.cycOf (dieOfCore core) →
      exec (.lineExpiry core line) s = .next (s.setLc core line LcEnt.none))) ∧
  (∀ (s : State),
    (∀ die, ∃ t : State, exec (.beaconTimer die) s = .next t ∧
      t.net = s.net ++ ((List.range 14).filter (· != die)).map (beaconOf s die) ∧ t.mem = s.mem) ∧
    (∀ src dst, exec (.beaconRequest src dst) s = .next (s.send (beaconOf s dst src))) ∧
    (∀ b c, beaconOf s b c = .completionBeacon b c (s.die b).epoch
      (((List.range 14).filter (· != b)).map fun a => (a, (s.die a).epoch + (s.die b).epoch, appliedOf s a b))) ∧
    (∀ a b, (chanOut s a b = [] → appliedOf s a b = tget 0 s.chanSeq (a * 16 + b)) ∧
      (∀ n l, chanOut s a b = n :: l → appliedOf s a b = (n + 2 ^ 32 - 1) % 2 ^ 32)) ∧
    (∀ src dst epoch l, epoch ≠ (s.die src).epoch → exec (.completionBeacon src dst epoch l) s = .next s) ∧
    (∀ src dst l, (l.map (·.1)).Nodup → ∃ t : State, exec (.completionBeacon src dst (s.die src).epoch l) s = .next t ∧
      (∀ p ∈ l, tget 0 t.beacons (dst * 256 + (p.1 * 16 + src)) =
        if p.2.1 = (s.die p.1).epoch + (s.die src).epoch then p.2.2 else tget 0 s.beacons (dst * 256 + (p.1 * 16 + src))) ∧ t.mem = s.mem ∧ t.cohorts = s.cohorts))

/-- 19 R379, R382: a phase. An arrival barrier with a count ends as many phases as EXP goes into GOT; one of every live thread ends once all of them
have arrived; a byte barrier once EXP, not zero, is reached; and no other value of the entry changes. 19 R378, R381, R382: the named barriers of a
block. `bar.ini` binds, renews or frees an entry nothing waits on; `bar.arv` counts its fragment's threads and gives sD the phase it joins; `bar.wt`
completes once the phase has come; `bar.sync` does both; a fragment that has arrived in the phase already is held; a number with no arrival barrier
traps E_ILLEGAL. 19 R384: `bar.cl` and `bar.die` are one `bar.sync` of every live thread of the cluster, or of the grid's blocks on the die: the
last arrival ends the phase and completes with sD the phase joined; before it, the op holds its fragment; outside a grid, or `bar.die` without
die-gang, E_ILLEGAL. -/
def Obligations.Barriers : Prop :=
  (∀ (b : Bar) (live ts : List Nat),
    (b.byteMode = false → b.all = false → 0 < b.exp →
      (barTest live b).got < b.exp ∧ ∃ n, b.got = n * b.exp + (barTest live b).got ∧ (barTest live b).ph = (b.ph + n) % 2 ^ 32 ∧
        (barTest live b).exp = b.exp) ∧
    (b.byteMode = false → b.all = true →
      (b.arr ≠ [] → (∀ t ∈ live, t ∈ b.arr) → barTest live b = { b with arr := [], ph := (b.ph + 1) % 2 ^ 32 }) ∧
      ((∃ t ∈ live, t ∉ b.arr) → barTest live b = b)) ∧
    (b.byteMode = true →
      (0 < b.exp → b.exp ≤ b.got → barTest live b = { b with got := b.got - b.exp, exp := 0, ph := (b.ph + 1) % 2 ^ 32 }) ∧
      (b.exp = 0 ∨ b.got < b.exp → barTest live b = b)) ∧
    (b.all = false → ∃ x, arrive b ts = some x ∧ x.got = min (2 ^ 32 - 1) (b.got + ts.length)) ∧
    (b.all = true → (∀ t ∈ ts, t ∉ b.arr) → arrive b ts = some { b with arr := b.arr ++ ts }) ∧
    (b.all = true → (∃ t ∈ ts, t ∈ b.arr) → arrive b ts = none)) ∧
  (∀ (s : State) (o : G3),
    let c := s.me
    let b := s.blk c.blk
    let n := o.va.toNat
    let stop (i : Instr) : Prop := exec i s = .next ((s.raise .illegal (dw n)).slotFailed none)
    let sets (i : Instr) (x : Bar) : Prop := opFree i s = true →
      ((barOf b n).isSome = false → poolUsed s (b.cores.headD 0) < 256 → exec i s = .next (s.setBar c.blk n (some x)).slotDone) ∧
      ((barOf b n).isSome = true → barBusy s c.blk n = false → exec i s = .next (s.setBar c.blk n (some x)).slotDone) ∧
      ((barOf b n).isSome = true → barBusy s c.blk n = true → stop i)
    let e := (sreg c o.vb).toNat % 2 ^ 32
    let ts := (lanesOf s.frag.mask c.w).map (c.cidx * c.w + ·)
    let made : Prop := (s.release s.cur.cid (match c.relDue with | some d => max d 1 | none => 1)).1 = true
    sets (.barIniArv o) ⟨0, false, decide (e = 0), e, 0, [], 0, false, 0⟩ ∧
    sets (.barIniByte o) ⟨0, true, false, 0, 0, [], 0, false, 0⟩ ∧
    (opFree (.barIniFree o) s = true →
      ((barOf b n).isSome = false ∨ barBusy s c.blk n = false → exec (.barIniFree o) s = .next (s.setBar c.blk n none).slotDone) ∧
      ((barOf b n).isSome = true → barBusy s c.blk n = true → stop (.barIniFree o))) ∧
    (opFree (.barArv o) s = true → opFree (.barWt o) s = true → opFree (.barSync o) s = true →
      (barOf b n = none ∨ (∃ x, barOf b n = some x ∧ x.byteMode = true)) → stop (.barArv o) ∧ stop (.barWt o) ∧ stop (.barSync o)) ∧
    (∀ x y, barOf b n = some x → x.byteMode = false → arrive x ts = some y →
      let z := barTest (liveThreads b) y
      let ph := (x.ph + 1) % 2 ^ 32
      let t := s.relMade
      (opFree (.barArv o) s = true → made →
        exec (.barArv o) s = .next ((t.setBar c.blk n (some z)).setS o.vd.toNat (dw ph)).slotDone) ∧
      (opFree (.barSync o) s = true → joined s = none → made →
        (reached (BitVec.ofNat 32 z.ph) (BitVec.ofNat 32 ph) = true →
          exec (.barSync o) s = .next (((t.setBar c.blk n (some z)).setS o.vd.toNat (dw ph)).acquire s.cur.cid 1 []).slotDone) ∧
        (reached (BitVec.ofNat 32 z.ph) (BitVec.ofNat 32 ph) = false →
          exec (.barSync o) s = .next (settle (.hold ⟨some n, some ph, false⟩ (t.setBar c.blk n (some z))))))) ∧
    (∀ x, barOf b n = some x → x.byteMode = false → arrive x ts = none → made →
      (opFree (.barArv o) s = true → exec (.barArv o) s = .next (settle (.hold ⟨some n, none, true⟩ s.relMade))) ∧
      (opFree (.barSync o) s = true → joined s = none → exec (.barSync o) s = .next (settle (.hold ⟨some n, none, false⟩ s.relMade)))) ∧
    (∀ x w p, barOf b n = some x → x.byteMode = false → opFree (.barSync o) s = true → s.frag.wait = some w → w.ph = some p →
      reached (BitVec.ofNat 32 x.ph) (BitVec.ofNat 32 p) = true →
      exec (.barSync o) s = .next ((s.setS o.vd.toNat (dw p)).acquire s.cur.cid 1 []).slotDone) ∧
    (∀ x, barOf b n = some x → x.byteMode = false → opFree (.barWt o) s = true →
      (reached (BitVec.ofNat 32 x.ph) (BitVec.ofNat 32 e) = true →
        exec (.barWt o) s = .next ((s.setS o.vd.toNat (dw x.ph)).acquire s.cur.cid 1 []).slotDone) ∧
      (reached (BitVec.ofNat 32 x.ph) (BitVec.ofNat 32 e) = false →
        exec (.barWt o) s = .next (settle (.hold ⟨some n, none, false⟩ s))))) ∧
  (∀ (s : State) (o : G3),
    let c := s.me
    let b := s.blk c.blk
    let g := s.grid c.gid
    let ts := ((lanesOf s.frag.mask c.w).map (c.cidx * c.w + ·)).map (4096 * b.idx + ·)
    let stop (i : Instr) : Prop := exec i s = .next ((s.raise .illegal 0).slotFailed none)
    let t := s.relMade
    let sync (i : Instr) (sc : Nat) (x : Bar) (live : List Nat) (set : Bar → State) : Prop :=
      opFree i s = true → joined s = none → (s.release s.cur.cid (match c.relDue with | some d => max d sc | none => sc)).1 = true → x.byteMode = false → x.all = true → (∀ t ∈ ts, t ∉ x.arr) →
      let ph := (x.ph + 1) % 2 ^ 32
      (ts ≠ [] → (∀ t ∈ live, t ∈ x.arr ∨ t ∈ ts) → exec i s = .next (((set { x with arr := [], ph := ph }).setS o.vd.toNat (dw ph)).acquire
        s.cur.cid sc []).slotDone) ∧
      ((∃ t ∈ live, t ∉ x.arr ∧ t ∉ ts) → exec i s = .next (settle (.hold ⟨none, some ph, false⟩ (set { x with arr := x.arr ++ ts }))))
    (opFree (.barCl o) s = true → c.kind ≠ .grid → stop (.barCl o)) ∧
    (opFree (.barDie o) s = true → c.kind ≠ .grid ∨ dieGang g = false → stop (.barDie o)) ∧
    (c.kind = .grid →
      sync (.barCl o) 2 (match tget none g.cbars b.cluster with | some x => x | none => ⟨0, false, true, 0, 0, [], 0, false, 0⟩)
        (groupLive (s.gridBlks c.gid (·.cluster == b.cluster)))
        (fun x => t.setGrid c.gid { g with cbars := tput none g.cbars b.cluster (some x) })) ∧
    (c.kind = .grid → dieGang g = true → ∀ sl, g.slices.find? (·.die == b.die) = some sl →
      sync (.barDie o) 3 sl.bar (groupLive (s.gridBlks c.gid (·.die == b.die)))
        (fun x => t.setGrid c.gid { g with slices := g.slices.map fun q => if q.die = b.die then { q with bar := x } else q })))

/-- 17 R345, R352, R353, 19 R386: fences. `fence.rel` completes at once and makes the cohort's next write a release at its scope; `fence.acq` completes
as the acquire of the cohort's last read, once that has its data; `fence.full` is both, and what the cohort did before it is performed first; from
die scope on the core's code buffer is dropped; `fence.racq` gives sD the word at its home, once the line's other writers have been forwarded the
read. Where the spec leaves a point open this rests on the model's reading or choice in log entries 43, 49, 50. -/
def Obligations.FencesComplete : Prop :=
  ∀ (s : State) (o : G3),
    let core := coreOf s.cur.cid
    let sc := o.ty.toNat
    let drop (t : State) : State := if 3 ≤ sc then { t with code := t.code.filter (·.core != core) } else t
    let acq (t : State) : State := t.acquire s.cur.cid sc s.me.lastToks
    let owed (t : State) : State := t.setMe { t.me with relDue := some (match s.me.relDue with | some d => max d sc | none => sc) }
    let done (i : Instr) (t : State) : Prop := exec i s = .next t.slotDone
    (opFree (.fenceRel o) s = true → done (.fenceRel o) (drop (owed s))) ∧
    (opFree (.fenceAcq o) s = true →
      (sc = 0 ∨ lastReadOut s s.cur.cid = false → done (.fenceAcq o) (drop (acq s))) ∧
      (sc ≠ 0 → lastReadOut s s.cur.cid = true → exec (.fenceAcq o) s = .next (settle (.wait .results s)))) ∧
    (opFree (.fenceFull o) s = true →
      ((s.release s.cur.cid sc).1 = true → atomsOut s s.cur.cid = false → sc = 0 ∨ lastReadOut s s.cur.cid = false →
        done (.fenceFull o) (drop (owed (acq s)))) ∧
      ((s.release s.cur.cid sc).1 = false → exec (.fenceFull o) s = .next (settle (.wait .release (s.release s.cur.cid sc).2)))) ∧
    (opFree (.fenceRacq o) s = true → ∀ u key coh s', checkMine s 0 .read true false [⟨0, sreg s.me o.vb, 8⟩] = .ok [(u, key, coh)] s' →
      (srcPois s' key 8 = true → exec (.fenceRacq o) s = .next ((s'.raise .poison (sreg s.me o.vb)).slotFailed none)) ∧
      (srcPois s' key 8 = false → leaseHolds s' core s.cur.cid [(u, key, coh)] = false → claimedBy s' key none = false →
        atomLate s' s.cur.cid [(key, 8)] = false → (∀ t ∈ (s'.dirEnt (lineOf key)).txns, t.done ≠ .fwd s.cur.cid) →
        let e := s'.dirEnt (lineOf key)
        let keys := (List.range 8).map (key + ·)
        let toks := toksOf (if ownDirty s' core key 8 then (s'.lc core (lineOf key)).toks else s'.tokens) keys
        let v := leNat (keys.map (srcByte s' core))
        (coh ≠ 0 ∨ (∀ c ∈ e.wrt, c = core) → (∀ w ∈ s.me.waits, ∀ t v ts, w ≠ .op (.answer t v ts)) →
          (homeDie key = dieOf s.cur.cid →
            let t := s'.setS o.vd.toNat (dw v)
            done (.fenceRacq o) (drop ((t.setMe { t.me with lastVid := none, lastToks := toks }).acquire s.cur.cid sc toks))) ∧
          (homeDie key ≠ dieOf s.cur.cid → exec (.fenceRacq o) s = .next (settle (.wait (.answer s.ptime v toks) s')))) ∧
        (∀ t v ts, s.me.waits = [.op (.answer t v ts)] → 160 ≤ (s.ptime - t).toNat →
          let t := s'.setS o.vd.toNat (dw v)
          done (.fenceRacq o) (drop ((t.setMe { t.me with lastVid := none, lastToks := ts }).acquire s.cur.cid sc ts))) ∧
        (coh = 0 → (∃ c ∈ e.wrt, c ≠ core) → (∀ w ∈ s.me.waits, ∀ x, w ≠ .op x) → e.lse = none ∨ e.txns = [] →
          ∃ t : State, exec (.fenceRacq o) s = .next (settle (.wait (.fwd (lineOf key) false) t)) ∧
            t.net = s'.net ++ (e.wrt.filter (· != core)).map (fun c =>
              .fwd c (lineOf key) ⟨s'.next, maskOfBytes ((List.range 8).map (key % 128 + ·))⟩))))

/-- 02 R42, 19 R387-R391: futures whose line is free, at the home of the op's own die or 10 ns after it left for another. `fut.new` empties one that is
not armed; `fut.set` fills an empty one, answers its loads and runs its chain; `fut.get` takes a full one's value, traps on an abandoned one, else
is deferred at the home; `fut.set.abn` abandons; `fut.reg` puts a record at the head of the chain, or makes it runnable at once. 08 R171, 19 R390,
R391, R393, R394: a refused `fut.get` goes again after its delay, as if it had just come; an ended cohort's bound future is abandoned; `tsk.spawn`
makes a record runnable; `tsk.park` waits for its lanes' results, and with no future, its record written and its release made, ends them. Where the
spec leaves a point open this rests on the model's reading or choice in log entries 50, 68. -/
def Obligations.FuturesAndTasks : Prop :=
  (∀ (s : State) (o : M),
    let c := s.me
    let cid := s.cur.cid
    let core := coreOf cid
    let a := srd c o.sb.toNat + BitVec.ofInt 64 (16 * o.off.toInt)
    let calm (s' : State) (key : Nat) : Prop := ownDirty s' core key 16 = false ∧ homeFree s' (lineOf key) = true ∧
      atomLate s' cid [(key, 16)] = false ∧ readLate s' cid [(key, 16)] = false ∧ s'.poisoned (lineOf key) = false
    let still (s' : State) (key : Nat) : Prop := travelled s' key = true ∧ s'.expired (s'.timeOf (homeDie key)) key = false ∧
      ∀ d ∈ deferred s' (sliceOf (lineOf key)), ∀ r, d = .redo r → lineOf r.key ≠ lineOf key
    let made (s' : State) : Prop := (s'.release cid (match c.relDue with | some d => max d o.sc.toNat | none => o.sc.toNat)).1 = true
    let sent (d key : Nat) : PendKind := if homeDie key = dieOf d then .known else .coming s.ptime
    let stop (s' : State) (i : Instr) (k : Cause) : Prop := exec i s = .next ((s'.raise k a).slotFailed none)
    let wrote (t : State) (key : Nat) (w v : DWord) : Prop := t.bytes key 16 = leBytes 8 w.toNat ++ leBytes 8 v.toNat ∧
      ∀ k, k < key ∨ key + 16 ≤ k → t.byte k = s.byte k
    (∀ key s', checkFut s o.sp .write 16 a = .ok key s' → calm s' key → still s' key →
      let w := s'.word key
      let u := s'.relMade
      (futState w ≠ 1 → hasGets s' key = false →
        (opFree (.futNew o) s = true → ∃ t : State, exec (.futNew o) s = .next t.slotDone ∧ t.me = swr c o.vd.toNat 0 ∧ wrote t key 0 0) ∧
        (opFree (.futNewBind o) s = true → c.bound.length < 8 → ∃ t : State, exec (.futNewBind o) s = .next t.slotDone ∧
          t.me = swr { c with bound := c.bound ++ [(a, key)] } o.vd.toNat 0 ∧ wrote t key 0 0)) ∧
      (futState w = 1 ∨ hasGets s' key = true →
        (opFree (.futNew o) s = true → exec (.futNew o) s = .next (s'.setS o.vd.toNat 1).slotDone) ∧
        (opFree (.futNewBind o) s = true → c.bound.length < 8 → exec (.futNewBind o) s = .next (s'.setS o.vd.toNat 1).slotDone)) ∧
      (opFree (.futSet o) s = true → made s' →
        (futState w = 2 → stop u (.futSet o) .futDouble) ∧ (futState w = 3 → stop u (.futSet o) .futAbandon) ∧
        (futState w = 0 → ∃ t : State, exec (.futSet o) s = .next t.slotDone ∧ wrote t key 2 (sreg c o.vd) ∧ (∀ x ∈ t.me.bound, x ≠ (a, key)) ∧
          hasGets t key = false ∧ ∀ d ∈ deferred s' (sliceOf (lineOf key)), ∀ p, getOf key d = some p →
            ∀ q ∈ (s.cohort p.1).pend, q.vid = p.2 → ∀ b k sd r n, q.kind = .futGet b k sd r n →
              ∃ z ∈ (t.cohort p.1).pend, z.vid = p.2 ∧ z.kind = sent p.1 key ∧ z.writes = [⟨.s sd, sreg c o.vd⟩]) ∧
        (futState w = 1 → ∃ t : State, exec (.futSet o) s = .next t.slotDone ∧
          (tget [] (t.die (homeDie key)).chains c.prio.toNat).map (·.addr) = (tget [] (s.die (homeDie key)).chains c.prio.toNat).map (·.addr) ++
            ((followChain u c.ctx (futSp key) o.sc.toNat 65536 (futList w)).recs.reverse.map (·.1.addr)))) ∧
      (opFree (.futSetAbn o) s = true → made s' →
        (futState w < 2 → ∃ t : State, exec (.futSetAbn o) s = .next t.slotDone ∧ wrote t key 3 0 ∧ ∀ x ∈ t.me.bound, x ≠ (a, key)) ∧
        (2 ≤ futState w → ∃ t : State, exec (.futSetAbn o) s = .next t.slotDone ∧ t.mem = s.mem ∧ ∀ x ∈ t.me.bound, x ≠ (a, key)))) ∧
    (opFree (.futNewBind o) s = true → 8 ≤ c.bound.length → ∀ key s', checkFut s o.sp .write 16 a = .ok key s' →
      exec (.futNewBind o) s = .next (s'.setS o.vd.toNat 2).slotDone) ∧
    (∀ key s', opFree (.futGet o) s = true → checkFut s o.sp .read 16 a = .ok key s' → calm s' key →
      let w := s'.word key
      let sl := sliceOf (lineOf key)
      (futState w = 3 → stop s' (.futGet o) .futAbandon) ∧
      (futState w = 2 → ∃ (t : State) (p : Pend), exec (.futGet o) s = .next t.slotDone ∧ t.me.pend = c.pend ++ [p] ∧
        p.kind = sent cid key ∧ p.writes = [⟨.s o.vd.toNat, s'.word (key + 8)⟩] ∧ t.mem = s.mem) ∧
      (futState w < 2 → (deferred s' sl).length < 64 → ∃ (t : State) (p : Pend), exec (.futGet o) s = .next t.slotDone ∧ t.me.pend = c.pend ++ [p] ∧
        p.kind = .futGet a key o.vd.toNat none 256 ∧ deferred t sl = deferred s' sl ++ [.get cid p.vid key a c.ctx] ∧ t.mem = s.mem) ∧
      (futState w < 2 → 64 ≤ (deferred s' sl).length → ∃ (t : State) (p : Pend), exec (.futGet o) s = .next t.slotDone ∧ t.me.pend = c.pend ++ [p] ∧
        .nack p.vid ∈ t.me.waits ∧ t.defer = s.defer ∧ t.mem = s.mem)) ∧
    (∀ key rk s' s'', opFree (.futReg o) s = true → (sreg c o.vd).toNat % 64 = 0 → a.toNat % 16 = 0 → checkFut s o.sp .write 16 a = .ok key s' →
      checkFut s' o.sp .write 64 (sreg c o.vd) = .ok rk s'' → recCtx s'' rk = c.ctx → made s'' → calm s'' key → still s'' key →
      s''.poisoned (lineOf rk) = false → homeFree s'' (lineOf rk) = true → s''.expired (s''.timeOf (homeDie rk)) rk = false →
      (∀ d ∈ deferred s'' (sliceOf (lineOf rk)), ∀ r, d = .redo r → lineOf r.key ≠ lineOf rk) →
      let w := s''.word key
      (futState w = 3 → exec (.futReg o) s = .next ((s''.relMade.raise .futAbandon a).slotFailed none)) ∧
      (futState w = 2 → ∃ t : State, exec (.futReg o) s = .next t.slotDone ∧
        (tget [] (t.die (dieOf cid)).chains c.prio.toNat).map (·.addr) = (tget [] (s.die (dieOf cid)).chains c.prio.toNat).map (·.addr) ++ [sreg c o.vd]) ∧
      (futState w < 2 → rk + 64 ≤ key ∨ key + 16 ≤ rk → ∃ t : State, exec (.futReg o) s = .next t.slotDone ∧
        t.word key = futList (sreg c o.vd) ||| 1 ∧ t.word (key + 8) = s.word (key + 8) ∧
        t.word (rk + 0x18) = (if futState w = 1 then futList w else 0) ∧
        ∀ k, (k < key ∨ key + 16 ≤ k) → (k < rk + 0x18 ∨ rk + 0x20 ≤ k) → t.byte k = s.byte k))) ∧
  (∀ (s : State),
    let c := s.me
    let cid := s.cur.cid
    let core := coreOf cid
    (∀ d vid p a key sd t0 delay, (s.cohort d).pend.find? (·.vid == vid) = some p → p.kind = .futGet a key sd (some t0) delay →
      t0 ≤ s.cycOf (dieOf d) → homeFree s (lineOf key) = true → s.poisoned (lineOf key) = false →
      (futState (s.word key) = 2 → ∃ (t : State) (q : Pend), exec (.futGetRetry d vid) s = .next t ∧ q ∈ (t.cohort d).pend ∧ q.vid = vid ∧
        q.kind = (if homeDie key = dieOf d then .known else .coming s.ptime) ∧ q.writes = [⟨.s sd, s.word (key + 8)⟩] ∧
        .nack vid ∉ (t.cohort d).waits ∧ t.mem = s.mem) ∧
      (futState (s.word key) = 3 → ∃ t : State, exec (.futGetRetry d vid) s = .next t ∧
        ∃ k ∈ (t.cohort d).dtraps, k.cause = .futAbandon ∧ k.info = a ∧ k.redo = some p) ∧
      (futState (s.word key) < 2 → (deferred s (sliceOf (lineOf key))).length < 64 → ∃ t : State, exec (.futGetRetry d vid) s = .next t ∧
        deferred t (sliceOf (lineOf key)) = deferred s (sliceOf (lineOf key)) ++ [.get d vid key a (s.cohort d).ctx] ∧ .nack vid ∉ (t.cohort d).waits) ∧
      (futState (s.word key) < 2 → 64 ≤ (deferred s (sliceOf (lineOf key))).length → ∃ (t : State) (q : Pend), exec (.futGetRetry d vid) s = .next t ∧
        q ∈ (t.cohort d).pend ∧ q.kind = .futGet a key sd (some (s.cycOf (dieOf d) + delay)) (min 8192 (2 * delay)) ∧
        .nack vid ∈ (t.cohort d).waits)) ∧
    (∀ ctx key, s.poisoned (lineOf key) = false → homeFree s (lineOf key) = true →
      (2 ≤ futState (s.word key) → exec (.abandonRequest ctx key) s = .next s) ∧
      (futState (s.word key) < 2 → s.expired (s.timeOf (homeDie key)) key = false →
        (∀ x ∈ deferred s (sliceOf (lineOf key)), ∀ r, x = .redo r → lineOf r.key ≠ lineOf key) →
        ∃ t : State, exec (.abandonRequest ctx key) s = .next t ∧ t.bytes key 16 = leBytes 8 3 ++ leBytes 8 0 ∧
          ∀ k, k < key ∨ key + 16 ≤ k → t.byte k = s.byte k)) ∧
    (∀ ctx key, s.poisoned (lineOf key) = true → exec (.abandonRequest ctx key) s = .next s) ∧
    (∀ ctx key, s.poisoned (lineOf key) = false → homeFree s (lineOf key) = false → ∃ t : State, exec (.abandonRequest ctx key) s = .next t ∧
      .abandonRequest ctx key ∈ t.net ∧ t.mem = s.mem) ∧
    (∀ (o : M) rk s', opFree (.tskSpawn o) s = true →
      let a := srd c o.sb.toNat + BitVec.ofInt 64 (64 * o.off.toInt)
      checkFut s o.sp .write 64 a = .ok rk s' →
      (recCtx s' rk ≠ c.ctx → exec (.tskSpawn o) s = .next ((s'.raise .protect a).slotFailed none)) ∧
      (recCtx s' rk = c.ctx → s'.poisoned (lineOf rk) = true → exec (.tskSpawn o) s = .next ((s'.raise .poison a).slotFailed none)) ∧
      (recCtx s' rk = c.ctx → s'.poisoned (lineOf rk) = false → homeFree s' (lineOf rk) = true →
        (s'.release cid (match c.relDue with | some d => max d o.sc.toNat | none => o.sc.toNat)).1 = true →
        ∃ t : State, exec (.tskSpawn o) s = .next t.slotDone ∧
          (tget [] (t.die (dieOf cid)).chains c.prio.toNat).map (·.addr) = (tget [] (s.die (dieOf cid)).chains c.prio.toNat).map (·.addr) ++ [a])) ∧
    (∀ o : M, opFree (.tskPark o) s = true → lanesBusy c s.frag.mask = true → exec (.tskPark o) s = .next (settle (.hold ⟨none, none, true⟩ s))) ∧
    (∀ (o : M) rk s' ks, opFree (.tskPark o) s = true → lanesBusy c s.frag.mask = false → sreg c o.vd = 0 →
      let a := srd c o.sb.toNat + BitVec.ofInt 64 (64 * o.off.toInt)
      checkFut s o.sp .write 64 a = .ok rk s' →
      let head := (List.range 64).map fun i => srcByte s' core (rk + i)
      let bs := recordBytes c s.frag.mask head
      atomLate s' cid [(rk, 64)] = false → srcPois s' rk 64 = false →
      (parkLegal c head = false → exec (.tskPark o) s = .next ((s'.raise .illegal a).slotFailed none)) ∧
      (parkLegal c head = true → areaKeys s' o.sp a bs.length = .inl ks → readLate s' cid (ks.map fun k => (k, 8)) = false →
        (∀ j, j < ks.length → ((List.range 8).map fun i => srcByte s' core (ks.getD j 0 + i)) = (bs.drop (8 * j)).take 8) →
        (∀ d, c.relDue = some d → (s'.release cid d true).1 = true) → (s'.relMade.release cid o.sc.toNat).1 = true →
        exec (.tskPark o) s = .next (s'.relMade.owe .exit).slotDone)))

/-- 15 R305, R313, 22 R443: the reads of clocks and `mon.mark`. `tget` writes this die's TIME and both half-widths; `mon.mark` takes the next event
number, and with a ring whose slot holds no unread record writes the 32 bytes of one; no other memory byte changes. 15 R303, 19 R397, 22 R436, R444:
power management sets FCUR within its range alone; ACT moves one step of 5 mV toward OFS, 5 µs after the last; a die adds its counts of a context
into its record, RES alone under TOTAL; the watchdog starts its count, and PERIOD ms after traps each waiting cohort. -/
def Obligations.ClocksMarksAndAccounts : Prop :=
  (∀ (s : State),
    let cid := s.cur.cid
    let d := s.die (dieOf cid)
    let ext : Word := if s.terr.getLsbD 63 then s.terr.extractLsb' 0 32 else 0xFFFFFFFF
    (∀ o, opFree (.cycCnt o) s = true → exec (.cycCnt o) s = .next (s.setS o.vd.toNat d.cyc).slotDone) ∧
    (∀ o, opFree (.cycMhz o) s = true → exec (.cycMhz o) s = .next (s.setS o.vd.toNat (d.fcur.zeroExtend 64)).slotDone) ∧
    (∀ o, opFree (.tget o) s = true →
      exec (.tget o) s = .next ((s.setS o.vd.toNat d.time).setS (o.vd.toNat + 1) (ext ++ (64 : Word))).slotDone) ∧
    (∀ o, opFree (.monMark o) s = true →
      let lgn := bits s.evring 0 5
      let unread := (bits s.evidx 0 32 + 2 ^ 32 - bits s.evidx 32 32) % 2 ^ 32
      let a := bits s.evring 12 52 * 4096 + 32 * (bits s.evidx 0 32 % 2 ^ lgn)
      (lgn < 4 ∨ 16 < lgn → exec (.monMark o) s = .next (s.setS o.vd.toNat allOnes).slotDone) ∧
      (4 ≤ lgn → lgn ≤ 16 → ∃ t : State, exec (.monMark o) s = .next (t.setS o.vd.toNat s.evseq).slotDone ∧ t.evseq = s.evseq + 1 ∧
        bits t.evidx 0 32 = (bits s.evidx 0 32 + 1) % 2 ^ 32 ∧ bits t.evidx 32 32 = bits s.evidx 32 32 ∧ t.cohorts = s.cohorts ∧
        (2 ^ lgn ≤ unread → t.mem = s.mem) ∧
        (unread < 2 ^ lgn → s.bar4 = [] → hostUp s = true → s.me.ctx < 2 ^ 16 → cid < 12 * 88 * 2048 →
          sysWord t a = s.evseq ∧ sysWord t (a + 8) = d.time ∧ sysWord t (a + 24) = sreg s.me o.va ∧
          bits (sysWord t (a + 16)) 48 16 = s.me.ctx ∧ bits (sysWord t (a + 16)) 47 1 = 0 ∧ bits (sysWord t (a + 16)) 32 15 = o.imm.toNat ∧
          bits (sysWord t (a + 16)) 28 4 = dieOf cid ∧ bits (sysWord t (a + 16)) 21 7 = coreOf cid % 88 ∧
          bits (sysWord t (a + 16)) 0 21 = cid % 2048 ∧
          ∀ k, (k < sysKey s a ∨ sysKey s a + 32 ≤ k) → t.byte k = s.byte k)))) ∧
  (∀ (s : State),
    (∀ die mhz, let d := s.die die
      exec (.clockChange die mhz) s =
        .next (if die < 12 ∧ d.fmin.toNat ≤ mhz.toNat ∧ mhz.toNat ≤ d.fmax.toNat then s.setDie die { d with fcur := mhz } else s)) ∧
    (∀ die, let d := s.die die
      let due := die < 12 ∧ d.vmAct ≠ d.vmOfs ∧ 5 * 16000 ≤ (s.ptime - d.vmAt).toNat
      (¬ due → exec (.vmargActStep die) s = .next s) ∧
      (due → ∃ t : State, exec (.vmargActStep die) s = .next t ∧ t = s.setDie die (t.die die) ∧ (t.die die).vmAt = s.ptime ∧
        (d.vmAct < d.vmOfs → (t.die die).vmAct = d.vmAct + 1) ∧ (d.vmOfs < d.vmAct → (t.die die).vmAct = d.vmAct - 1))) ∧
    (∀ die ctx, die < 12 → ctx < 2 ^ 16 → (s.die die).acctBase.getLsbD 0 = true → s.bar4 = [] → hostUp s = true →
      let a := bits (s.die die).acctBase 23 41 * 2 ^ 23 + 128 * ctx
      let detail := (s.ctx ctx).acctmode.getLsbD 0
      (∀ i, i < 13 → s.poisoned (lineOf (sysKey s (a + 8 * i))) = false) →
      ∃ t : State, exec (.accountingUpdate die ctx) s = .next t ∧
        (∀ i, i < 13 → sysWord t (a + 8 * i) =
          if detail = true ∨ i = 0 then sysWord s (a + 8 * i) + dw (tget 0 (s.ctx ctx).acct (16 * die + i)) else sysWord s (a + 8 * i)) ∧
        (∀ i, i < 16 → tget 0 (t.ctx ctx).acct (16 * die + i) = 0) ∧ t.cohorts = s.cohorts ∧
        ∀ k, (k < sysKey s a ∨ sysKey s a + 104 ≤ k) → t.byte k = s.byte k) ∧
    (∀ ctx, let x := s.ctx ctx
      let now := issued s ctx
      let idle : Prop := x.wdogcfg.getLsbD 0 = true ∧ stalled s ctx = true
      (¬ idle → exec (.stalemateFire ctx) s = .next (s.setCtx ctx { x with idleSince := none })) ∧
      (idle → x.idleSince = none ∨ (∃ t l, x.idleSince = some (t, l) ∧ l ≠ now) →
        exec (.stalemateFire ctx) s = .next (s.setCtx ctx { x with idleSince := some (s.ptime, now) })) ∧
      (∀ t, idle → x.idleSince = some (t, now) → (s.ptime - t).toNat < bits x.wdogcfg 16 16 * 16000000 →
        exec (.stalemateFire ctx) s = .next s) ∧
      (∀ t cid n info, idle → x.idleSince = some (t, now) → bits x.wdogcfg 16 16 * 16000000 ≤ (s.ptime - t).toNat →
        now = [(cid, n)] → (s.cohort cid).trap = none →
        let held := internalWait (s.setCtx ctx { x with idleSince := none }) cid
        (∀ e, held = some (.op info) → nextFrag (s.cohort cid) = some e → ∃ (u : State) (k : TrapInfo),
          exec (.stalemateFire ctx) s = .next u ∧ (u.cohort cid).trap = some k ∧ k.cause = .stalemate ∧ k.info = info ∧ k.frag = e.id) ∧
        (∀ f, held = some (.bar f info) → ∃ (u : State) (k : TrapInfo),
          exec (.stalemateFire ctx) s = .next u ∧ (u.cohort cid).trap = some k ∧ k.cause = .stalemate ∧ k.info = info ∧ k.frag = f) ∧
        (∀ vid p b sd r d, held = some (.get vid info) → (s.cohort cid).pend.find? (·.vid == vid) = some p → p.kind = .futGet info b sd r d →
          ∃ (u : State) (k : TrapInfo), exec (.stalemateFire ctx) s = .next u ∧ k ∈ (u.cohort cid).dtraps ∧ k.cause = .stalemate ∧
            k.info = info ∧ k.frag = p.frag))))

/-- 22 R438, R439: `bist` without privilege traps E_PRIV, with an unknown suite E_ILLEGAL, both with the suite in TRAPINFO; a busy unit reports status
2; else the suite starts, and once it has ended the op writes what it found: status 0, 1 or 2, all else 0 with status 0. A suite on the line cache
leaves no line but leased ones. Where the spec leaves a point open this rests on the model's reading or choice in log entry 64. -/
def Obligations.SelfTest : Prop :=
  ∀ (s : State),
    (∀ o, opFree (.bist o) s = true →
      let c := s.me
      let suite := o.imm.toNat
      let stop (k : Cause) (info : DWord) : Prop := exec (.bist o) s = .next ((s.raise k info).slotFailed none)
      let a := (sreg c o.va).toNat
      let unitOk : Prop := (suite = 4 → a ≤ 23) ∧ (suite = 5 → a ≤ 19)
      (c.priv = false → stop .priv (dw suite)) ∧
      (c.priv = true → suite = 0 ∨ 5 < suite → stop .illegal (dw suite)) ∧
      (c.priv = true → suite = 4 → 23 < a → stop .illegal 0) ∧ (c.priv = true → suite = 5 → 19 < a → stop .illegal 0) ∧
      (∀ b v, c.priv = true → 0 < suite → suite ≤ 5 → unitOk → c.bist = some b → b.result = some v →
        exec (.bist o) s = .next ((s.setMe { c with bist := none }).setS o.vd.toNat v).slotDone) ∧
      (∀ u, c.priv = true → 0 < suite → suite ≤ 5 → c.bist = none → bistUnit s.cur.cid suite (sreg c o.va) = some u →
        (bistBusy s s.cur.cid suite u = true → exec (.bist o) s = .next (s.setS o.vd.toNat 2).slotDone) ∧
        (bistBusy s s.cur.cid suite u = false → suite ≠ 3 ∨ (s.core (coreOf s.cur.cid)).leases = [] → ∃ (t : State) (b : Bist),
          exec (.bist o) s = .next t ∧ t.me.bist = some b ∧ b.suite = suite ∧ b.unit = u ∧ b.result = none ∧ .op .other ∈ t.me.waits))) ∧
    (∀ cid b, (s.cohort cid).bist = some b → b.result = none → b.suite ≠ 3 ∨ (∀ l ∈ s.linesOf (coreOf cid), (s.lc (coreOf cid) l).dirty = 0) →
      ∃ (t : State) (v : DWord), exec (.bistSuiteEnd cid) s = .next t ∧ (t.cohort cid).bist = some { b with held := [], result := some v } ∧
        (v = 0 ∨ bits v 0 8 = 1 ∨ (b.suite = 5 ∧ v = 2)) ∧ t.mem = s.mem ∧
        (b.suite = 3 → ∀ l, l < 2 ^ 70 → leased s (coreOf cid) l = none → t.lc (coreOf cid) l = LcEnt.none))

/-- 20 R412: `ctx.save` and `ctx.load`. Both trap E_PRIV without privilege and E_ALIGN off a 4,096-byte boundary. A save of the own context or of one
that is not valid or saved already answers 3, of one with no blocks 1, into too short an area 2; else it stops the context, waits for itself, and
ends with the image's words in the area and status 0. A load answers 3 with no image, 2 where the area does not hold it, and else queues the saved
blocks for placement and acquires at system scope. Where the spec leaves a point open this rests on the model's reading or choice in log entry 62. -/
def Obligations.ContextImages : Prop :=
  ∀ (o : M) (s : State),
    let a := areaAddr s.me o
    let ctx := (sreg s.me o.vd).toNat % 2 ^ 16
    let stop (i : Instr) (k : Cause) (info : DWord) : Prop := exec i s = .next ((s.raise k info).slotFailed none)
    (opFree (.ctxSave o) s = true → s.me.priv = false → stop (.ctxSave o) .priv 0) ∧
    (opFree (.ctxLoad o) s = true → s.me.priv = false → stop (.ctxLoad o) .priv 0) ∧
    (opFree (.ctxSave o) s = true → s.me.priv = true → a.toNat % 4096 ≠ 0 → stop (.ctxSave o) .align a) ∧
    (opFree (.ctxLoad o) s = true → s.me.priv = true → a.toNat % 4096 ≠ 0 → stop (.ctxLoad o) .align a) ∧
    (∀ len s', opFree (.ctxSave o) s = true → s.me.priv = true → a.toNat % 4096 = 0 → (∀ k, withArea s a .write k = k len s') →
      let put (v : DWord) : Prop := exec (.ctxSave o) s = .next (s'.setS o.vd.toNat v).slotDone
      let x := s'.ctx ctx
      (x.saver ≠ some (saverId s') →
        (ctx = s'.me.ctx ∨ ctxV s' ctx = false ∨ x.image ≠ none → put 3) ∧
        (ctx ≠ s'.me.ctx → ctxV s' ctx = true → x.image = none →
          (ctxBlks s' ctx = [] → put 1) ∧
          (ctxBlks s' ctx ≠ [] → len < ctxSize s' ctx → put 2) ∧
          (ctxBlks s' ctx ≠ [] → ctxSize s' ctx ≤ len → ∃ (t : State) (m : Image), exec (.ctxSave o) s = .next t ∧ .op .other ∈ t.me.waits ∧
            t.images = s'.images ++ [m] ∧ m.ctx = ctx ∧ m.size = ctxSize s' ctx ∧ (t.ctx ctx).image = some m.id ∧
            (t.ctx ctx).saver = some (saverId s') ∧ ctxStopped t ctx = true))) ∧
      (∀ n m, x.saver = some (saverId s') → ctxBlks s' ctx = [] → x.image = some n → s'.images.find? (·.id == n) = some m →
        (∀ d, d < 12 → (s'.die d).acctBase.getLsbD 0 = false) →
        (s'.release s'.cur.cid (match s'.me.relDue with | some d => max d 5 | none => 5)).1 = true →
        let ks := imageKeys s' a (imageLen m) .write
        (∀ k ∈ ks, ownDirty s' (coreOf s'.cur.cid) (lineOf k * 128) 128 = false ∧ homeFree s' (lineOf k) = true ∧
          s'.expired (s'.timeOf (homeDie k)) k = false ∧ ∀ d ∈ deferred s' (sliceOf (lineOf k)), ∀ r, d = .redo r → lineOf r.key ≠ lineOf k) →
        (∀ i j, i < j → j < ks.length → ks.getD i 0 + 8 ≤ ks.getD j 0 ∨ ks.getD j 0 + 8 ≤ ks.getD i 0) →
        ∃ t : State, exec (.ctxSave o) s = .next (t.setS o.vd.toNat 0).slotDone ∧ (t.ctx ctx).saver = none ∧ (t.ctx ctx).image = some n ∧
          (∀ i, i < ks.length → t.word (ks.getD i 0) = (imageWords m.seed (imageLen m)).getD i 0) ∧
          (∀ k, (∀ q ∈ ks, k < q ∨ q + 8 ≤ k) → t.byte k = s'.byte k))) ∧
    (∀ len s', opFree (.ctxLoad o) s = true → s.me.priv = true → a.toNat % 4096 = 0 → (∀ k, withArea s a .read k = k len s') →
      let put (t : State) (v : DWord) : Prop := exec (.ctxLoad o) s = .next (t.setS o.vd.toNat v).slotDone
      let core := coreOf s'.cur.cid
      (imageOf s' ctx = none → put s' 3) ∧
      (∀ m, imageOf s' ctx = some m →
        let ks := imageKeys s' a (imageLen m) .read
        let w := ks.map fun k => dw (leNat ((List.range 8).map fun i => srcByte s' core (k + i)))
        (∀ k ∈ ks, srcPois s' k 8 = false ∧ claimedBy s' k none = false) →
        (len < m.size ∨ w ≠ imageWords m.seed (imageLen m) → put s' 2) ∧
        (m.size ≤ len → w = imageWords m.seed (imageLen m) → put ((s'.loadImage m).acquire s'.cur.cid 5 []) 0))) ∧
    (∀ m, let t := s.loadImage m
      (t.ctx m.ctx).image = none ∧ (t.ctx m.ctx).saver = none ∧ (∀ n ∈ t.images, n.id ≠ m.id) ∧ t.mem = s.mem ∧ t.cohorts = s.cohorts ∧
      ∀ v ∈ s.saved, (v.image = some m.id → { v with image := none } ∈ t.saved) ∧ (v.image ≠ some m.id → v ∈ t.saved))

/-- 05 R103, 20 R415-R417: a request chooses victims and an option for each, the first of drain, save and flush whose estimate is within PLB, else the
smallest; a block being saved goes to the pool, with its cluster, once their work has drained, its predicates, FSTAT, modes and trap registers as
they stood; a block being flushed ends between words with its list of futures discarded, and goes back unplaced once its stores are performed. Where
the spec leaves a point open this rests on the model's reading or choice in log entries 54, 60, 90. -/
def Obligations.PreemptionSteps : Prop :=
  ∀ (s : State),
    (∀ grid die x bs, s.slice grid die = some x → (s.grid grid).active = true → rPlb (s.grid grid).rcd ≠ 0 → ctxStopped s (rCtx (s.grid grid).rcd) = false →
      nextUp s grid x ≠ none → (x.since ≠ none ∨ (s.grid grid).gang = true) → s.placeNext grid x (dieCores die) = none →
      (∀ b, (s.blk b).used = true → (s.blk b).die = die → (s.blk b).askedBy = grid → (s.blk b).option = 0) →
      victims grid die (candidates s die (rPrio (s.grid grid).rcd)) s [] = some [bs] →
      ∃ t : State, exec (.preemptionRequest grid die) s = .next t ∧ t.mem = s.mem ∧ t.cohorts = s.cohorts ∧ (∀ b, b ∉ bs → t.blk b = s.blk b) ∧
        ∀ b ∈ bs, t.blk b = { s.blk b with option := chooseOption (rPlb (s.grid grid).rcd) (options s die bs), askedBy := grid }) ∧
    (∀ plb l, (∀ p ∈ l, p.2.num ≤ plb * p.2.den → ∃ q ∈ l, chooseOption plb l = q.1 ∧ q.2.num ≤ plb * q.2.den) ∧
      (l ≠ [] → (∀ p ∈ l, 0 < p.2.den ∧ plb * p.2.den < p.2.num) →
        ∃ q ∈ l, chooseOption plb l = q.1 ∧ ∀ p ∈ l, q.2.num * p.2.den ≤ p.2.num * q.2.den)) ∧
    (∀ b, let x := s.blk b
      x.used = true → x.option = 2 →
      let mates := clusterMates s b
      ((∃ c ∈ mates, blkSavable s c = false) → exec (.blockSave b) s = .next (mates.foldl (fun s c => s.pushBlk c) s)) ∧
      ((∀ c ∈ mates, blkSavable s c = true) → ∃ t : State, exec (.blockSave b) s = .next (t.pass x.die) ∧
        ∀ c ∈ mates, (t.blk c).used = false ∧ ∃ v ∈ t.saved, v.id = c ∧ v.image = none) ∧
      (mates = [b] → blkSavable s b = true → ∃ (t : State) (v : Saved), exec (.blockSave b) s = .next (t.pass x.die) ∧ (t.blk b).used = false ∧
        t.saved = s.saved ++ [v] ∧ v.id = b ∧ v.ctx = x.ctx ∧ v.image = none ∧ v.size = saveSize s b ∧
        (∀ cid ∈ liveCohorts s b, (t.cohort cid).kind = .vacant) ∧
        (∀ i, i < x.cids.length → x.cids.getD i 0 ∈ liveCohorts s b →
          let c := s.cohort (x.cids.getD i 0)
          let u := v.cohorts.getD i Cohort.vacant
          u.pr = c.pr ∧ u.xr = c.xr ∧ u.jr = c.jr ∧ u.fstat = c.fstat ∧ u.fmode = c.fmode ∧ u.tcause = c.tcause ∧ u.tinfo = c.tinfo ∧
          u.tpc = c.tpc ∧ u.live = c.live ∧ u.act = c.act ∧ u.shd = c.shd ∧ u.bound = c.bound ∧
          (allAtHeaders c = false → u.sr = c.sr ∧ u.vr = c.vr)))) ∧
    (∀ b, let x := s.blk b
      let k (cid : Nat) : CoreSt := s.core (coreOf cid)
      x.used = true → x.option = 3 →
      (cohortsEnded s b = false → (∀ cid ∈ liveCohorts s b,
          (betweenWords (s.cohort cid) = true ∨ ∃ w, .op w ∈ (s.cohort cid).waits) ∧ (∀ l ∈ (k cid).leases, l.cid ≠ some cid) ∧
          (∀ e ∈ (k cid).matq, e.cid = cid → e.done = true) ∧ (∀ r, (k cid).matRun = some r → r.ent.cid ≠ cid)) →
        exec (.blockFlush b) s = .next (s.killBlk b false)) ∧
      (∀ y, cohortsEnded s b = true → blockDrained s b = true → x.kind = .grid → x.askedBy ≠ x.gid →
        (∀ d, (s.blk d).used = true → (s.blk d).gid = x.gid → (s.blk d).cluster = x.cluster → (s.blk d).kind = .grid → (s.blk d).option = 3 → d = b) →
        s.slice x.gid x.die = some y →
        ∃ (t : State) (z : Slice), exec (.blockFlush b) s = .next (t.pass x.die) ∧ (t.blk b).used = false ∧ t.slice x.gid x.die = some z ∧
          z.redo = addRedo y.redo x.cluster x.j ∧ z.next = y.next ∧ t.mem = s.mem))

/-- 20 R409: the commands of CTXCMD, taken up while PEND = 0, and the status each leaves with PEND = 0. A resume lets a stopped cohort go on, but not
after a nested trap; an abort ends its grid with the interrupt of its queue and no completion store, or its task alone; a teardown ends all of the
context and frees its handles; a save and a restore use the context's pool. Where the spec leaves a point open this rests on the model's reading or
choice in log entries 62, 63. -/
def Obligations.ContextCommands : Prop :=
  ∀ (s : State) (v : DWord), recovery s = false → s.ctxcmd.getLsbD 31 = false →
    let ctx := bits v 48 16
    let ends (i : Instr) (st : Nat) (p : State → Prop) : Prop :=
      ∃ t : State, exec i s = .next t ∧ bits t.ctxcmd 29 2 = st ∧ t.ctxcmd.getLsbD 31 = false ∧ p t
    let same (t : State) : Prop := t = { s with ctxcmd := t.ctxcmd }
    (bits v 43 3 = 1 →
      (stoppedCohort s v = none → ends (.ctxcmdResume v) 1 same) ∧
      (∀ cid, stoppedCohort s v = some (cid, true) → ends (.ctxcmdResume v) 3 same) ∧
      (∀ cid, stoppedCohort s v = some (cid, false) → (s.cohort cid).doomed = false → (s.cohort cid).again = none →
        ends (.ctxcmdResume v) 0 fun t => (∀ w ∈ (t.cohort cid).waits, ∀ n, w ≠ .host n) ∧ (t.cohort cid).ents = (s.cohort cid).ents ∧
          (t.cohort cid).sr = (s.cohort cid).sr ∧ (t.cohort cid).tcause = (s.cohort cid).tcause ∧ t.mem = s.mem)) ∧
    (bits v 43 3 = 2 →
      (stoppedCohort s v = none → ends (.ctxcmdAbort v) 1 same) ∧
      (∀ cid n, stoppedCohort s v = some (cid, n) → (s.cohort cid).kind = .grid → (s.grid (s.cohort cid).gid).active = true →
        ends (.ctxcmdAbort v) 0 fun t => (t.grid (s.cohort cid).gid).active = false ∧ t.mem = s.mem ∧
          .msix (qVec (s.queue (s.grid (s.cohort cid).gid).q)) ∈ t.out ∧ (∀ g, g ≠ (s.cohort cid).gid → t.grid g = s.grid g)) ∧
      (∀ cid n, stoppedCohort s v = some (cid, n) → (s.cohort cid).kind = .task → cid ∈ liveCohorts s (s.cohort cid).blk →
        ends (.ctxcmdAbort v) 0 fun t => (t.cohort cid).kind = .vacant ∧ t.mem = s.mem ∧ t.grids = s.grids)) ∧
    (bits v 43 3 = 3 → ∃ st : Nat, st ≤ 1 ∧ ends (.ctxcmdTeardown v) st fun t =>
      (t.ctx ctx).torn = true ∧ (t.ctx ctx).image = none ∧ (∀ m ∈ t.images, m.ctx ≠ ctx) ∧
      (∀ g, (s.grid g).active = true → rCtx (s.grid g).rcd = ctx → (t.grid g).active = false) ∧
      (∀ d h, d < 12 → bits (tget (0, 0) (t.die d).handles h).1 48 16 = ctx → (tget (0, 0) (t.die d).handles h).2.getLsbD 63 = false)) ∧
    (bits v 43 3 = 4 →
      (∀ st, saveStatus s ctx (poolFree s ctx) = st → st ≠ 0 → st ≤ 3 → ends (.ctxcmdSave v) st same) ∧
      (saveStatus s ctx (poolFree s ctx) = 0 → ∃ t : State, exec (.ctxcmdSave v) s = .next t ∧ t.ctxcmd.getLsbD 31 = true ∧ bits t.ctxcmd 43 3 = 4 ∧
        bits t.ctxcmd 48 16 = ctx ∧ (t.ctx ctx).image ≠ none ∧ (t.ctx ctx).saver = some hostSaver)) ∧
    (∀ r : State, recovery r = false → r.ctxcmd.getLsbD 31 = true → bits r.ctxcmd 43 3 = 4 →
      let c := bits r.ctxcmd 48 16
      ctxBlks r c = [] → ∃ u : State, exec (.ctxcmdSave v) r = .next u ∧ bits u.ctxcmd 29 2 = 0 ∧ u.ctxcmd.getLsbD 31 = false ∧
        (u.ctx c).saver = none ∧ (u.ctx c).image = (r.ctx c).image) ∧
    (bits v 43 3 = 5 →
      (imageOf s ctx = none → ends (.ctxcmdRestore v) 1 same) ∧
      (∀ m, imageOf s ctx = some m →
        let w := (List.range (imageLen m)).map fun i => sysWord s ((poolOf s ctx).1 + 8 + 8 * i)
        (w ≠ imageWords m.seed (imageLen m) → ends (.ctxcmdRestore v) 3 same) ∧
        (w = imageWords m.seed (imageLen m) → ends (.ctxcmdRestore v) 0 fun t => t = { s.loadImage m with ctxcmd := t.ctxcmd })))

/-- 20 R413, R414: an error that ECC corrects changes no state but the records'; an uncorrected one loses a register word, dooms a cohort with E_SOFT,
poisons a scratch byte or a line, or drops a line of a line cache, whose dirty bytes go home poisoned; each takes the next record number. 20
R418-R420, 21 R431, R432: a commanded reset; a die reset, which empties the die's cores, restarts its count of cycles and counts itself; a package
reset, which loses all but host and peer memory and the flash, and starts the service or leaves the package in recovery; the loss of power. Where
the spec leaves a point open this rests on the model's reading or choice in log entries 75, 76, 86. -/
def Obligations.ErrorsAndResets : Prop :=
  (∀ (s : State) (ok : Bool),
    let w (t : State) : Prop := bits t.mcidx 0 32 = (bits s.mcidx 0 32 + 1) % 2 ^ 32 ∧ bits t.mcidx 32 32 = bits s.mcidx 32 32
    let runs (e : SoftErr) (p : State → Prop) : Prop := ∃ t : State, exec (.softError e) s = .next t ∧ w t ∧ p t
    (∀ cid reg lane, (s.cohort cid).kind ≠ .vacant → reg < (s.cohort cid).nreg → lane < (s.cohort cid).w →
      runs (.register cid reg lane ok) fun t =>
        t.cohort cid = (if ok then s.cohort cid else { s.cohort cid with lost := tput false (s.cohort cid).lost (64 * reg + lane) true }) ∧
        ∀ d, d ≠ cid → t.cohort d = s.cohort d) ∧
    (∀ cid, (s.cohort cid).kind ≠ .vacant → runs (.stateArea cid ok) fun t => (ok = true → t.cohort cid = s.cohort cid) ∧
      (ok = false → (t.cohort cid).doomed = true ∧ ∃ k ∈ (t.cohort cid).dtraps, k.cause = .soft)) ∧
    (∀ key, 2 ^ 42 ≤ key → key < scratchKey (12 * 88) 0 → runs (.scratch key ok) fun t => t.cohorts = s.cohorts ∧
      t.scratchPois key = (if ok then s.scratchPois key else true)) ∧
    (∀ core line, (s.lc core line).valid ≠ 0 → runs (.lineCache core line ok) fun t => t.cohorts = s.cohorts ∧
      (ok = true → t.lines = s.lines) ∧ (ok = false → t.lc core line = LcEnt.none ∧
        ((s.lc core line).dirty ≠ 0 → ∃ car,
          .wb core line (s.lc core line).dirty (s.lc core line).bytes true ⟨(s.core core).wbn, car⟩ ∈ t.net))) ∧
    (∀ line unit, (isHbm (line * 128) || isCarve (line * 128)) = true → homeDie (line * 128) < 12 → 3 ≤ unit.toNat → unit.toNat ≤ 5 →
      (unit.toNat = 3 → line ∈ (sramOf s (sliceOf line)).map (·.1)) →
      (unit.toNat = 4 → isCarve (line * 128) = true ∨ line ∈ (mscOf s (homeDie (line * 128))).map (·.1)) → (unit.toNat = 5 → isHbm (line * 128) = true) →
      runs (.home line unit ok) fun t => t.cohorts = s.cohorts ∧ t.lines = s.lines ∧ t.poisoned line = (if ok then s.poisoned line else true))) ∧
  (∀ (s : State),
    (∀ die v, recovery s = false → die < 12 → exec (.commandedReset die v) s =
      .next (if v.getLsbD 0 then s.setDie die { s.die die with rstBusy := true } else s)) ∧
    (∀ die cause, let d := s.die die
      let due : Prop := cause = 1 ∨ cause = 2 ∨ (cause = 3 ∧ d.rstBusy = true)
      (¬ due → exec (.dieReset die cause) s = .next s) ∧
      (due → die < 12 → d.stopped = false → ∃ t : State, exec (.dieReset die cause) s = .next (t.pass die) ∧ (t.die die).cyc = 0 ∧
        (t.die die).rstCause = cause ∧ (t.die die).rstBusy = false ∧ (t.die die).epoch = d.epoch + 1 ∧
        (t.die die).rstCount = (if d.rstCount = 0xFFFFFFFF then 0xFFFFFFFF else d.rstCount + 1) ∧
        (∀ core line, dieOfCore core = die → line < 2 ^ 70 → t.lc core line = LcEnt.none) ∧
        (∀ e ∈ t.tlb, dieOfCore e.core ≠ die) ∧ (∀ e ∈ t.code, dieOfCore e.core ≠ die))) ∧
    (∃ t : State, exec .packageReset s = .next t ∧ t.powered = true ∧ t.fatal = false ∧ t.cohorts = [] ∧ t.blks = [] ∧ t.grids = [] ∧ t.queues = [] ∧
      t.lines = [] ∧ t.net = [] ∧ t.qtbase = 0 ∧ t.ctxtbase = 0 ∧ t.ctxcmd = 0 ∧ t.terr = 0xFFFFFFFF ∧ t.fw.slot = s.fw.slot ∧
      t.fw.minSvn = s.fw.minSvn ∧ ((t.fw.running = none ∧ t.fw.state = 2) ∨ (t.fw.running = s.fw.slot ∧ t.fw.running ≠ none ∧ t.fw.state = 1)) ∧
      ∀ k, t.byte k = if 2 ^ 53 ≤ k then s.byte k else 0) ∧
    (∃ t : State, exec .powerLoss s = .next t ∧ t.powered = false ∧ t = { s with powered := false, fw := t.fw } ∧
      (s.fw.state ≠ 4 → t.fw = s.fw) ∧ (s.fw.state = 4 → t.fw.slot = none)))

/-- 13 R272, R275-R277: a walk that maps an address is kept; a response ends its request, after which a parked access goes on or traps; TINV drops the
cached entries of its range and ends once the accesses that used them are performed; a new carve region is zero-filled once no copy of the old one
is left. Where the spec leaves a point open this rests on the model's reading or choice in log entries 47, 61. -/
def Obligations.TranslationEvents : Prop :=
  ∀ (s : State),
    (∀ core ctx (va : DWord) a, core < 12 * 88 → globalAddr va = true → walkBad s ctx va.toNat = some a →
      exec (.pageWalkComplete core ctx va) s = .next (s.mcRecord ctx 1 10 (dieOfCore core) (core % 88) (dw a))) ∧
    (∀ core ctx (va : DWord) e size, core < 12 * 88 → globalAddr va = true → walkBad s ctx va.toNat = none → tlbHit s core ctx va.toNat = none → walk s ctx va.toNat = .leaf e size →
      exec (.pageWalkComplete core ctx va) s = .next { s with tlb := s.tlb ++ [⟨core, ctx, va.toNat / size * size, size, e⟩] }) ∧
    (∀ n p ans cid e a wr, s.preqs.find? (·.n == n) = some p → (s.cohort cid).ctx = p.ctx → (s.cohort cid).ents = [e] → e.st = .parked ⟨n, a, wr⟩ → e.park = none →
      (∀ r ∈ s.copies, r.paused ≠ some n) → (∀ x ∈ s.xdmas, x.paused ≠ some n) → (∀ q, some n ∉ (s.queue q).waitReq) → (∀ g, (s.grid g).parked ≠ some n) →
      ∃ t : State, exec (.pageRequestResponse n ans) s = .next t ∧ (∀ q ∈ t.preqs, q.n ≠ n) ∧ t.mem = s.mem ∧
        (∀ x ∈ t.tlb, x.ctx = p.ctx → overlap x.base x.size p.page.toNat 4096 = false) ∧
        (∀ lf z, ans = .success → walk s p.ctx p.page.toNat = .leaf lf z → wr = false ∨ lf.getLsbD 61 = true →
          t.cohort cid = { s.cohort cid with ents := [unpark { e with xfer := e.xfer.map (·.answered n) }] }) ∧
        (ans ≠ .success ∨ (∃ x, walk s p.ctx p.page.toNat = .none x) → ∃ k, (t.cohort cid).dtraps = (s.cohort cid).dtraps ++ [k] ∧ k.cause = .xlate ∧
          k.info = a ∧ k.frag = e.id) ∧
        (∀ lf z, ans = .success → walk s p.ctx p.page.toNat = .leaf lf z → wr = true → lf.getLsbD 61 = false →
          ∃ k, (t.cohort cid).dtraps = (s.cohort cid).dtraps ++ [k] ∧ k.cause = .protect ∧ k.info = a ∧ k.frag = e.id)) ∧
    (∀ v, recovery s = false → (s.tinv.getLsbD 0 = true → exec (.tinvWrite v) s = .next s) ∧
      (s.tinv.getLsbD 0 = false → ∃ t : State, exec (.tinvWrite v) s = .next t ∧ t = { s with tinv := t.tinv } ∧ t.tinv.getLsbD 0 = true ∧
        bits t.tinv 10 54 = bits v 10 54 ∧ bits t.tinv 1 9 = 0)) ∧
    (s.tinv.getLsbD 0 = true →
      let ctx := bits s.tinv 48 16
      (∀ lo n, tinvRange s.tinv = some (lo, n) → ∃ t : State, exec .tinvComplete s = .next t ∧ (∀ x ∈ t.tlb, x.ctx = ctx → overlap x.base x.size lo n = false) ∧
        ∀ x ∈ s.tlb, x.ctx ≠ ctx → x ∈ t.tlb) ∧
      (tinvRange s.tinv = none → ∃ t : State, exec .tinvComplete s = .next t ∧ (∀ x ∈ t.tlb, x.ctx ≠ ctx) ∧ ∀ x ∈ s.tlb, x.ctx ≠ ctx → x ∈ t.tlb) ∧
      ((∃ p ∈ s.cohorts, leftOut s p.1 = true) → ∃ t : State, exec .tinvComplete s = .next t ∧ t.tinv = s.tinv) ∧
      ((∀ cid, leftOut s cid = false ∧ ((s.cohort cid).kind ≠ .vacant → (s.cohort cid).ctx = ctx → accessOut s cid = false)) → ∃ t : State, exec .tinvComplete s = .next t ∧
        t.tinv = s.tinv &&& ~~~(1#64) ∧ t.mem = s.mem)) ∧
    (∀ die v, recovery s = false → die < 12 →
      let d := s.die die
      let z : BitVec 9 := v.extractLsb' 0 9
      (384 < z.toNat → exec (.mcarveWrite die v) s = .next s) ∧
      (z.toNat ≤ 384 → v.extractLsb' 48 16 ≠ d.mcCtx ∨ z ≠ d.mcSize →
        exec (.mcarveWrite die v) s = .next (s.setDie die { d with mcCtx := v.extractLsb' 48 16, mcSize := z, mcPend := true }))) ∧
    (∀ die, die < 12 → (s.die die).mcPend = true → (∀ l, carveLine die l = true → s.dirEnt l = DirEnt.none) → carveBusy s die = false →
      let n := (s.die die).mcSize.toNat * 2 ^ 21
      ∃ t : State, exec (.mcarveComplete die) s = .next t ∧ t.die die = { s.die die with mcPend := false } ∧
        (∀ k, carveKey die 0 ≤ k → k < carveKey die 0 + n → t.byte k = 0 ∧ t.poisoned (lineOf k) = false) ∧
        ∀ k, k < carveKey die 0 ∨ carveKey die 0 + n ≤ k → t.byte k = s.byte k)

/-- 04 R79-R82, R85, 09 R203: a doorbell and a poll read the queue's control words; an append, by `launch` or QAPPEND, copies a record into slot WIDX
and counts it, or is turned away: `launch` answers 0 accepted, 1 full, 2 not in use, 3 another context, 4 a fault, a QAPPEND write counts in DROPS
or halts the queue with ERR 0x03. Each I/O die keeps its own doorbell and append registers. While QTBASE is not valid `launch` answers 2 (the
model's choice, log entry 7). -/
def Obligations.QueueAppends : Prop :=
  ∀ (s : State),
    let words (q : Nat) : List DWord := (List.range 8).map fun i => sysWord s (queueDesc s q + 8 * i)
    let readable (q : Nat) : Prop := ∀ i, i < 8 → sysOk s (queueDesc s q + 8 * i) = true
    let f (w : List DWord) (i lo n : Nat) : Nat := bits (w.getD i 0) lo n
    let sound (q : Nat) : Prop := readable q ∧ queueDescOk (words q) = true
    let open' (q : Nat) : Prop := sound q ∧ f (words q) 1 0 1 = 1 ∧ f (words q) 1 1 1 = 1 ∧ f (words q) 4 8 1 = 0
    let count (q : Nat) : Nat := ((words q).getD 2 0).toNat - ((words q).getD 3 0).toNat
    (∀ io v, recovery s = false → let rung : State := { s with qdoorbell := tput 0 s.qdoorbell io (v &&& 0x3FF) }
      (s.qtbase.getLsbD 0 = false → exec (.queueDoorbell ⟨io, v⟩) s = .next rung) ∧
      (s.qtbase.getLsbD 0 = true → exec (.queueDoorbell ⟨io, v⟩) s = .next (rung.readQueue (bits v 0 10)))) ∧
    (∀ q, q < 1024 → s.qtbase.getLsbD 0 = true → f (words q) 1 0 1 = 1 → f (words q) 1 1 1 = 0 → (s.queue q).known = false ∨ qHalted (s.queue q) = false →
      exec (.ringPoll q) s = .next (s.readQueue q)) ∧
    (∀ q, sound q → let t := s.readQueue q
      (t.queue q).known = true ∧ t.cohorts = s.cohorts ∧
      (f (words q) 1 0 1 = 0 ∨ f (words q) 1 1 1 = 1 ∨ f (words q) 4 8 1 = 1 ∨ count q ≤ 2 ^ f (words q) 0 0 5 →
        (t.queue q).ctl = words q ∧ t.mem = s.mem) ∧
      (f (words q) 1 0 1 = 1 → f (words q) 1 1 1 = 0 → f (words q) 4 8 1 = 0 → 2 ^ f (words q) 0 0 5 < count q →
        qf (t.queue q) 4 0 8 = 4 ∧ qHalted (t.queue q) = true ∧ (t.queue q).head = none ∧ .msix (f (words q) 1 16 11) ∈ t.out)) ∧
    (∀ q, readable q → queueDescOk (words q) = false → f (words q) 4 8 1 = 0 → let t := s.readQueue q
      qf (t.queue q) 4 0 8 = 7 ∧ qHalted (t.queue q) = true ∧ (t.queue q).head = none ∧ (t.queue q).ctl.getD 5 0 = (words q).getD 3 0 ∧ t.cohorts = s.cohorts) ∧
    (∀ o, opFree (.launch o) s = true →
      let q := sreg s.me o.va
      let a := sreg s.me o.vb
      let n := q.toNat
      let stop (k : Cause) (info : DWord) : Prop := exec (.launch o) s = .next ((s.raise k info).slotFailed none)
      let gives (st : DWord) (p : State → Prop) : Prop := ∃ t : State, exec (.launch o) s = .next (t.setS o.vd.toNat st).slotDone ∧ p t
      (1023 < n → stop .illegal q) ∧
      (n ≤ 1023 → a.toNat % 256 ≠ 0 → stop .align a) ∧
      let sc := launchScope s n a
      let m := s.relMade
      (n ≤ 1023 → a.toNat % 256 = 0 → (s.release s.cur.cid (match s.me.relDue with | some d => max d sc | none => sc)).1 = true →
        (s.qtbase.getLsbD 0 = false → gives 2 fun t => t = m) ∧
        (s.qtbase.getLsbD 0 = true → sound n → f (words n) 1 48 16 ≠ s.me.ctx → gives 3 fun t => t.cohorts = m.cohorts) ∧
        (s.qtbase.getLsbD 0 = true → sound n → ¬ open' n → f (words n) 1 48 16 = s.me.ctx → gives 2 fun t => t.cohorts = m.cohorts) ∧
        (s.qtbase.getLsbD 0 = true → open' n → f (words n) 1 48 16 = s.me.ctx →
          let y := m.readQueue n
          let x := y.queue n
          (2 ^ f (words n) 0 0 5 ≤ count n → gives 1 fun t => t.mem = s.mem) ∧
          (count n < 2 ^ f (words n) 0 0 5 →
            (svcWords y (qCtx x) a 32 = none → gives 4 fun t => t.mem = s.mem ∧ qHalted (t.queue n) = false) ∧
            (∀ r, svcWords y (qCtx x) a 32 = some r →
              (y.svcWrite (qCtx x) (slotAddr x (qWidx x)) r = none → gives 4 fun t => qHalted (t.queue n) = true ∧ qf (t.queue n) 4 0 8 = 3 ∧
                (t.queue n).ctl.getD 5 0 = (words n).getD 2 0) ∧
              (∀ t, y.svcWrite (qCtx x) (slotAddr x (qWidx x)) r = some t → gives 0 fun u => u.cohorts = m.cohorts ∧ qWidx (u.queue n) = (words n).getD 2 0 + 1 ∧
                (hostUp s = true → sysWord u (queueDesc s n + 16) = (words n).getD 2 0 + 1))))))) ∧
    (∀ io q v, recovery s = false → q < 1024 → s.qtbase.getLsbD 0 = true →
      let ev : Instr := .queueAppend q ⟨io, v⟩
      let a : DWord := (v >>> 8) <<< 8
      let s1 : State := { s with qappend := tput 0 s.qappend (1024 * io + q) a }
      let x := (s1.readQueue q).queue q
      (sound q → (¬ open' q ∨ 2 ^ f (words q) 0 0 5 ≤ count q) →
        (f (words q) 1 0 1 = 0 ∨ f (words q) 1 1 1 = 1 ∨ f (words q) 4 8 1 = 1 ∨ count q ≤ 2 ^ f (words q) 0 0 5) →
        ∃ t : State, exec ev s = .next t ∧ qf (t.queue q) 4 9 16 = min 0xFFFF (f (words q) 4 9 16 + 1) ∧ t.cohorts = s.cohorts) ∧
      (open' q → count q < 2 ^ f (words q) 0 0 5 →
        (svcWords (s1.readQueue q) (qCtx x) a 32 = none → ∃ t : State, exec ev s = .next t ∧ qf (t.queue q) 4 0 8 = 3 ∧
          qHalted (t.queue q) = true ∧ (t.queue q).ctl.getD 5 0 = (words q).getD 2 0) ∧
        (∀ r t, svcWords (s1.readQueue q) (qCtx x) a 32 = some r → (s1.readQueue q).svcWrite (qCtx x) (slotAddr x (qWidx x)) r = some t →
          ∃ u : State, exec ev s = .next u ∧ qWidx (u.queue q) = (words q).getD 2 0 + 1 ∧ u.cohorts = s.cohorts ∧
            (hostUp s = true → sysWord u (queueDesc s q + 16) = (words q).getD 2 0 + 1))))

/-- 04 R83-R88: the record at RIDX becomes the head when it is valid and of the queue's context, else the queue halts with the error R84 names; a wait
latches when its word has reached its value; a record with every wait latched, and SER's store made, is ready; each 4,096 I/O cycles raise its
priority by 1, to at most 7. -/
def Obligations.HeadRecords : Prop :=
  ∀ (s : State) (q : Nat),
    let x := s.queue q
    let open' : Prop := queueOn s x = true ∧ x.head = none ∧ qCount x ≠ 0 ∧ s.ctxtbase.getLsbD 0 = true ∧ (s.ctx (qCtx x)).torn = false
    (open' → x.ctl.length = 8 →
      let halts (err : Nat) : Prop := ∃ t : State, exec (.headRecordRead q) s = .next t ∧ qf (t.queue q) 4 0 8 = err ∧ qHalted (t.queue q) = true ∧
        (t.queue q).ctl.getD 5 0 = qRidx x ∧ (t.queue q).head = none ∧ t.out = s.out ++ [.msix (qVec x)]
      (ctxValid s (qCtx x) = false → (∀ i, i < 8 → sysOk s (ctxEntryAddr s (qCtx x) + 8 * i) = true) → halts 2) ∧
      (ctxValid s (qCtx x) = true → svcWords s (qCtx x) (slotAddr x (qRidx x)) 32 = none → halts 3) ∧
      (∀ r, ctxValid s (qCtx x) = true → svcWords s (qCtx x) (slotAddr x (qRidx x)) 32 = some r →
        (recordOk r = false → halts 1) ∧
        (recordOk r = true → rCtx r ≠ qCtx x → halts 2) ∧
        (recordOk r = true → rCtx r = qCtx x → (∀ i, i < 4 → waitAddr r i = 0) → x.readyAt = none → ∃ t : State, exec (.headRecordRead q) s = .next t ∧
          (t.queue q).head = some r ∧ (t.queue q).latched = [true, true, true, true] ∧ t.mem = s.mem ∧
          (t.queue q).readyAt = if qSer x = false ∨ x.last = none then some s.ioCyc else none))) ∧
    (∀ i r k coh, i < 4 → x.head = some r → x.latched.getD i true = false → svcTr s (rCtx r) (waitAddr r i) .read = .ok k coh →
      s.poisoned (lineOf k) = false → unitDown s k = false → x.readyAt = none →
      let there : Prop := reached (BitVec.ofNat 32 (s.word k).toNat) (waitVal r i) = true
      let latches (ev : Instr) : Prop := ∃ t : State, exec ev s = .next t ∧ (t.queue q).latched = x.latched.set i true ∧ t.mem = s.mem ∧
        ((∀ j, j < x.latched.length → j ≠ i → x.latched.getD j false = true) → qSer x = false ∨ x.last = none →
          (t.queue q).readyAt = some s.ioCyc)
      (there → latches (.waitWordEval q i)) ∧
      (there → isHost k = true ∨ isPeer k = true → latches (.waitWordPoll q i)) ∧
      (¬ there → exec (.waitWordEval q i) s = .next s ∧ exec (.waitWordPoll q i) s = .next s)) ∧
    (∀ (m : DWord) (w : Word), reached (BitVec.ofNat 32 m.toNat) w = decide ((m.toNat % 2 ^ 32 + 2 ^ 32 - w.toNat) % 2 ^ 32 < 2 ^ 31)) ∧
    (∀ t, x.readyAt = some t → exec (.priorityAging q) s = .next (s.setQueue q { x with aged := (s.ioCyc - t) / (4096 * 16) })) ∧
    (x.readyAt = none → exec (.priorityAging q) s = .next s) ∧ effPrio x ≤ 7 ∧
    (∀ r t, x.head = some r → x.readyAt = some t → effPrio x = min 7 (min (rPrio r) (qf x 1 4 3) + x.aged))

/-- 04 R83, R87-R92, R111: grid dispatch takes the best candidate by priority, time of becoming ready and queue number; the grid's clusters are shared
out over the dies R91 names in consecutive runs that leave out none; RIDX advances. A die-gang grid is placed at once or not at all; a slice that
has waited 1 ms reserves its die; a pass runs on every die not held in reset; a placed block's scratch reads zero. Where the spec leaves a point
open this rests on the model's reading or choice in log entries 9, 12. -/
def Obligations.DispatchAndPlacement : Prop :=
  ∀ (s : State),
    (∀ q, let s1 := (tkeys s.queues).foldl (fun (s : State) q => s.ageQueue q) s
      let x := s1.queue q
      let r := x.head.getD []
      let src : Option Nat := if tget 12 x.srcDie (qRidx x).toNat = 12 then none else some (tget 12 x.srcDie (qRidx x).toNat)
      (s.grids.filter (·.2.active)).length < 1024 → s.ctxtbase.getLsbD 0 = true → candidate s1 = some q → ctxValid s1 (rCtx r) = true → x.ctl.length = 8 →
      (∀ p, queueOn s1 (s1.queue p) = true → (s1.queue p).readyAt ≠ none → ctxStopped s1 (rCtx ((s1.queue p).head.getD [])) = false →
        arbKey s1 q ≤ arbKey s1 p) ∧
      (chosenDies s1 r q src x.pdie = none → ∃ t : State, exec .gridDispatch s = .next t ∧ qf (t.queue q) 4 0 8 = 5 ∧ qHalted (t.queue q) = true ∧
        (t.queue q).ctl.getD 5 0 = qRidx x ∧ t.grids = s.grids) ∧
      (∀ ds, chosenDies s1 r q src x.pdie = some ds → (rGang r = true → ∀ z ∈ slicesOf r ds, z.stop - z.next ≤ capOf s1 r z.die) → ∃ t : State, exec .gridDispatch s = .next t ∧
        let g := t.grid (s.next + 1)
        g.active = true ∧ g.rcd = r ∧ g.q = q ∧ g.idx = qRidx x ∧ g.gang = rGang r ∧ g.toks = x.toks ∧ g.sentAt = s.ptime ∧ g.here = false ∧ g.left = clusCount r * clusSize r ∧ g.slices = slicesOf r ds ∧
        (t.queue q).head = none ∧ (t.queue q).last = some (s.next + 1) ∧ qRidx (t.queue q) = qRidx x + 1 ∧ t.cohorts = s.cohorts ∧
        (hostUp s = true → sysWord t (queueDesc s q + 24) = qRidx x + 1))) ∧
    (∀ n d, 0 < d → (rangeOf n d 0).1 = 0 ∧ (rangeOf n d (d - 1)).2 = n ∧
      ∀ j, (rangeOf n d j).2 = (rangeOf n d (j + 1)).1 ∧ n / d ≤ (rangeOf n d j).2 - (rangeOf n d j).1 ∧ (rangeOf n d j).2 - (rangeOf n d j).1 ≤ n / d + 1) ∧
    (∀ g, let x := s.grid g
      let whole := x.slices.foldl (fun (acc : Option State) y => acc.bind fun u => u.placeWhole (y.stop - y.next) g y.die) (some s)
      let waits := s.setGrid g { x with slices := x.slices.map fun y => { y with since := some (y.since.getD (s.timeOf y.die)) } }
      x.active = true → x.gang = true → x.here = true → ctxStopped s (rCtx x.rcd) = false →
      (∀ t, (∀ y ∈ x.slices, heldBack s g y.die = false) → whole = some t → exec (.dieGangPlace g) s = .next (t.setGrid g { t.grid g with gang := false })) ∧
      ((∃ y ∈ x.slices, heldBack s g y.die = true) ∨ whole = none → exec (.dieGangPlace g) s = .next waits)) ∧
    (∀ die g x, s.slice g die = some x →
      (∀ t, x.since = some t → 16000000 ≤ (s.timeOf die - t).toNat → exec (.sliceReserveDie die g) s = .next (s.setSlice g { x with reserved := true })) ∧
      (x.reserved = false → x.since = none ∨ (∃ t, x.since = some t ∧ (s.timeOf die - t).toNat < 16000000) → exec (.sliceReserveDie die g) s = .next s)) ∧
    (∀ die, die < 12 → exec (.placementPass die) s = .next (s.pass die) ∧
      ((s.die die).stopped = true → s.pass die = if (s.die die).passDue = true then s.setDie die { s.die die with passDue := false } else s)) ∧
    (∀ (b : BlkSpec) k among id t, s.placeBlk b k among = some (id, t) → 0 < b.w →
      let x := t.blk id
      x.used = true ∧ x.gid = b.gid ∧ x.ctx = b.ctx ∧ x.idx = b.idx ∧ x.die = b.die ∧ x.threads = b.threads ∧ x.entered = none ∧ x.bars = [] ∧
      x.done = [] ∧ id = s.next + 1 ∧ t.mem = s.mem ∧ t.grids = s.grids ∧ (∀ c ∈ x.cores, c ∈ among) ∧ (∀ c ∈ x.cids, (s.cohort c).kind = .vacant) ∧
      (∀ c, c ∉ x.cids → t.cohort c = s.cohort c) ∧ ∀ c ∈ x.cids, (t.cohort c).kind = b.kind ∧ (t.cohort c).blk = id ∧ (t.cohort c).ctx = b.ctx ∧ (t.cohort c).w = b.w) ∧
    (∀ g die cl k among j t y, s.placeBlocks g die cl k among [j] = some t → (t.blk (s.next + 1)).scratch = some y →
      ∀ i, i < y.len * 4096 → t.byte (scratchKey y.core (y.start * 4096) + i) = 0)

/-- 02 R25, R26, 05 R101, R103: the cohorts of a placed block enter with s1 = PARAM, s2 the block's linear index, s3 the cohort's index, s63 the scratch
base, v0 of each lane its thread index and every other register zero, at the record's entry header, one fragment of the lanes that hold a thread. -/
def Obligations.CohortEntryState : Prop :=
  ∀ (s : State) (b : Nat),
    let x := s.blk b
    let r := (s.grid x.gid).rcd
    x.used = true → x.kind = .grid → x.entered = none → x.cids.Nodup → (s.grid x.gid).toks = [] →
    (∀ c ∈ x.cids, (s.cohort c).sr = [] ∧ (s.cohort c).vr = [] ∧ (s.cohort c).pr = [] ∧ (s.cohort c).xr = [] ∧ (s.cohort c).jr = [] ∧ (s.cohort c).w ≤ 64) →
    ∃ t : State, exec (.cohortEntry b) s = .next t ∧ (t.blk b).entered = some (s.timeOf x.die) ∧
      (∀ c, c ∉ x.cids → t.cohort c = s.cohort c) ∧
      ∀ c ∈ x.cids,
        let old := s.cohort c
        let u := t.cohort c
        srd u 1 = r.getD 1 0 ∧ srd u 2 = dw x.idx ∧ srd u 3 = dw old.cidx ∧ srd u 63 = 0x10000 ∧
        (∀ n, n ≠ 1 → n ≠ 2 → n ≠ 3 → n ≠ 63 → srd u n = 0) ∧
        (∀ l, l < 64 → u.live.getLsbD l = decide (l < old.w ∧ old.cidx * old.w + l < x.threads)) ∧
        (∀ l, l < 64 → vrd u 0 l = if l < old.w then BitVec.ofNat 32 (old.cidx * old.w + l) else 0) ∧
        (∀ n l, l < 64 → n ≠ 0 → vrd u n l = 0) ∧ u.pr = [] ∧ u.xr = [] ∧ u.jr = [] ∧ u.waits = [] ∧ u.fslots = rSlots r ∧ u.ctab = rCtab r ∧
        ∃ e, u.ents = [e] ∧ e.mask = u.live ∧ e.hdr = dw (rf r 0 3 61 * 8) ∧ e.st = .header

/-- 04 R93-R95, 05 R104, R106, R113, R114: a block whose work has drained frees its space, which is refilled; a grid's completion store writes CSEQ and
nothing else, then sends the interrupt CIE asks for; a line cache size takes effect on an empty core; a quota entry's fields are kept; a register
block that is moved keeps every register. -/
def Obligations.RetirementAndSizes : Prop :=
  ∀ (s : State),
    (∀ b, let x := s.blk b
      x.used = true → x.kind = .grid → x.option ≠ 3 → x.entered ≠ none → cohortsEnded s b = true → blockDrained s b = true → redosHeld s b = false →
      (s.grid x.gid).active = true → ∃ t : State, exec (.blockRetire b) s = .next (t.refill x.gid x.die (freedCores x)) ∧ (t.blk b).used = false ∧
        (t.grid x.gid).left = (s.grid x.gid).left - 1 ∧ (t.grid x.gid).retAt = s.ptime ∧ t.mem = s.mem ∧ t.cohorts = s.cohorts) ∧
    (∀ g, let x := s.grid g
      let q := s.queue x.q
      let a := dw (rf x.rcd 2 3 61 * 8)
      x.active = true → x.left = 0 → 160 ≤ (s.ptime - x.retAt).toNat → (∀ r ∈ s.xdmas, r.gid ≠ g) → (∀ r ∈ s.copies, r.gid ≠ g) →
      (a = 0 → ∃ t : State, exec (.gridCompletionStore g) s = .next t ∧ (t.grid g).active = false ∧ t.mem = s.mem ∧ t.out = s.out) ∧
      (∀ k coh, a ≠ 0 → svcTr s (rCtx x.rcd) a .write = .ok k coh → unitDown s k = false → s.poisoned (lineOf k) = false → homeFree s (lineOf k) = true → k % 8 = 0 →
        portReady s k ((List.range 8).map fun i => (k + i, gridToks s x)) = true → (∀ r, .redo r ∈ deferred s (sliceOf (lineOf k)) → lineOf r.key ≠ lineOf k) →
        ∃ t : State, exec (.gridCompletionStore g) s = .next t ∧ (t.grid g).active = false ∧ t.word k = x.rcd.getD 3 0 ∧
          t.out = s.out ++ (if qf q 1 3 1 = 1 then [.msix (qVec q)] else []) ∧ ∀ j, j < k ∨ k + 8 ≤ j → t.byte j = s.byte j)) ∧
    (∀ die v, recovery s = false → die < 12 →
      let n := bits v 0 5
      (n = 0 ∨ 16 < n → exec (.lcbWrite die v) s = .next s) ∧
      (0 < n → n ≤ 16 → ∃ t : State, exec (.lcbWrite die v) s = .next t ∧ t.cores = s.cores ∧ t.mem = s.mem ∧ (∀ d, d ≠ die → t.die d = s.die d) ∧
        (t.die die).lcb.toNat = n ∧ (t.die die).cyc = (s.die die).cyc ∧
        ((t.die die).lcbPend = true ↔ ∃ c ∈ dieCores die, (s.core c).lcb ≠ n))) ∧
    (∀ core, let die := dieOfCore core
      die < 12 → (s.core core).lcb ≠ (s.die die).lcb.toNat → (s.core core).leases = [] →
      (∀ p ∈ s.blks, p.2.used = true → core ∉ p.2.cores) → (∀ l ∈ s.linesOf core, (s.lc core l).dirty = 0) →
      ∃ t : State, exec (.lcbApply core) s = .next (t.pass die) ∧ (t.core core).lcb = (s.die die).lcb.toNat ∧ t.mem = s.mem ∧
        ∀ l, l < 2 ^ 70 → t.lc core l = LcEnt.none) ∧
    (∀ die i v, recovery s = false → die < 12 → i < 256 → let d := s.die die
      exec (.quotaEntryWrite die i v) s = .next ((s.setDie die { d with dqent := tput 0 d.dqent i (v &&& 0xFFFF300000001FFF) }).pass die)) ∧
    (∀ cid run, let c := s.cohort cid
      let x := s.blk c.blk
      let die := dieOf cid
      let core := coreOf cid
      let old := x.regs.getD c.cidx ⟨0, 0, 0⟩
      let cleared := s.setBlk c.blk { x with regs := x.regs.set c.cidx ⟨core, 0, 0⟩ }
      let moved := s.setBlk c.blk { x with regs := x.regs.set c.cidx ⟨core, run, old.len⟩ }
      c.kind ≠ .vacant → mayRelocate s cid = true → relOf s die c.ctx = true → curesStall s die = false → run + old.len ≤ allocatable (s.core core).lcb →
      run % 64 + old.len ≤ 64 → runFree (coreOcc cleared core none) run old.len = true → curesStall moved die = true →
      ∃ t : State, exec (.registerBlockRelocate cid run) s = .next t ∧ t.cohorts = s.cohorts ∧ t.blks = moved.blks ∧ t.mem = s.mem ∧
        (t.die die).relocs = if (s.die die).relocs = 0xFFFFFFFF then 0xFFFFFFFF else (s.die die).relocs + 1)

/-- 05 R105, 22 R437, R440-R442: a dwell starts once and ends after DWELL with RUN = 0; a sample updates LAST, MAX, MIN and its bin as one and makes an
event on a rising crossing of THR; a read of MONVAL sets MAX and MIN to LAST, a read of a HIST word, of DSTAT and of BMRES clears what it counts;
any other read changes nothing. 00 R4, 04 R79, 13 R269, 15 R303, 20 R400, R414, 21 R431, R432, 22 R436, R444: the host's writes of the registers of
BAR 0 that have no step of their own: each keeps its RW fields, ignores the values its field map ignores, and leaves memory; in recovery FWCMD alone
is there, and nothing is written through a port whose link is down. Where the spec leaves a point open this rests on the model's reading or choice
in log entry 73. -/
def Obligations.MonitorsAndRegisters : Prop :=
  (∀ (s : State),
    (∀ b v, recovery s = false → b < 20 → v.getLsbD 63 = true →
      ((s.bridge b).ctl.getLsbD 63 = true → exec (.marginDwellStart b v) s = .next s) ∧
      ((s.bridge b).ctl.getLsbD 63 = false → ∃ t : State, exec (.marginDwellStart b v) s = .next t ∧ t = s.setBridge b (t.bridge b) ∧
        let x := t.bridge b
        x.ctl.getLsbD 63 = true ∧ bits x.ctl 32 10 = min 527 (bits v 32 10) ∧ bits x.ctl 0 24 = bits v 0 24 ∧ x.ctl.getLsbD 62 = v.getLsbD 62 ∧
        x.dwellAt = s.ptime ∧ x.res = (s.bridge b).res)) ∧
    (∀ b, let x := s.bridge b
      let ended : Prop := x.ctl.getLsbD 63 = true ∧ max 1 (bits x.ctl 0 8) * 10 * 16000 ≤ (s.ptime - x.dwellAt).toNat
      (¬ ended → exec (.marginDwellEnd b) s = .next s) ∧
      (ended → ∃ t : State, exec (.marginDwellEnd b) s = .next t ∧ (t.bridge b).ctl.getLsbD 63 = false ∧ bits (t.bridge b).ctl 0 63 = bits x.ctl 0 63 ∧
        bits (t.bridge b).res 32 32 = bits x.res 32 32 ∧ t.mem = s.mem)) ∧
    (∀ b, recovery s = false → b < 20 → ∃ t : State, exec (.bmresRead b) s = .next t ∧ t.out = s.out ++ [.reg (s.bridge b).res] ∧
      bits (t.bridge b).res 32 32 = 0 ∧ bits (t.bridge b).res 0 32 = bits (s.bridge b).res 0 32) ∧
    (∀ ch v, let x := s.mon ch
      ch < 112 → x.ctl.getLsbD 0 = true → bits x.ctl 4 12 * 16000 ≤ (s.ptime - x.sampleAt).toNat →
      ∃ t : State, exec (.monitorSample ch v) s = .next t ∧
        let w := (t.mon ch).last
        let y := t.mon ch
        let base : BitVec 16 := x.ctl.extractLsb' 32 16
        let thr : BitVec 16 := x.ctl.extractLsb' 48 16
        (ch % 8 < 4 → ch / 8 < 12 → w = v) ∧ (ch % 8 = 4 → ch / 8 < 12 → w = (s.die (ch / 8)).fcur) ∧ (5 ≤ ch % 8 → w = 0) ∧
        y.max.toInt = max x.max.toInt w.toInt ∧ y.min.toInt = min x.min.toInt w.toInt ∧ y.sampleAt = s.ptime ∧ y.ctl = x.ctl ∧
        (∀ i : Nat, i < 16 →
          let here : Prop := (w.toInt < base.toInt + (i + 1) * 2 ^ bits x.ctl 28 4 ∨ i = 15) ∧ (base.toInt + i * 2 ^ bits x.ctl 28 4 ≤ w.toInt ∨ i = 0)
          (here → (tget 0 y.bins i).toNat = min 0xFFFFFFFF ((tget 0 x.bins i).toNat + 1)) ∧ (¬ here → tget 0 y.bins i = tget 0 x.bins i)) ∧
        (x.ctl.getLsbD 2 = true → 4 ≤ bits s.evring 0 5 → bits s.evring 0 5 ≤ 16 → thr.toInt < w.toInt → x.last.toInt ≤ thr.toInt → t.evseq = s.evseq + 1) ∧
        (x.ctl.getLsbD 2 = false ∨ w.toInt ≤ thr.toInt ∨ thr.toInt < x.last.toInt → t.evseq = s.evseq ∧ t.mem = s.mem)) ∧
    (∀ ch, recovery s = false → ch < 112 → let x := s.mon ch
      (∃ t : State, exec (.monvalRead ch) s = .next t ∧ t.out = s.out ++ [.reg (x.max ++ x.min ++ x.last ++ (0 : BitVec 16))] ∧
        t.mon ch = { x with max := x.last, min := x.last }) ∧
      ∀ i, i < 16 → ∃ t : State, exec (.histRead ch i) s = .next t ∧ t.out = s.out ++ [.reg ((tget 0 x.bins i).zeroExtend 64)] ∧
        tget 0 (t.mon ch).bins i = 0 ∧ ∀ j, j ≠ i → tget 0 (t.mon ch).bins j = tget 0 x.bins j) ∧
    (∀ io off, io < 2 → portUp s io = true → recovery s = false → s.hostRead io off = s.emit (.reg (bar0Reg s io off))) ∧
    (∀ die, recovery s = false → die < 12 → let d := s.die die
      ∃ t : State, exec (.dstatRead die) s = .next t ∧ t.out = s.out ++ [.reg (d.fstalls ++ d.relocs)] ∧ t.die die = { d with fstalls := 0, relocs := 0 })) ∧
  (∀ (s : State) (io : Nat) (v : DWord),
    let w (off : Nat) : Host.Outcome State Fault Refusal := exec (.registerWrite io off v) s
    (portUp s io = false → ∀ off, w off = .next s) ∧
    (portUp s io = true → recovery s = true → ∀ off, off ≠ 2 ^ 24 → off ≠ 0x1508 → w off = .next s) ∧
    (portUp s io = true → recovery s = false →
      w 0x1000 = .next { s with qtbase := v &&& 0xFFFFFFFFFFFF0001 } ∧ bar0Reg { s with qtbase := v &&& 0xFFFFFFFFFFFF0001 } io 0x1000 = v &&& 0xFFFFFFFFFFFF0001 ∧
      w 0x1100 = .next (if 64 < bits v 0 7 then s else { s with pmap := v.extractLsb' 0 7 }) ∧
      w 0x1200 = .next { s with ctxtbase := v &&& 0xFFFFFFFFFFC00001 } ∧
      w 0x1C00 = .next { s with evring := v &&& 0xFFFFFFFFFFFFF01F } ∧
      (∃ t : State, w 0x1C08 = .next t ∧ t = { s with evidx := t.evidx } ∧ bits t.evidx 32 32 = bits v 32 32 ∧ bits t.evidx 0 32 = bits s.evidx 0 32) ∧
      (io = 0 → w 0x1300 = .next { s with mcring := v &&& 0xFFFFFFFFFFFFF01F } ∧
        (∃ t : State, w 0x1308 = .next t ∧ t = { s with mcidx := t.mcidx } ∧ bits t.mcidx 32 32 = bits v 32 32 ∧ bits t.mcidx 0 32 = bits s.mcidx 0 32)) ∧
      (∀ n, n < 64 →
        w (0x4000 + 16 * n) = .next { s with peers := tput 0 s.peers (2 * n) (v &&& 0x8007FFFFFFFFFFFF) } ∧
        w (0x4000 + 16 * n + 8) = .next { s with peers := tput 0 s.peers (2 * n + 1) (v &&& 0xFFFF000000000001) }) ∧
      (∀ die, io = 0 → die < 12 →
        let d := s.die die
        let win := 0x100000 + 4096 * die
        let hi := bits v 16 16
        let lo := bits v 0 16
        let ofs := (v.extractLsb' 0 8).toInt
        (lo < 800 ∨ hi < lo ∨ 1900 < hi → ∃ t : State, w (win + 0x020) = .next t ∧ t.die die = d ∧ t.mem = s.mem) ∧
        (800 ≤ lo → lo ≤ hi → hi ≤ 1900 → ∃ t : State, w (win + 0x020) = .next t ∧ (t.die die).fmax.toNat = hi ∧ (t.die die).fmin.toNat = lo ∧
          (t.die die).fcur.toNat = max lo (min hi d.fcur.toNat) ∧ (t.die die).cyc = d.cyc ∧ (t.die die).time = d.time ∧ t.mem = s.mem) ∧
        (ofs < -20 ∨ 20 < ofs → w (win + 0x040) = .next s) ∧
        (-20 ≤ ofs → ofs ≤ 20 → w (win + 0x040) = .next (s.setDie die { d with vmOfs := ofs })) ∧
        w (win + 0x050) = .next (s.setDie die { d with acctBase := v &&& 0xFFFFFFFFFF800001 })) ∧
      (∀ ch, io = 0 → ch < 112 → ∃ t : State, w (0x300000 + 128 * ch) = .next t ∧ t.mem = s.mem ∧
        let c := (t.mon ch).ctl
        bits c 28 36 = bits v 28 36 ∧ c.getLsbD 2 = v.getLsbD 2 ∧ c.getLsbD 0 = v.getLsbD 0 ∧ bits c 16 12 = 0 ∧ c.getLsbD 3 = false ∧ c.getLsbD 1 = false ∧
        bits c 4 12 = (if bits v 4 12 = 0 then bits (s.mon ch).ctl 4 12 else bits v 4 12) ∧ (t.mon ch).bins = (s.mon ch).bins ∧
        (t.mon ch).last = (s.mon ch).last)))

/-- 15 R312, R314, 21 R421-R428: a flit delivered leaves the state, one with corrected symbols counts them, one whose payload is lost makes a record and
poisons the data it carries, one whose headers are lost or a bridge that does not train is package-fatal; a port goes down and trains again with its
protocol; a completion delivers a host line, as poison where it failed; the host's and a peer's accesses act on the interleaved space at the lines'
homes, a peer without IN is refused; a frame is sent again 10 µs after it was sent, at most 8 times; a message of external time is stamped with
TIME, and of the port that serves changes TERR and the slew. Where the spec leaves a point open this rests on the model's reading or choice in log
entries 80, 87. -/
def Obligations.BridgesAndHost : Prop :=
  ∀ (s : State),
    (∀ b k m d, b < 20 → s.net[k]? = some m → receiver s m b = some d →
      exec (.bridgeFlitReceive b k .good) s = .next s ∧
      (∀ n, 0 < n → n ≤ 12 → ∃ t : State, exec (.bridgeFlitReceive b k (.corrected n)) s = .next t ∧ t.fatal = s.fatal ∧ t.cohorts = s.cohorts ∧
        bits (t.bridge b).res 32 32 = min 0xFFFFFFFF (bits (s.bridge b).res 32 32 + n) ∧ bits t.mcidx 0 32 = (bits s.mcidx 0 32 + 1) % 2 ^ 32) ∧
      (∀ c l x p, m = .data c l x p → ∃ t : State, exec (.bridgeFlitReceive b k .payloadLost) s = .next t ∧ t.net[k]? = some (.data c l x { p with pois := true }) ∧ t.fatal = s.fatal ∧
        bits t.mcidx 0 32 = (bits s.mcidx 0 32 + 1) % 2 ^ 32) ∧
      (∃ t : State, exec (.bridgeFlitReceive b k .headersLost) s = .next t ∧ t.fatal = true ∧ t.cohorts = s.cohorts)) ∧
    (∀ b, b < 20 → ∃ t : State, exec (.linkTrainingLost b) s = .next t ∧ t.fatal = true ∧ t.cohorts = s.cohorts) ∧
    (∀ io, io < 2 → portUp s io = true → ∃ t : State, exec (.hostLinkDown io) s = .next t ∧ t = { s with links := t.links } ∧ portUp t io = false ∧
      (∀ j, j ≠ io → portUp t j = portUp s j) ∧ ∀ cxl, ∃ u : State, exec (.hostLinkUp io cxl) t = .next u ∧ tget 0 u.links io = tget 0 s.links io) ∧
    (∀ io cxl, io < 2 → portUp s io = false → ∃ t : State, exec (.hostLinkUp io cxl) s = .next t ∧ t = { s with links := t.links } ∧ portUp t io = true) ∧
    (∀ k core line alloc, s.net[k]? = some (.rd core line alloc) → mayArrive s k (.rd core line alloc) = true →
      let gives (ev : Instr) (p : Bool) : Prop := ∃ t : State, exec ev s = .next t ∧ t.net = s.net.eraseIdx k ++ [.data core line (s.lineData line) ⟨p, lineToks s line⟩] ∧ t.mem = s.mem
      (isHost (line * 128) = true → hostUp s = true → gives (.hostCompletion k true) (s.poisoned line)) ∧
      (isHost (line * 128) = true → gives (.hostCompletion k false) true) ∧
      (isPeer (line * 128) = true → gives (.peerResponse k true) (s.poisoned line) ∧ gives (.peerResponse k false) true) ∧
      (isPeer (line * 128) = true →
        let n := ((s.tries.find? (·.1 == .rd core line alloc)).map (·.2)).getD 0
        let due := 160000 ≤ (s.ptime - s.sentAt.getD k 0).toNat
        (¬ due → exec (.peerRetransmit k) s = .next s) ∧
        (due → n < 8 → ∃ t : State, exec (.peerRetransmit k) s = .next t ∧ t.net = s.net ∧ (.rd core line alloc, n + 1) ∈ t.tries ∧
          t.sentAt = s.sentAt.set k s.ptime) ∧
        (due → 8 ≤ n → gives (.peerRetransmit k) true))) ∧
    (∀ io off (bs : List Byte), recovery s = false → portUp s io = true → off + bs.length ≤ ilvSize s → off % 128 + bs.length ≤ 128 → bs ≠ [] →
      let key := ilvKey s off
      homeFree s (lineOf key) = true → (∀ r, .redo r ∈ deferred s (sliceOf (lineOf key)) → lineOf r.key ≠ lineOf key) →
      ∃ t : State, exec (.hostInboundAccess io off (some bs) 0) s = .next t ∧ t.bytes key bs.length = bs ∧
        ∀ j, j < key ∨ key + bs.length ≤ j → t.byte j = s.byte j) ∧
    (∀ io off n, recovery s = false → portUp s io = true → off + n ≤ ilvSize s → (∀ l ∈ ilvLines s off n, (s.dirEnt l).clm = []) →
      exec (.hostInboundAccess io off none n) s = .next (s.emit (.read io (ilvRead s off n) (!((ilvLines s off n).any s.poisoned))))) ∧
    (∀ p off req, p < 64 → recovery s = false → (peerWord s p 1).getLsbD 0 = false → exec (.peerRequest p off req) s = .next (s.emit (.peer p [] 0 false))) ∧
    (∀ p off, p < 64 → recovery s = false → (peerWord s p 1).getLsbD 0 = true →
      let key := ilvKey s off
      let none' : Prop := ∀ r, .redo r ∈ deferred s (sliceOf (lineOf key)) → lineOf r.key ≠ lineOf key
      (∀ n, off + n ≤ ilvSize s → (∀ l ∈ ilvLines s off n, (s.dirEnt l).clm = []) →
        exec (.peerRequest p off (.read n)) s = .next (s.emit (.peer p (ilvRead s off n) 0 (!((ilvLines s off n).any s.poisoned))))) ∧
      (∀ bs : List Byte, off + bs.length ≤ ilvSize s → off % 128 + bs.length ≤ 128 → bs ≠ [] → homeFree s (lineOf key) = true → none' →
        ∃ t : State, exec (.peerRequest p off (.write bs)) s = .next t ∧ t.bytes key bs.length = bs ∧ t.out = s.out ++ [.peer p [] 0 true] ∧
          ∀ j, j < key ∨ key + bs.length ≤ j → t.byte j = s.byte j) ∧
      (∀ fn z d c m new fl, z ∈ [4, 8, 16] → off % z = 0 → off + z ≤ ilvSize s → homeFree s (lineOf key) = true → s.poisoned (lineOf key) = false → none' →
        atomStep fn z (leNat (s.bytes key z)) d.toNat c.toNat m.toNat = (some new, fl) →
        ∃ t : State, exec (.peerRequest p off (.atom fn z d c m)) s = .next t ∧ t.bytes key z = leBytes z new ∧
          t.out = s.out ++ [.peer p (s.bytes key z) fl true] ∧ ∀ j, j < key ∨ key + z ≤ j → t.byte j = s.byte j)) ∧
    (∀ port lock bound slew, port < 8 → slew.natAbs ≤ 2 ^ 20 → ∃ t : State, exec (.ptpEventMessage port lock bound slew) s = .next t ∧
      let served : Prop := t.slew = slew ∧ t.terr.getLsbD 63 = lock ∧ bits t.terr 32 4 = port ∧
        bits t.terr 0 32 = if lock = true ∧ 64 ≤ bound.toNat then bound.toNat else 0xFFFFFFFF
      t = { s with slew := t.slew, terr := t.terr, ptpStamp := t.ptpStamp, free := t.free } ∧ tget 0 t.ptpStamp port = s.ptime ∧
      (port = bits s.terr 32 4 → served) ∧ (served ∨ (t.slew = s.slew ∧ t.terr = s.terr)))

/-- 21 R432: the firmware commands: a staged image is verified in two steps, STATE 3 between, and kept where both signatures and its SVN pass; a commit
writes it to the slot, STATE 4 between; MINSVN rises only to the SVN of a verified staged image; a command during another is ignored. 21 R433, R434:
on a port whose link is up, with the firmware running, each SPDM request is answered: digests, certificates of two slots, signed challenges and
measurements, with the signature of the other kind on a vendor-defined request that follows; at most four sessions a port, each complete once FINISH
carries the right HMAC, and what is asked inside one refused where it is not; at most four IDE streams a port; PSK_EXCHANGE is refused. Where the
spec leaves a point open this rests on the model's reading or choice in log entries 71, 72. -/
def Obligations.FirmwareAndSessions : Prop :=
  (∀ (s : State) (v : DWord),
    let f := s.fw
    (f.state ≠ 3 → f.state ≠ 4 →
      (bits v 0 2 = 1 → ∃ t : State, exec (.fwStageVerify v) s = .next t ∧ t.fw = { f with cmd := t.fw.cmd, state := 3 } ∧ bits t.fw.cmd 12 52 = bits v 12 52 ∧
        t.mem = s.mem) ∧
      (bits v 0 2 = 2 → ∀ ok, ∃ t : State, exec (.fwCommit v ok) s = .next t ∧ t.fw = { f with cmd := t.fw.cmd, state := if f.staged = none then f.state else 4 }) ∧
      (bits v 0 2 = 3 → f.staged = none → exec (.fwRaiseMinsvn v) s = .next s) ∧
      (bits v 0 2 = 3 → ∀ img, f.staged = some img → ∃ t : State, exec (.fwRaiseMinsvn v) s = .next t ∧ t.fw = { f with cmd := t.fw.cmd, minSvn := Config.imageSvn img })) ∧
    (f.state = 3 →
      let rest : BitVec 4 := if recovery s then 2 else 1
      (exec (.fwStageVerify v) s = .next { s with fw := match stagedImage s (bits f.cmd 12 52 * 4096) with
        | .error e => { f with state := rest, err := BitVec.ofNat 8 e, staged := none }
        | .ok img =>
          if Config.imageErr img = 0 ∧ f.minSvn.toNat ≤ (Config.imageSvn img).toNat then { f with state := rest, err := 0, staged := some img }
          else { f with state := rest, err := if Config.imageErr img = 0 then 3 else BitVec.ofNat 8 (Config.imageErr img), staged := none } }) ∧
      exec (.fwRaiseMinsvn v) s = .next s ∧ ∀ ok, exec (.fwCommit v ok) s = .next s) ∧
    (f.state = 4 →
      let rest : BitVec 4 := if recovery s then 2 else 1
      exec (.fwCommit v true) s = .next { s with fw := { f with state := rest, err := 0, slot := f.staged } } ∧
      (∃ t : State, exec (.fwCommit v false) s = .next t ∧ t.fw = { f with state := rest, err := 6, slot := t.fw.slot } ∧ (t.fw.slot = f.slot ∨ t.fw.slot = none)) ∧
      exec (.fwStageVerify v) s = .next s ∧ exec (.fwRaiseMinsvn v) s = .next s)) ∧
  (∀ (s : State) (io : Nat), portUp s io = true → recovery s = false →
    let answers (i : Instr) (t : State) (code : Nat) (p : List Nat) : Prop := exec i s = .next (t.emit (.spdm io code p))
    let same (t : State) : Prop := t.mem = s.mem ∧ t.cohorts = s.cohorts ∧ t.grids = s.grids
    (∃ p, answers (.getDigests io) s 0x01 p) ∧
    (∀ slot off len, (slot < 2 → ∃ p, answers (.getCertificate io slot off len) s 0x02 p) ∧ (2 ≤ slot → answers (.getCertificate io slot off len) s 0x7F [1])) ∧
    (∀ slot nonce, (slot < 2 → ∃ (t : State) (p : List Nat), exec (.challenge io slot nonce) s = .next t ∧ t.out = s.out ++ [.spdm io 0x03 p] ∧ same t ∧
        tget [] t.signed io = [0x03, slot, nonce.toNat]) ∧
      (2 ≤ slot → answers (.challenge io slot nonce) s 0x7F [1])) ∧
    (∀ idx nonce, (idx ≤ 3 ∨ idx = 255 → (∃ p, answers (.getMeasurements io idx false nonce) s 0x60 p) ∧
        ∃ (t : State) (p : List Nat), exec (.getMeasurements io idx true nonce) s = .next t ∧ t.out = s.out ++ [.spdm io 0x60 p] ∧ tget [] t.signed io ≠ [] ∧ same t) ∧
      (3 < idx → idx ≠ 255 → ∀ sg, answers (.getMeasurements io idx sg nonce) s 0x7F [1])) ∧
    (tget [] s.signed io = [] → answers (.vendorDefinedRequest io) s 0x7F [4]) ∧
    (tget [] s.signed io ≠ [] → ∃ (t : State) (p : List Nat), exec (.vendorDefinedRequest io) s = .next t ∧ t.out = s.out ++ [.spdm io 0x7E p] ∧
      tget [] t.signed io = [] ∧ same t) ∧
    (∀ slot data, slot < 2 →
      (4 ≤ (s.sess.filter (·.io == io)).length → answers (.keyExchange io slot data) s 0x7F [10]) ∧
      ((s.sess.filter (·.io == io)).length < 4 → ∃ (t : State) (p : List Nat) (x : Sess), exec (.keyExchange io slot data) s = .next t ∧
        t.out = s.out ++ [.spdm io 0x64 p] ∧ t.sess = s.sess ++ [x] ∧ x.io = io ∧ x.id = s.next ∧ x.up = false ∧ same t)) ∧
    (∀ id mac x, sessOf s io id = some x → x.up = false →
      ∃ (t : State) (p : List Nat), exec (.finish io id mac) s = .next t ∧ same t ∧
        if Config.macOk x.trans mac = true then t.out = s.out ++ [.spdm io 0x65 p] ∧ ∀ y ∈ t.sess, y.io = io → y.id = id → y.up = true
        else t.out = s.out ++ [.spdm io 0x7F [6]] ∧ sessOf t io id = none) ∧
    (∀ id, upSess s io id = none → ∀ st all, answers (.keyUpdate io id all) s 0x7F [1] ∧ answers (.heartbeat io id) s 0x7F [1] ∧ answers (.endSession io id) s 0x7F [1] ∧
      answers (.ideKmQuery io id) s 0x7F [1] ∧ answers (.kSetGo io id st) s 0x7F [1] ∧ answers (.kSetStop io id st) s 0x7F [1] ∧ ∀ key, answers (.keyProg io (some id) st key) s 0x7F [1]) ∧
    (∀ id x, upSess s io id = some x →
      (∀ all, ∃ (t : State) (p : List Nat), exec (.keyUpdate io id all) s = .next t ∧ t.out = s.out ++ [.spdm io 0x69 p] ∧ same t ∧
        { x with reqKeys := x.reqKeys + 1, rspKeys := if all then x.rspKeys + 1 else x.rspKeys } ∈ t.sess) ∧
      (∃ p, answers (.heartbeat io id) s 0x68 p) ∧
      (∃ (t : State) (p : List Nat), exec (.endSession io id) s = .next t ∧ t.out = s.out ++ [.spdm io 0x6C p] ∧ sessOf t io id = none ∧ same t) ∧
      (∃ p, answers (.ideKmQuery io id) s 0x101 p) ∧
      (∀ st key, (ideKey s io st = none → 4 ≤ (ideOf s io).length → answers (.keyProg io (some id) st key) s 0x103 [1]) ∧
        (ideKey s io st ≠ none ∨ (ideOf s io).length < 4 → ∃ t : State, exec (.keyProg io (some id) st key) s = .next t ∧ t.out = s.out ++ [.spdm io 0x103 [0]] ∧
          ideKey t io st = some ⟨io, st, key, false⟩ ∧ (∀ j, j ≠ st → ideKey t io j = ideKey s io j) ∧ same t)) ∧
      (∀ st, (ideKey s io st = none → answers (.kSetGo io id st) s 0x106 [1] ∧ answers (.kSetStop io id st) s 0x106 [1]) ∧
        (∀ k, ideKey s io st = some k →
          (∃ t : State, exec (.kSetGo io id st) s = .next t ∧ ideKey t io st = some { k with active := true } ∧ t.out = s.out ++ [.spdm io 0x106 [0]] ∧ same t) ∧
          (∃ t : State, exec (.kSetStop io id st) s = .next t ∧ ideKey t io st = some { k with active := false } ∧ t.out = s.out ++ [.spdm io 0x106 [0]] ∧ same t)))) ∧
    (∀ st key, answers (.keyProg io none st key) s 0x103 [1]) ∧
    answers (.pskExchange io) s 0x7F [7])

/-- 03 R69, 05 R104, R105, 08 R181, 12, 13 R276, R277, 15 R303, R305, R314, 16 R330, 19 R398, 20 R402-R404, R409, R414, R418, 22 R436, R437, R440, R442,
R444: the reset values that the field maps of the spec give. -/
def Obligations.ResetValuesOfTheSpec : Prop :=
  let s := State.reset
  (∀ d, (s.die d).fcur.toNat = 1750 ∧ (s.die d).fmax.toNat = 1900 ∧ (s.die d).fmin.toNat = 800 ∧ (s.die d).lcb.toNat = 4 ∧ (s.die d).lcbPend = false ∧
    (s.die d).fstalls = 0 ∧ (s.die d).relocs = 0 ∧ (s.die d).cyc = 0 ∧ (s.die d).mcCtx = 0 ∧ (s.die d).mcSize = 0 ∧ (s.die d).mcPend = false ∧
    (s.die d).vmOfs = 0 ∧ (s.die d).vmAct = 0 ∧ (s.die d).acctBase = 0 ∧ (∀ i, tget 0 (s.die d).dqent i = 0) ∧ (s.die d).rstCount = 0) ∧
  (∀ k, (s.core k).cap = 0x40 ∧ (s.core k).rate = 0x100 ∧ (s.core k).leasecfg = 4) ∧
  (∀ c, let x := s.ctx c
    x.traphdr = 0 ∧ x.tskfmt = 0 ∧ bits x.wdogcfg 16 16 = 50 ∧ x.wdogcfg.getLsbD 0 = true ∧ bits x.wdogcfg 1 15 = 0 ∧ x.wdogxw = 0 ∧ x.acctmode = 0 ∧
    ∀ d, tget 0 x.fred d = 0) ∧
  (∀ c, let x := s.cohort c
    x.fstat = 0 ∧ x.fmode = 0x20 ∧ x.tcause = 0 ∧ x.tinfo = 0 ∧ x.tpc = 0 ∧ x.sav0 = 0 ∧ x.sav1 = 0) ∧
  (∀ ch, (s.mon ch).ctl = 0x7FFF000000000010 ∧ (s.mon ch).max = 0x8000 ∧ (s.mon ch).min = 0x7FFF ∧ (s.mon ch).last = 0 ∧ ∀ i, tget 0 (s.mon ch).bins i = 0) ∧
  (∀ b, (s.bridge b).ctl = 0 ∧ (s.bridge b).res = 0) ∧
  s.qtbase = 0 ∧ s.pmap = 0 ∧ s.tinv = 0 ∧ s.ctxtbase = 0 ∧ s.ctxcmd = 0 ∧ s.mcring = 0 ∧ s.mcidx = 0 ∧ s.evring = 0 ∧ s.evidx = 0 ∧
  s.terr = 0xFFFFFFFF ∧ (∀ i, peerWord s i 0 = 0 ∧ peerWord s i 1 = 0)

/-- The model's own choices at reset, where the spec gives no value (notes/assumptions): every memory byte reads 0, every register of an empty cohort
slot is 0 but p0, TIME stands at 0, nothing is resident, no message is in flight, both ports of the host are up with PCI Express, and the firmware
runs. The memory after reset is in its canonical form, of which `StepKeepsMemoryCanonical` says that every step keeps it. Where the spec leaves a
point open this rests on the model's reading or choice in log entries 2, 3, 16, 24. -/
def Obligations.ResetStateOfTheModel : Prop :=
  (let s := State.reset
  s.powered = true ∧ s.fatal = false ∧ s.ptime = 0 ∧ s.net = [] ∧ s.sched = [] ∧ s.copies = [] ∧ s.xdmas = [] ∧ s.saved = [] ∧
  portUp s 0 = true ∧ portUp s 1 = true ∧ recovery s = false ∧ (∀ k, s.byte k = 0) ∧ (∀ l, s.poisoned l = false) ∧
  (∀ c, (s.cohort c).kind = .vacant ∧ (∀ n, srd (s.cohort c) n = 0) ∧ (∀ n l, vrd (s.cohort c) n l = 0) ∧
    (∀ n l, prd (s.cohort c) n l = decide (n = 0))) ∧
  (∀ b, (s.blk b).used = false) ∧ (∀ g, (s.grid g).active = false) ∧ ∀ core line, s.lc core line = LcEnt.none) ∧
  (memWf State.reset = true)

/-- The canonical form of memory (addresses rising, no byte listed that reads as an unlisted one does) is kept by every step of every agent, from every
state. Memory in canonical form is decided by what its bytes read as: equal memories are equal data. -/
def Obligations.StepKeepsMemoryCanonical : Prop :=
  ((∀ s t, memWf s = true → step s = .next t → memWf t = true) ∧
  (∀ i s t, memWf s = true → exec i s = .next t → memWf t = true)) ∧
  (∀ s t : State, memWf s = true → memWf t = true → (∀ k, s.byte k = t.byte k) → s.mem = t.mem)
end

