-- ==== Sys2Proof/Laws/Canon.lean ====
section
/-! SUPPORT. Every memory operation keeps the canonical form of memory, and the memory after reset has it. -/
namespace Sys2Proof.Laws
open Sys2Proof Sys2Proof.Machine Sys2Proof.Safety

theorem reset_memWf : memWf State.reset = true := rfl

/-- An operation that leaves memory keeps its form. -/
theorem memWf_of_mem {s t : State} (h : t.mem = s.mem) (hs : memWf s = true) : memWf t = true := by
  unfold memWf at *; rw [h]; exact hs

/-- A memory from which bytes are removed keeps its form. -/
theorem memWf_of_filter {s t : State} (p : Host.Cell → Bool) (h : t.mem = s.mem.filter p) (hs : memWf s = true) : memWf t = true := by
  unfold memWf at *; rw [h]; exact twf_filter 0 s.mem p hs

theorem memWf_foldl {α : Type} (f : State → α → State) (h : ∀ s a, memWf s = true → memWf (f s a) = true) (l : List α) {s : State}
    (hs : memWf s = true) : memWf (l.foldl f s) = true :=
  foldl_keeps (fun s => memWf s = true) f h l s hs

theorem setByte_memWf {s : State} (k : Nat) (b : Byte) (h : memWf s = true) : memWf (s.setByte k b) = true := twf_setByte k b h
theorem setBytes_memWf {s : State} (k : Nat) (l : List Byte) (h : memWf s = true) : memWf (s.setBytes k l) = true := twf_setBytes k l h

theorem putToks_mem (s : State) (l : Toks) : (s.putToks l).mem = s.mem := rfl

theorem merge_memWf {s : State} (line : Nat) (m : LineMask) (d : LineData) (pois : Bool) (toks : Toks) (h : memWf s = true) :
    memWf (s.merge line m d pois toks) = true := by
  unfold State.merge
  have h1 := memWf_foldl (fun s i => s.setByte (line * 128 + i) (lineByte d i)) (fun s a hs => setByte_memWf _ _ hs) (maskBytes m) h
  simp only []
  split
  · exact h1
  · split <;> exact h1

/-! The levels of a home hold no bytes of their own. -/

theorem raiseTier_mem (s : State) (line t : Nat) : (s.raiseTier line t).mem = s.mem := by
  unfold State.raiseTier
  simp only []
  split
  · split <;> rfl
  · rfl

theorem setSram_mem (s : State) (i : Nat) (l : List (Nat × Bool)) : (s.setSram i l).mem = s.mem := rfl
theorem setMsc_mem (s : State) (d : Nat) (l : List (Nat × Bool)) : (s.setMsc d l).mem = s.mem := rfl
theorem setTier_mem (s : State) (d h t : Nat) : (s.setTier d h t).mem = s.mem := rfl

theorem dropFromSram_mem (s : State) (d : Nat) (p : Nat → Bool) : (s.dropFromSram d p).mem = s.mem := by
  unfold State.dropFromSram
  apply foldl_same State.mem
  intro s i
  simp only []
  split
  · exact setSram_mem _ _ _
  · rfl

theorem putMsc_mem (s : State) (line : Nat) (dirty : Bool) : (s.putMsc line dirty).mem = s.mem := by
  unfold State.putMsc
  simp only []
  split
  · exact setMsc_mem _ _ _
  · split
    · rw [raiseTier_mem, setMsc_mem]
    · split
      · rfl
      · rw [raiseTier_mem, setMsc_mem, setMsc_mem]
      · rw [raiseTier_mem, setMsc_mem, setTier_mem, dropFromSram_mem, setMsc_mem]

theorem putSram_mem (s : State) (line : Nat) (dirty : Bool) : (s.putSram line dirty).mem = s.mem := by
  unfold State.putSram
  simp only []
  split
  · exact setSram_mem _ _ _
  · split
    · rfl
    · split
      · rw [raiseTier_mem, setSram_mem]
      · split
        · rfl
        · rw [raiseTier_mem, setSram_mem]
          split
          · rw [putMsc_mem, setSram_mem]
          · exact setSram_mem _ _ _
        · rw [raiseTier_mem, setSram_mem, foldl_same State.mem (fun (t : State) (v : Nat × Bool) => t.putMsc v.1 v.2)
            (fun t v => putMsc_mem t v.1 v.2), setTier_mem, dropFromSram_mem]

theorem useLine_mem (s : State) (line : Nat) (write : Bool) : (s.useLine line write).mem = s.mem := by
  have h : ((s.putMsc line false).putSram line false).mem = s.mem := (putSram_mem _ _ _).trans (putMsc_mem _ _ _)
  unfold State.useLine
  simp only []
  split
  · rfl
  · split
    · exact h
    · split
      · rw [setSram_mem, h]
      · split
        · rw [setMsc_mem, h]
        · exact h

theorem dirtySram_mem (s : State) (line : Nat) : (s.dirtySram line).mem = s.mem := by
  unfold State.dirtySram
  simp only []
  split
  · exact setSram_mem _ _ _
  · rfl

theorem mergeHome_memWf {s : State} (line : Nat) (m : LineMask) (d : LineData) (pois : Bool) (toks : Toks) (h : memWf s = true) :
    memWf (s.mergeHome line m d pois toks) = true :=
  memWf_of_mem (useLine_mem _ _ _) (merge_memWf _ _ _ _ _ h)

theorem sendInvs_mem (s : State) (line : Nat) (l : List Nat) : (l.foldl (fun s c => s.send (.inv c line s.next)) s).mem = s.mem :=
  foldl_same State.mem (fun (s : State) c => s.send (.inv c line s.next)) (fun _ _ => rfl) l s

theorem dropCopies_mem (s : State) (line : Nat) : (s.dropCopies line).mem = s.mem := by
  unfold State.dropCopies
  simp only []
  split
  · rfl
  · exact sendInvs_mem s line _

theorem setSysWord_memWf {s : State} (a : Nat) (v : DWord) (h : memWf s = true) : memWf (s.setSysWord a v) = true := by
  unfold State.setSysWord
  simp only []
  split
  · exact h
  · exact memWf_of_mem (dirtySram_mem _ _) (memWf_of_mem (dropCopies_mem _ _)
      (setBytes_memWf _ _ (memWf_of_mem (s := s) (t := { s with nexts := s.nexts ++ heldCells s (lineOf (sysKey s a)) }) rfl h)))

theorem record_memWf {s : State} (a b c d : Nat) (v w x y : DWord) (h : memWf s = true) :
    memWf ((((s.setSysWord a v).setSysWord b w).setSysWord c x).setSysWord d y) = true :=
  setSysWord_memWf _ _ (setSysWord_memWf _ _ (setSysWord_memWf _ _ (setSysWord_memWf _ _ h)))

theorem mcRecord_memWf {s : State} (ctx sev unit die index : Nat) (addr : DWord) (h : memWf s = true) :
    memWf (s.mcRecord ctx sev unit die index addr) = true := by
  have h' (n : Nat) : memWf { s with mcidx := setBits s.mcidx 0 32 n } = true := memWf_of_mem (s := s) rfl h
  unfold State.mcRecord
  simp only []
  generalize bits s.mcidx 0 32 + 1 = n
  generalize dw (ctx * 2 ^ 48 + sev * 2 ^ 44 + unit * 2 ^ 36 + die * 2 ^ 32 + index) = place
  split
  · exact h' n
  · exact record_memWf _ _ _ _ _ _ _ _ (h' n)

theorem zeroGran_memWf {s : State} (k : Nat) (h : memWf s = true) : memWf (s.zeroGran k) = true := by
  unfold State.zeroGran
  generalize List.replicate 4096 (0 : Byte) = l
  unfold State.forgetGran
  exact memWf_of_mem (s := s.setBytes (k / 4096 * 4096) l) rfl (setBytes_memWf _ _ h)

theorem touchGran_memWf {s : State} (now : DWord) (k : Nat) (h : memWf s = true) : memWf (s.touchGran now k) = true := by
  unfold State.touchGran
  split
  · exact h
  · simp only []
    have h1 : memWf (if granExpired (s.gran k) now then s.zeroGran k else s) = true := by
      split
      · exact zeroGran_memWf k h
      · exact h
    split
    · exact h1
    · exact h1

theorem zeroExpired_memWf {s : State} (now : DWord) (k : Nat) (h : memWf s = true) : memWf (s.zeroExpired now k) = true := by
  unfold State.zeroExpired
  split
  · exact touchGran_memWf _ _ h
  · exact h

theorem lapseGran_mem (s : State) (g : Nat) : (s.lapseGran g).mem = s.mem := by
  unfold State.lapseGran
  split
  · rfl
  · split <;> rfl

theorem scratchPois_mem (s : State) (key : Nat) (b : Bool) (l : List Nat) :
    (l.foldl (fun s i => s.setScratchPois (key + i) b) s).mem = s.mem :=
  foldl_same State.mem (fun (s : State) i => s.setScratchPois (key + i) b) (fun _ _ => rfl) l s

theorem txnDone_mem (s : State) (line : Nat) (t : TxnDone) : (s.txnDone line t).mem = s.mem := by
  unfold State.txnDone
  cases t <;> try rfl
  simp only []
  split
  · rfl
  · exact sendInvs_mem s line _

theorem invalidate_mem (s : State) (line : Nat) (but : Option Nat) (t : TxnDone) : (s.invalidate line but t).mem = s.mem := by
  unfold State.invalidate
  simp only []
  split
  · exact txnDone_mem _ _ _
  · exact sendInvs_mem s line _

theorem carry_mem (s : State) (a b : Nat) (toks : Toks) : (s.carry a b toks).2.mem = s.mem := by
  unfold State.carry; split <;> rfl

theorem chanStep_mem (s : State) (a b : Nat) : (s.chanStep a b).mem = s.mem := by
  unfold State.chanStep; split <;> rfl

theorem performed_mem (s : State) (a : Nat) (c : Carry) : (s.performed a c).mem = s.mem := by
  unfold State.performed; split <;> rfl

theorem entriesWritten_mem (s : State) (lo n : Nat) : (s.entriesWritten lo n).mem = s.mem :=
  foldl_same State.mem _ (fun s c => by simp only []; split <;> rfl) _ s

theorem redoApply_memWf {s : State} (r : RedoReq) (h : memWf s = true) : memWf (s.redoApply r) = true := by
  unfold State.redoApply
  have ht := touchGran_memWf (s.timeOf (homeDie r.key)) r.key h
  simp only []
  refine memWf_of_mem (performed_mem _ _ _) (memWf_of_mem (invalidate_mem _ _ _ _) ?_)
  exact memWf_of_mem (useLine_mem _ _ _) (setBytes_memWf _ _ (setBytes_memWf _ _ ht))

theorem drainRedo_memWf (n : Nat) {s : State} (line : Nat) (h : memWf s = true) : memWf (State.drainRedo n s line) = true := by
  induction n generalizing s with
  | zero => exact h
  | succ n ih =>
    unfold State.drainRedo
    simp only []
    split
    · apply ih
      split
      · exact memWf_of_mem (performed_mem _ _ _) h
      · exact redoApply_memWf _ h
    · exact h

theorem retestBy_memWf (old : RedoReq → Nat) {s : State} (line : Nat) (h : memWf s = true) : memWf (State.retestBy old s line) = true := by
  unfold State.retestBy
  refine drainRedo_memWf _ _ (memWf_foldl (fun (s : State) r => (s.redoFree r).redoStale r) (fun s r hs => ?_) _ h)
  exact memWf_of_mem ((performed_mem _ _ _).trans rfl) hs

theorem retestRedo_memWf (old : State) {s : State} (line : Nat) (h : memWf s = true) : memWf (State.retestRedo old s line) = true :=
  retestBy_memWf _ _ h

theorem homeWrite_memWf {s : State} (key : Nat) (bs : List Byte) (toks : Toks) (h : memWf s = true) :
    memWf (s.homeWrite key bs toks) = true :=
  retestRedo_memWf _ _ (memWf_of_mem (invalidate_mem _ _ _ _)
    (memWf_of_mem (useLine_mem _ _ _) (setBytes_memWf _ _ (touchGran_memWf (s.timeOf (homeDie key)) key h))))

theorem putWord_memWf {s : State} (key : Nat) (v : DWord) (toks : Toks) (h : memWf s = true) : memWf (s.putWord key v toks) = true :=
  homeWrite_memWf _ _ _ h

theorem setLc_mem (s : State) (core line : Nat) (e : LcEnt) : (s.setLc core line e).mem = s.mem := rfl
theorem forget_mem (s : State) (core key size : Nat) : (s.forget core key size).mem = s.mem := by
  unfold State.forget; exact setLc_mem _ _ _ _

theorem putFut_memWf {s : State} (core key : Nat) (w v : DWord) (toks : Toks) (h : memWf s = true) :
    memWf (s.putFut core key w v toks) = true := by
  unfold State.putFut
  exact memWf_of_mem (forget_mem _ _ _ _) (homeWrite_memWf _ _ _ (memWf_of_mem (chanStep_mem _ _ _) h))

theorem devWrite_memWf {s t : State} (key : Nat) (bs : List Byte) (toks : Toks) (hw : s.devWrite key bs toks = some t)
    (h : memWf s = true) : memWf t = true := by
  unfold State.devWrite at hw
  simp only [] at hw
  split at hw
  · cases hw
  · split at hw
    · cases hw; split
      · exact memWf_of_mem (putToks_mem _ _) (setBytes_memWf _ _ h)
      · exact h
    · split at hw
      · cases hw
      · cases hw; exact retestRedo_memWf _ _ (memWf_of_mem (invalidate_mem _ _ _ _) (mergeHome_memWf _ _ _ _ _ h))

theorem engWrite_memWf {s : State} (die key : Nat) (bs : List Byte) (pois : Bool) (toks : Toks) (h : memWf s = true) :
    memWf (s.engWrite die key bs pois toks) = true := by
  unfold State.engWrite
  have ht := touchGran_memWf (s.timeOf die) key h
  simp only []
  split
  · exact memWf_of_mem (scratchPois_mem _ _ _ _) (memWf_of_mem (putToks_mem _ _) (setBytes_memWf _ _ ht))
  · split
    · split
      · split
        · exact setBytes_memWf _ _ ht
        · exact setBytes_memWf _ _ ht
      · exact ht
    · split
      · split
        · exact setBytes_memWf _ _ ht
        · exact setBytes_memWf _ _ ht
      · exact retestRedo_memWf _ _ (memWf_of_mem (chanStep_mem _ _ _) (mergeHome_memWf _ _ _ _ _ ht))

theorem giveUp_mem (s : State) (core line : Nat) (m : LineMask) (d : LineData) (toks : Toks) : (s.giveUp core line m d toks).mem = s.mem := by
  unfold State.giveUp
  simp only []
  split <;> rfl

theorem send_mem (s : State) (m : Instr) : (s.send m).mem = s.mem := rfl
theorem setCore_mem (s : State) (k : Nat) (c : CoreSt) : (s.setCore k c).mem = s.mem := rfl

theorem sendDirty_mem (s : State) (core line : Nat) (pois : Bool) : (s.sendDirty core line pois).mem = s.mem := by
  unfold State.sendDirty
  simp only []
  rw [send_mem, carry_mem, giveUp_mem, setLc_mem, setCore_mem]

theorem writeBack_mem (s : State) (core line : Nat) : (s.writeBack core line).mem = s.mem := by
  unfold State.writeBack
  simp only []
  split
  · split
    · exact sendDirty_mem _ _ _ _
    · rfl
  · apply foldl_same State.mem
    intro s l
    split
    · exact sendDirty_mem _ _ _ _
    · rfl

theorem makeRoom_mem (s : State) (core line : Nat) : (s.makeRoom core line).mem = s.mem := by
  unfold State.makeRoom
  simp only []
  split
  · rfl
  · split
    · rfl
    · rw [setLc_mem, writeBack_mem]; rfl

theorem lcStore_mem (s : State) (core cid line : Nat) (m : LineMask) (d : LineData) (a b : Bool) (toks : Toks) :
    (s.lcStore core cid line m d a b toks).mem = s.mem := by
  unfold State.lcStore
  simp only []
  generalize (if lcExpired (s.makeRoom core line) core line then LcEnt.none else (s.makeRoom core line).lc core line) = e
  split
  · rw [send_mem, setLc_mem, makeRoom_mem]
  · rw [setLc_mem, makeRoom_mem]

theorem sendWrite_mem (s : State) (core cid line : Nat) (m : LineMask) (d : LineData) (b : Bool) (toks : Toks) :
    (s.sendWrite core cid line m d b toks).mem = s.mem := by
  unfold State.sendWrite
  simp only []
  rw [send_mem, carry_mem, giveUp_mem, setCore_mem]

theorem storeAt_memWf {s : State} (cid key : Nat) (va : DWord) (coh : BitVec 2) (ca : Bool) (rel : Option Nat) (mark : Bool) (bs : List Byte)
    (h : memWf s = true) : memWf (s.storeAt cid key va coh ca rel mark bs) = true := by
  unfold State.storeAt
  have ht := touchGran_memWf (s.timeOf (dieOfCore (coreOf cid))) key h
  simp only []
  split
  · exact memWf_of_mem (putToks_mem _ _) (memWf_of_mem (scratchPois_mem _ _ _ _) (setBytes_memWf _ _ ht))
  · split
    · exact memWf_of_mem (lcStore_mem _ _ _ _ _ _ _ _ _) ht
    · split
      · exact ht
      · exact memWf_of_mem (sendWrite_mem _ _ _ _ _ _ _ _) ht

theorem initScratch_memWf {s : State} (b : Nat) (cls : BitVec 2) (deadline now : DWord) (h : memWf s = true) :
    memWf (s.initScratch b cls deadline now) = true := by
  unfold State.initScratch
  split
  · exact h
  · simp only []
    apply memWf_foldl _ ?_ _ (memWf_of_filter _ rfl h)
    intro t i ht
    split
    · exact memWf_of_mem (lapseGran_mem _ _) ht
    · exact ht

theorem zeroCarve_memWf {s : State} (die : Nat) (h : memWf s = true) : memWf (s.zeroCarve die) = true := memWf_of_filter _ rfl h

theorem clearCores_memWf {s : State} (d : Nat) (h : memWf s = true) : memWf (s.clearCores d) = true := by
  have hm : ((dieCores d).foldl (fun (s : State) c => s.setCore c (clearedCore (s.core c))) s).mem = s.mem :=
    foldl_same State.mem (fun (s : State) c => s.setCore c (clearedCore (s.core c))) (fun _ _ => rfl) (dieCores d) s
  unfold State.clearCores
  generalize (dieCores d).foldl (fun (s : State) c => s.setCore c (clearedCore (s.core c))) s = u at hm
  exact memWf_of_filter (s := u) _ rfl (memWf_of_mem hm h)

theorem outlast_memWf {s : State} (h : memWf s = true) : memWf (outlast s) = true := memWf_of_filter _ rfl h

theorem outsideWrite_memWf {s : State} (key : Nat) (bs : List Byte) (h : memWf s = true) : memWf (s.outsideWrite key bs) = true := by
  unfold State.outsideWrite
  split
  · exact h
  · simp only []
    refine memWf_of_mem (entriesWritten_mem _ _ _) (memWf_of_mem ?_ (setBytes_memWf key bs h))
    exact foldl_same State.mem (fun (s : State) l => s.setPoison l false) (fun _ _ => rfl) _ _

end Sys2Proof.Laws
end

