-- ==== Sys2Proof/Laws/Encode.lean ====
section
/-! SUPPORT. The op formats of 07 R137, read and written: reading what was written gives the fields back, and writing what was read
gives the bits back. -/
namespace Sys2Proof
open Sys2Proof.Machine

/-! ### Fields of joined bits -/

theorem extract_append_left {a b : Nat} (x : BitVec a) (y : BitVec b) (lo n : Nat) (h : b ≤ lo) :
    (x ++ y).extractLsb' lo n = x.extractLsb' (lo - b) n := by
  apply BitVec.eq_of_getLsbD_eq
  intro i hi
  have h1 : ¬lo + i < b := by omega
  have h2 : lo + i - b = lo - b + i := by omega
  simp only [BitVec.getLsbD_extractLsb', hi, decide_true, Bool.true_and, BitVec.getLsbD_append, h1, h2, if_false]

theorem extract_append_right {a b : Nat} (x : BitVec a) (y : BitVec b) (lo n : Nat) (h : lo + n ≤ b) :
    (x ++ y).extractLsb' lo n = y.extractLsb' lo n := by
  apply BitVec.eq_of_getLsbD_eq
  intro i hi
  have : lo + i < b := by omega
  simp [BitVec.getLsbD_append, hi, this]

theorem extract_whole {a : Nat} (x : BitVec a) : x.extractLsb' 0 a = x := by
  apply BitVec.eq_of_getLsbD_eq
  intro i hi
  simp [hi]

theorem bit_append_left {a b : Nat} (x : BitVec a) (y : BitVec b) (i : Nat) (h : b ≤ i) :
    (x ++ y).getLsbD i = x.getLsbD (i - b) := by
  have : ¬i < b := by omega
  simp [BitVec.getLsbD_append, this]

theorem bit_append_right {a b : Nat} (x : BitVec a) (y : BitVec b) (i : Nat) (h : i < b) : (x ++ y).getLsbD i = y.getLsbD i := by
  simp [BitVec.getLsbD_append, h]

theorem bit_ofBool (b : Bool) : (BitVec.ofBool b).getLsbD 0 = b := by cases b <;> rfl

theorem ofBool_bit {a : Nat} (x : BitVec a) (i : Nat) : BitVec.ofBool (x.getLsbD i) = x.extractLsb' i 1 := by
  apply BitVec.eq_of_getLsbD_eq
  intro j hj
  obtain rfl : j = 0 := by omega
  simp

theorem append_extracts {a : Nat} (x : BitVec a) (up lo n m : Nat) (h : up = lo + m) :
    x.extractLsb' up n ++ x.extractLsb' lo m = x.extractLsb' lo (n + m) := by
  subst h
  apply BitVec.eq_of_getLsbD_eq
  intro i hi
  rw [BitVec.getLsbD_append]
  by_cases h : i < m
  · simp [h, hi]
  · have h2 : i - m < n := by omega
    have h3 : lo + m + (i - m) = lo + i := by omega
    simp [h, hi, h2, h3]

theorem zero_bit {a : Nat} {x : BitVec a} (h : x.getLsbD 0 = false) : (0#1) = x.extractLsb' 0 1 := by
  rw [← ofBool_bit, h]
  rfl

/-! ### The six formats -/

theorem decG3_encG3 (opc : BitVec 8) (o : G3) : decG3 (encG3 opc o) = o := by
  obtain ⟨⟨pg, pn⟩, ty, mod, vd, va, vb⟩ := o
  let w : BitVec (8 + 3 + 1 + 3 + 7 + 8 + 8 + 8) := opc ++ pg ++ BitVec.ofBool pn ++ ty ++ mod ++ vd ++ va ++ vb
  change (⟨⟨w.extractLsb' 35 3, w.getLsbD 34⟩, w.extractLsb' 31 3, w.extractLsb' 24 7, w.extractLsb' 16 8, w.extractLsb' 8 8, w.extractLsb' 0 8⟩ : G3) = _
  simp (disch := omega) only [w, extract_append_left, extract_append_right, bit_append_left, bit_append_right]
  simp

theorem opcOf_encG3 (opc : BitVec 8) (o : G3) : opcOf (encG3 opc o) = opc := by
  obtain ⟨⟨pg, pn⟩, ty, mod, vd, va, vb⟩ := o
  let w : BitVec (8 + 3 + 1 + 3 + 7 + 8 + 8 + 8) := opc ++ pg ++ BitVec.ofBool pn ++ ty ++ mod ++ vd ++ va ++ vb
  change w.extractLsb' 38 8 = _
  simp (disch := omega) only [w, extract_append_left]
  simp

theorem encG3_decG3 (w : Op46) : encG3 (opcOf w) (decG3 w) = w := by
  let v : BitVec (8 + 3 + 1 + 3 + 7 + 8 + 8 + 8) := w.extractLsb' 38 8 ++ w.extractLsb' 35 3 ++ BitVec.ofBool (w.getLsbD 34) ++ w.extractLsb' 31 3 ++ w.extractLsb' 24 7 ++ w.extractLsb' 16 8 ++ w.extractLsb' 8 8 ++ w.extractLsb' 0 8
  change v = _
  simp (disch := omega) only [v, ofBool_bit, append_extracts]
  exact extract_whole w

theorem decG4_encG4 (opc : BitVec 8) (o : G4) : decG4 (encG4 opc o) = o := by
  obtain ⟨⟨pg, pn⟩, t2, vd, va, vb, vc⟩ := o
  let w : BitVec (8 + 3 + 1 + 2 + 8 + 8 + 8 + 8) := opc ++ pg ++ BitVec.ofBool pn ++ t2 ++ vd ++ va ++ vb ++ vc
  change (⟨⟨w.extractLsb' 35 3, w.getLsbD 34⟩, w.extractLsb' 32 2, w.extractLsb' 24 8, w.extractLsb' 16 8, w.extractLsb' 8 8, w.extractLsb' 0 8⟩ : G4) = _
  simp (disch := omega) only [w, extract_append_left, extract_append_right, bit_append_left, bit_append_right]
  simp

theorem opcOf_encG4 (opc : BitVec 8) (o : G4) : opcOf (encG4 opc o) = opc := by
  obtain ⟨⟨pg, pn⟩, t2, vd, va, vb, vc⟩ := o
  let w : BitVec (8 + 3 + 1 + 2 + 8 + 8 + 8 + 8) := opc ++ pg ++ BitVec.ofBool pn ++ t2 ++ vd ++ va ++ vb ++ vc
  change w.extractLsb' 38 8 = _
  simp (disch := omega) only [w, extract_append_left]
  simp

theorem encG4_decG4 (w : Op46) : encG4 (opcOf w) (decG4 w) = w := by
  let v : BitVec (8 + 3 + 1 + 2 + 8 + 8 + 8 + 8) := w.extractLsb' 38 8 ++ w.extractLsb' 35 3 ++ BitVec.ofBool (w.getLsbD 34) ++ w.extractLsb' 32 2 ++ w.extractLsb' 24 8 ++ w.extractLsb' 16 8 ++ w.extractLsb' 8 8 ++ w.extractLsb' 0 8
  change v = _
  simp (disch := omega) only [v, ofBool_bit, append_extracts]
  exact extract_whole w

theorem decGI_encGI (opc : BitVec 8) (o : GI) : decGI (encGI opc o) = o := by
  obtain ⟨⟨pg, pn⟩, ty, vd, va, imm⟩ := o
  let w : BitVec (8 + 3 + 1 + 3 + 8 + 8 + 15) := opc ++ pg ++ BitVec.ofBool pn ++ ty ++ vd ++ va ++ imm
  change (⟨⟨w.extractLsb' 35 3, w.getLsbD 34⟩, w.extractLsb' 31 3, w.extractLsb' 23 8, w.extractLsb' 15 8, w.extractLsb' 0 15⟩ : GI) = _
  simp (disch := omega) only [w, extract_append_left, extract_append_right, bit_append_left, bit_append_right]
  simp

theorem opcOf_encGI (opc : BitVec 8) (o : GI) : opcOf (encGI opc o) = opc := by
  obtain ⟨⟨pg, pn⟩, ty, vd, va, imm⟩ := o
  let w : BitVec (8 + 3 + 1 + 3 + 8 + 8 + 15) := opc ++ pg ++ BitVec.ofBool pn ++ ty ++ vd ++ va ++ imm
  change w.extractLsb' 38 8 = _
  simp (disch := omega) only [w, extract_append_left]
  simp

theorem encGI_decGI (w : Op46) : encGI (opcOf w) (decGI w) = w := by
  let v : BitVec (8 + 3 + 1 + 3 + 8 + 8 + 15) := w.extractLsb' 38 8 ++ w.extractLsb' 35 3 ++ BitVec.ofBool (w.getLsbD 34) ++ w.extractLsb' 31 3 ++ w.extractLsb' 23 8 ++ w.extractLsb' 15 8 ++ w.extractLsb' 0 15
  change v = _
  simp (disch := omega) only [v, ofBool_bit, append_extracts]
  exact extract_whole w

theorem decM_encM (opc : BitVec 8) (o : M) : decM (encM opc o) = o := by
  obtain ⟨⟨pg, pn⟩, sz, ord, sc, ca, sp, vd, sb, off⟩ := o
  let w : BitVec (8 + 3 + 1 + 3 + 2 + 3 + 1 + 2 + 8 + 6 + 9) := opc ++ pg ++ BitVec.ofBool pn ++ sz ++ ord ++ sc ++ BitVec.ofBool ca ++ sp ++ vd ++ sb ++ off
  change (⟨⟨w.extractLsb' 35 3, w.getLsbD 34⟩, w.extractLsb' 31 3, w.extractLsb' 29 2, w.extractLsb' 26 3, w.getLsbD 25, w.extractLsb' 23 2, w.extractLsb' 15 8, w.extractLsb' 9 6, w.extractLsb' 0 9⟩ : M) = _
  simp (disch := omega) only [w, extract_append_left, extract_append_right, bit_append_left, bit_append_right]
  simp

theorem opcOf_encM (opc : BitVec 8) (o : M) : opcOf (encM opc o) = opc := by
  obtain ⟨⟨pg, pn⟩, sz, ord, sc, ca, sp, vd, sb, off⟩ := o
  let w : BitVec (8 + 3 + 1 + 3 + 2 + 3 + 1 + 2 + 8 + 6 + 9) := opc ++ pg ++ BitVec.ofBool pn ++ sz ++ ord ++ sc ++ BitVec.ofBool ca ++ sp ++ vd ++ sb ++ off
  change w.extractLsb' 38 8 = _
  simp (disch := omega) only [w, extract_append_left]
  simp

theorem encM_decM (w : Op46) : encM (opcOf w) (decM w) = w := by
  let v : BitVec (8 + 3 + 1 + 3 + 2 + 3 + 1 + 2 + 8 + 6 + 9) := w.extractLsb' 38 8 ++ w.extractLsb' 35 3 ++ BitVec.ofBool (w.getLsbD 34) ++ w.extractLsb' 31 3 ++ w.extractLsb' 29 2 ++ w.extractLsb' 26 3 ++ BitVec.ofBool (w.getLsbD 25) ++ w.extractLsb' 23 2 ++ w.extractLsb' 15 8 ++ w.extractLsb' 9 6 ++ w.extractLsb' 0 9
  change v = _
  simp (disch := omega) only [v, ofBool_bit, append_extracts]
  exact extract_whole w

theorem decMG_encMG (opc : BitVec 8) (o : MG) : decMG (encMG opc o) = o := by
  obtain ⟨⟨pg, pn⟩, sz, ord, sc, ca, sp, vd, va, sb⟩ := o
  let w : BitVec (8 + 3 + 1 + 3 + 2 + 3 + 1 + 2 + 8 + 8 + 6 + 1) := opc ++ pg ++ BitVec.ofBool pn ++ sz ++ ord ++ sc ++ BitVec.ofBool ca ++ sp ++ vd ++ va ++ sb ++ 0#1
  change (⟨⟨w.extractLsb' 35 3, w.getLsbD 34⟩, w.extractLsb' 31 3, w.extractLsb' 29 2, w.extractLsb' 26 3, w.getLsbD 25, w.extractLsb' 23 2, w.extractLsb' 15 8, w.extractLsb' 7 8, w.extractLsb' 1 6⟩ : MG) = _
  simp (disch := omega) only [w, extract_append_left, extract_append_right, bit_append_left, bit_append_right]
  simp

theorem opcOf_encMG (opc : BitVec 8) (o : MG) : opcOf (encMG opc o) = opc := by
  obtain ⟨⟨pg, pn⟩, sz, ord, sc, ca, sp, vd, va, sb⟩ := o
  let w : BitVec (8 + 3 + 1 + 3 + 2 + 3 + 1 + 2 + 8 + 8 + 6 + 1) := opc ++ pg ++ BitVec.ofBool pn ++ sz ++ ord ++ sc ++ BitVec.ofBool ca ++ sp ++ vd ++ va ++ sb ++ 0#1
  change w.extractLsb' 38 8 = _
  simp (disch := omega) only [w, extract_append_left]
  simp

theorem encMG_decMG (w : Op46) (hz : w.getLsbD 0 = false) : encMG (opcOf w) (decMG w) = w := by
  let v : BitVec (8 + 3 + 1 + 3 + 2 + 3 + 1 + 2 + 8 + 8 + 6 + 1) := w.extractLsb' 38 8 ++ w.extractLsb' 35 3 ++ BitVec.ofBool (w.getLsbD 34) ++ w.extractLsb' 31 3 ++ w.extractLsb' 29 2 ++ w.extractLsb' 26 3 ++ BitVec.ofBool (w.getLsbD 25) ++ w.extractLsb' 23 2 ++ w.extractLsb' 15 8 ++ w.extractLsb' 7 8 ++ w.extractLsb' 1 6 ++ 0#1
  change v = _
  simp (disch := omega) only [v, ofBool_bit, zero_bit hz, append_extracts]
  exact extract_whole w

theorem decC_encC (opc : BitVec 8) (o : C) : decC (encC opc o) = o := by
  obtain ⟨⟨pg, pn⟩, u, cc, sa, tgt⟩ := o
  let w : BitVec (8 + 3 + 1 + 1 + 3 + 6 + 24) := opc ++ pg ++ BitVec.ofBool pn ++ BitVec.ofBool u ++ cc ++ sa ++ tgt
  change (⟨⟨w.extractLsb' 35 3, w.getLsbD 34⟩, w.getLsbD 33, w.extractLsb' 30 3, w.extractLsb' 24 6, w.extractLsb' 0 24⟩ : C) = _
  simp (disch := omega) only [w, extract_append_left, extract_append_right, bit_append_left, bit_append_right]
  simp

theorem opcOf_encC (opc : BitVec 8) (o : C) : opcOf (encC opc o) = opc := by
  obtain ⟨⟨pg, pn⟩, u, cc, sa, tgt⟩ := o
  let w : BitVec (8 + 3 + 1 + 1 + 3 + 6 + 24) := opc ++ pg ++ BitVec.ofBool pn ++ BitVec.ofBool u ++ cc ++ sa ++ tgt
  change w.extractLsb' 38 8 = _
  simp (disch := omega) only [w, extract_append_left]
  simp

theorem encC_decC (w : Op46) : encC (opcOf w) (decC w) = w := by
  let v : BitVec (8 + 3 + 1 + 1 + 3 + 6 + 24) := w.extractLsb' 38 8 ++ w.extractLsb' 35 3 ++ BitVec.ofBool (w.getLsbD 34) ++ BitVec.ofBool (w.getLsbD 33) ++ w.extractLsb' 30 3 ++ w.extractLsb' 24 6 ++ w.extractLsb' 0 24
  change v = _
  simp (disch := omega) only [v, ofBool_bit, append_extracts]
  exact extract_whole w

theorem encMG_zero (opc : BitVec 8) (o : MG) : (encMG opc o).getLsbD 0 = false := by
  let w : BitVec (8 + 3 + 1 + 3 + 2 + 3 + 1 + 2 + 8 + 8 + 6 + 1) :=
    opc ++ o.g.pg ++ BitVec.ofBool o.g.pn ++ o.sz ++ o.ord ++ o.sc ++ BitVec.ofBool o.ca ++ o.sp ++ o.vd ++ o.va ++ o.sb ++ 0#1
  change w.getLsbD 0 = false
  simp (disch := omega) only [w, bit_append_right]
  rfl

end Sys2Proof
end

