-- ==== Sys2Proof/Laws/Ops.lean ====
section
/-! SUPPORT. What the shared operations leave unchanged, and the answers of those that hold an op back. -/
namespace Sys2Proof.Laws
open Sys2Proof Sys2Proof.Machine

/-! ### Memory through the end of a slot -/

theorem lengthen_mem (s : State) (core : Nat) (l : Lease) : (s.lengthen core l).mem = s.mem := by
  unfold State.lengthen; simp only []; split <;> rfl
theorem expireLeases_mem (s : State) (cid : Nat) : (s.expireLeases cid).mem = s.mem := by
  unfold State.expireLeases
  simp only []
  rw [setCore_mem]
  exact foldl_same State.mem (fun (s : State) l => s.lengthen (coreOf cid) l) (fun t l => lengthen_mem t _ l) _ s
theorem orphanWork_mem (s : State) (cid : Nat) : (s.orphanWork cid).mem = s.mem := rfl

theorem endCohort_mem (s : State) (cid : Nat) : (s.endCohort cid).mem = s.mem := by
  have h := foldl_same State.mem (fun (t : State) (f : DWord × Nat) => t.send (.abandonRequest (s.cohort cid).ctx f.2)) (fun _ _ => rfl)
    (s.cohort cid).bound (s.expireLeases cid)
  have hp (t : State) (d : Nat) : (t.passSoon d).mem = t.mem := rfl
  have hc (t : State) (c : Cohort) : (t.setCohort cid c).mem = t.mem := rfl
  unfold State.endCohort
  simp only []
  rw [hp, hc]
  split
  · rw [setCore_mem, orphanWork_mem, h, expireLeases_mem]
  · rw [orphanWork_mem, h, expireLeases_mem]

theorem retestGrid_mem (s : State) (g : Nat) : (s.retestGrid g).mem = s.mem := by
  unfold State.retestGrid; simp only []; split <;> rfl

theorem endLanes_mem (s : State) (cid : Nat) (mask : DWord) : (s.endLanes cid mask).mem = s.mem := by
  unfold State.endLanes
  simp only []
  split
  · rw [endCohort_mem]; split
    · rw [retestGrid_mem]; rfl
    · rfl
  · split
    · rw [retestGrid_mem]; rfl
    · rfl

theorem endFragment_mem (s : State) (cid id : Nat) : (s.endFragment cid id).mem = s.mem := endLanes_mem _ _ _

theorem transfer_mem (s : State) (cid : Nat) (e : Ent) (x : Xfer) : (s.transfer cid e x).mem = s.mem := by
  unfold State.transfer
  cases x with
  | go d => rfl
  | split m r t n => cases r <;> rfl
  | exit =>
    simp only []
    split
    · split
      · split
        · rw [endLanes_mem]; rfl
        · rw [endFragment_mem]; rfl
      · exact endFragment_mem _ _ _
    · exact endFragment_mem _ _ _

theorem endPass_mem (s : State) (cid id : Nat) : (s.endPass cid id).mem = s.mem := by
  unfold State.endPass
  simp only []
  split
  · rfl
  · split
    · split <;> rfl
    · rw [transfer_mem]; rfl

theorem slotDone_mem (s : State) : s.slotDone.mem = s.mem := by
  unfold State.slotDone
  simp only []
  split
  · rw [endPass_mem]; rfl
  · rfl

theorem slotFailed_mem (s : State) (p : Option Parked) : (s.slotFailed p).mem = s.mem := by
  unfold State.slotFailed
  simp only []
  rw [endPass_mem]; rfl

theorem raise_mem (s : State) (k : Cause) (info : DWord) : (s.raise k info).mem = s.mem := by
  unfold State.raise; simp only []; split <;> rfl

/-- The memory an answer carries. -/
def resMem : Res → List Host.Cell
  | .done t => t.mem | .trap _ _ t => t.mem | .park _ t => t.mem | .wait _ t => t.mem | .hold _ t => t.mem | .stop t => t.mem

/-- What an answer does to its slot leaves memory as the answer has it. -/
theorem settle_mem (r : Res) : (settle r).mem = resMem r := by
  cases r with
  | done t => exact slotDone_mem t
  | trap c i t => exact (slotFailed_mem _ _).trans (raise_mem _ _ _)
  | park n t => exact slotFailed_mem _ _
  | wait w t => rfl
  | hold w t => rfl
  | stop t => exact slotFailed_mem _ _

/-- What an op can answer: it waits for a matrix op's accumulator or traps on a lost register word, the state as it was, or its own answer. -/
theorem opReading_cases (i : Instr) (reads : List (Nat × Nat)) (s : State) (r : Res) :
    opReading i reads s r = .next (settle (.wait .other s)) ∨ (∃ info, opReading i reads s r = .next (settle (.trap .soft info s))) ∨
      opReading i reads s r = .next (settle r) := by
  unfold opReading
  split
  · exact .inl rfl
  · split
    · rename_i info _; exact .inr (.inl ⟨info, rfl⟩)
    · exact .inr (.inr rfl)

/-- An op keeps memory in its canonical form where its own answer does. -/
theorem opReading_memWf {i : Instr} {reads : List (Nat × Nat)} {s t : State} {r : Res} (h : opReading i reads s r = .next t)
    (hs : Safety.memWf s = true) (hr : twf 0 (resMem r) = true) : Safety.memWf t = true := by
  have key (r : Res) (hr : twf 0 (resMem r) = true) : Safety.memWf (settle r) = true := by
    unfold Safety.memWf; rw [settle_mem]; exact hr
  obtain h' | ⟨_, h'⟩ | h' := opReading_cases i reads s r <;> rw [h'] at h <;> cases h
  · exact key _ hs
  · exact key _ hs
  · exact key _ hr

/-! ### Releases, choices, services -/

theorem afterRelease_made {s : State} {sc : Nat} {t : State} (h : s.release s.cur.cid sc = (true, t)) (k : State → Res) :
    afterRelease s true sc k = k t := by
  unfold afterRelease; simp [h]

theorem afterRelease_waits {s : State} {sc : Nat} {t : State} (h : s.release s.cur.cid sc = (false, t)) (k : State → Res) :
    afterRelease s true sc k = .wait .release t := by
  unfold afterRelease; simp [h]

theorem inService_up {s : State} (h : recovery s = false) (o : Host.Outcome State Fault Refusal) : inService s o = o := by
  unfold inService; simp [h]

theorem inService_recovery {s : State} (h : recovery s = true) (o : Host.Outcome State Fault Refusal) : inService s o = .next s := by
  unfold inService; simp [h]

end Sys2Proof.Laws
end

