-- ==== Sys2Proof/Laws/PerInstr.lean ====
section
/-! SUPPORT. The laws of each constructor: the bits of a legal op decode to it (07 R137, R145, R151 check 3). -/
namespace Sys2Proof
open Sys2Proof.Machine

/-- The decoder reads back what the encoder writes: an op whose own 46 bits pass check 3 decodes, with its extension, to itself. A step
of another agent has no op. -/
def Laws.Encode.Statement (i : Instr) : Prop :=
  opLegal i = true → isOp i = true → decodeOp (encodeOp i) (extOf i) = some i

theorem decodeOp_encG3 (opc : BitVec 8) (o : G3) (x : Ext) :
    decodeOp (encG3 opc o) x = decodeOpc opc.toNat (encG3 opc o) x := by
  rw [decodeOp, opcOf_encG3]

theorem decodeOp_encG4 (opc : BitVec 8) (o : G4) (x : Ext) :
    decodeOp (encG4 opc o) x = decodeOpc opc.toNat (encG4 opc o) x := by
  rw [decodeOp, opcOf_encG4]

theorem decodeOp_encGI (opc : BitVec 8) (o : GI) (x : Ext) :
    decodeOp (encGI opc o) x = decodeOpc opc.toNat (encGI opc o) x := by
  rw [decodeOp, opcOf_encGI]

theorem decodeOp_encM (opc : BitVec 8) (o : M) (x : Ext) :
    decodeOp (encM opc o) x = decodeOpc opc.toNat (encM opc o) x := by
  rw [decodeOp, opcOf_encM]

theorem decodeOp_encMG (opc : BitVec 8) (o : MG) (x : Ext) :
    decodeOp (encMG opc o) x = decodeOpc opc.toNat (encMG opc o) x := by
  rw [decodeOp, opcOf_encMG]

theorem decodeOp_encC (opc : BitVec 8) (o : C) (x : Ext) :
    decodeOp (encC opc o) x = decodeOpc opc.toNat (encC opc o) x := by
  rw [decodeOp, opcOf_encC]

/-- FN of a MOD whose SAT bits are clear. -/
theorem fnOf_eq {m k : BitVec 7} (h : (m == k) = true) : fnOf m = fnOf k := by
  rw [beq_iff_eq.1 h]

theorem decodeMG {w : Op46} {o : MG} (hz : w.getLsbD 0 = false) (k : MG → Instr) (hd : decMG w = o) :
    (if w.getLsbD 0 then none else some (k (decMG w))) = some (k o) := by
  rw [hz, hd]
  rfl

theorem Laws.Encode.nop (o : C) : Laws.Encode.Statement (.nop o) := fun _ _ =>
  (decodeOp_encC 0x01 o none).trans (congrArg (fun o => some (Instr.nop o)) (decC_encC _ o))

theorem Laws.Encode.br (o : C) : Laws.Encode.Statement (.br o) := fun _ _ =>
  (decodeOp_encC 0x02 o none).trans (congrArg (fun o => some (Instr.br o)) (decC_encC _ o))

theorem Laws.Encode.bc (o : C) : Laws.Encode.Statement (.bc o) := fun _ _ =>
  (decodeOp_encC 0x03 o none).trans (congrArg (fun o => some (Instr.bc o)) (decC_encC _ o))

theorem Laws.Encode.bv (o : C) : Laws.Encode.Statement (.bv o) := fun _ _ =>
  (decodeOp_encC 0x04 o none).trans (congrArg (fun o => some (Instr.bv o)) (decC_encC _ o))

theorem Laws.Encode.call (o : C) : Laws.Encode.Statement (.call o) := fun _ _ =>
  (decodeOp_encC 0x05 o none).trans (congrArg (fun o => some (Instr.call o)) (decC_encC _ o))

theorem Laws.Encode.ret (o : C) : Laws.Encode.Statement (.ret o) := fun _ _ =>
  (decodeOp_encC 0x06 o none).trans (congrArg (fun o => some (Instr.ret o)) (decC_encC _ o))

theorem Laws.Encode.jmpi (o : C) : Laws.Encode.Statement (.jmpi o) := fun _ _ =>
  (decodeOp_encC 0x07 o none).trans (congrArg (fun o => some (Instr.jmpi o)) (decC_encC _ o))

theorem Laws.Encode.loop (o : C) : Laws.Encode.Statement (.loop o) := fun _ _ =>
  (decodeOp_encC 0x08 o none).trans (congrArg (fun o => some (Instr.loop o)) (decC_encC _ o))

theorem Laws.Encode.exit (o : C) : Laws.Encode.Statement (.exit o) := fun _ _ =>
  (decodeOp_encC 0x09 o none).trans (congrArg (fun o => some (Instr.exit o)) (decC_encC _ o))

theorem Laws.Encode.launch (o : G3) : Laws.Encode.Statement (.launch o) := fun _ _ =>
  (decodeOp_encG3 0x0A o none).trans (congrArg (fun o => some (Instr.launch o)) (decG3_encG3 _ o))

theorem Laws.Encode.yield (o : C) : Laws.Encode.Statement (.yield o) := fun _ _ =>
  (decodeOp_encC 0x0B o none).trans (congrArg (fun o => some (Instr.yield o)) (decC_encC _ o))

theorem Laws.Encode.sadd (o : G3) : Laws.Encode.Statement (.sadd o) := fun _ _ =>
  (decodeOp_encG3 0x10 o none).trans (congrArg (fun o => some (Instr.sadd o)) (decG3_encG3 _ o))

theorem Laws.Encode.ssub (o : G3) : Laws.Encode.Statement (.ssub o) := fun _ _ =>
  (decodeOp_encG3 0x11 o none).trans (congrArg (fun o => some (Instr.ssub o)) (decG3_encG3 _ o))

theorem Laws.Encode.smul (o : G3) : Laws.Encode.Statement (.smul o) := fun _ _ =>
  (decodeOp_encG3 0x12 o none).trans (congrArg (fun o => some (Instr.smul o)) (decG3_encG3 _ o))

theorem Laws.Encode.smulh (o : G3) : Laws.Encode.Statement (.smulh o) := fun _ _ =>
  (decodeOp_encG3 0x13 o none).trans (congrArg (fun o => some (Instr.smulh o)) (decG3_encG3 _ o))

theorem Laws.Encode.sdiv (o : G3) : Laws.Encode.Statement (.sdiv o) := fun _ _ =>
  (decodeOp_encG3 0x14 o none).trans (congrArg (fun o => some (Instr.sdiv o)) (decG3_encG3 _ o))

theorem Laws.Encode.srem (o : G3) : Laws.Encode.Statement (.srem o) := fun _ _ =>
  (decodeOp_encG3 0x15 o none).trans (congrArg (fun o => some (Instr.srem o)) (decG3_encG3 _ o))

theorem Laws.Encode.sand (o : G3) : Laws.Encode.Statement (.sand o) := fun _ _ =>
  (decodeOp_encG3 0x16 o none).trans (congrArg (fun o => some (Instr.sand o)) (decG3_encG3 _ o))

theorem Laws.Encode.sor (o : G3) : Laws.Encode.Statement (.sor o) := fun _ _ =>
  (decodeOp_encG3 0x17 o none).trans (congrArg (fun o => some (Instr.sor o)) (decG3_encG3 _ o))

theorem Laws.Encode.sxor (o : G3) : Laws.Encode.Statement (.sxor o) := fun _ _ =>
  (decodeOp_encG3 0x18 o none).trans (congrArg (fun o => some (Instr.sxor o)) (decG3_encG3 _ o))

theorem Laws.Encode.sshl (o : G3) : Laws.Encode.Statement (.sshl o) := fun _ _ =>
  (decodeOp_encG3 0x19 o none).trans (congrArg (fun o => some (Instr.sshl o)) (decG3_encG3 _ o))

theorem Laws.Encode.sshr (o : G3) : Laws.Encode.Statement (.sshr o) := fun _ _ =>
  (decodeOp_encG3 0x1A o none).trans (congrArg (fun o => some (Instr.sshr o)) (decG3_encG3 _ o))

theorem Laws.Encode.smin (o : G3) : Laws.Encode.Statement (.smin o) := fun _ _ =>
  (decodeOp_encG3 0x1B o none).trans (congrArg (fun o => some (Instr.smin o)) (decG3_encG3 _ o))

theorem Laws.Encode.smax (o : G3) : Laws.Encode.Statement (.smax o) := fun _ _ =>
  (decodeOp_encG3 0x1C o none).trans (congrArg (fun o => some (Instr.smax o)) (decG3_encG3 _ o))

theorem Laws.Encode.scmp (o : G3) : Laws.Encode.Statement (.scmp o) := fun _ _ =>
  (decodeOp_encG3 0x1D o none).trans (congrArg (fun o => some (Instr.scmp o)) (decG3_encG3 _ o))

theorem Laws.Encode.ssel (o : G3) : Laws.Encode.Statement (.ssel o) := fun _ _ =>
  (decodeOp_encG3 0x1E o none).trans (congrArg (fun o => some (Instr.ssel o)) (decG3_encG3 _ o))

theorem Laws.Encode.sbit (o : G3) : Laws.Encode.Statement (.sbit o) := fun _ _ =>
  (decodeOp_encG3 0x1F o none).trans (congrArg (fun o => some (Instr.sbit o)) (decG3_encG3 _ o))

theorem Laws.Encode.saddi (o : GI) : Laws.Encode.Statement (.saddi o) := fun _ _ =>
  (decodeOp_encGI 0x20 o none).trans (congrArg (fun o => some (Instr.saddi o)) (decGI_encGI _ o))

theorem Laws.Encode.slui (o : GI) : Laws.Encode.Statement (.slui o) := fun _ _ =>
  (decodeOp_encGI 0x21 o none).trans (congrArg (fun o => some (Instr.slui o)) (decGI_encGI _ o))

theorem Laws.Encode.sli (o : GI) (x : Ext) : Laws.Encode.Statement (.sli o x) := fun _ _ =>
  (decodeOp_encGI 0x22 o x).trans (congrArg (fun o => some (Instr.sli o x)) (decGI_encGI _ o))

theorem Laws.Encode.sld (o : M) (x : Ext) : Laws.Encode.Statement (.sld o x) := fun _ _ =>
  (decodeOp_encM 0x23 o x).trans (congrArg (fun o => some (Instr.sld o x)) (decM_encM _ o))

theorem Laws.Encode.sst (o : M) (x : Ext) : Laws.Encode.Statement (.sst o x) := fun _ _ =>
  (decodeOp_encM 0x24 o x).trans (congrArg (fun o => some (Instr.sst o x)) (decM_encM _ o))

theorem Laws.Encode.sget (o : GI) : Laws.Encode.Statement (.sget o) := fun _ _ =>
  (decodeOp_encGI 0x25 o none).trans (congrArg (fun o => some (Instr.sget o)) (decGI_encGI _ o))

theorem Laws.Encode.vadd (o : G3) : Laws.Encode.Statement (.vadd o) := fun _ _ =>
  (decodeOp_encG3 0x30 o none).trans (congrArg (fun o => some (Instr.vadd o)) (decG3_encG3 _ o))

theorem Laws.Encode.vsub (o : G3) : Laws.Encode.Statement (.vsub o) := fun _ _ =>
  (decodeOp_encG3 0x31 o none).trans (congrArg (fun o => some (Instr.vsub o)) (decG3_encG3 _ o))

theorem Laws.Encode.vmul (o : G3) : Laws.Encode.Statement (.vmul o) := fun _ _ =>
  (decodeOp_encG3 0x32 o none).trans (congrArg (fun o => some (Instr.vmul o)) (decG3_encG3 _ o))

theorem Laws.Encode.vmulh (o : G3) : Laws.Encode.Statement (.vmulh o) := fun _ _ =>
  (decodeOp_encG3 0x33 o none).trans (congrArg (fun o => some (Instr.vmulh o)) (decG3_encG3 _ o))

theorem Laws.Encode.vmad (o : G4) (x : Ext) : Laws.Encode.Statement (.vmad o x) := fun _ _ =>
  (decodeOp_encG4 0x34 o x).trans (congrArg (fun o => some (Instr.vmad o x)) (decG4_encG4 _ o))

theorem Laws.Encode.vmin (o : G3) : Laws.Encode.Statement (.vmin o) := fun _ _ =>
  (decodeOp_encG3 0x35 o none).trans (congrArg (fun o => some (Instr.vmin o)) (decG3_encG3 _ o))

theorem Laws.Encode.vmax (o : G3) : Laws.Encode.Statement (.vmax o) := fun _ _ =>
  (decodeOp_encG3 0x36 o none).trans (congrArg (fun o => some (Instr.vmax o)) (decG3_encG3 _ o))

theorem Laws.Encode.vabs (o : G3) : Laws.Encode.Statement (.vabs o) := fun _ _ =>
  (decodeOp_encG3 0x37 o none).trans (congrArg (fun o => some (Instr.vabs o)) (decG3_encG3 _ o))

theorem Laws.Encode.vand (o : G3) : Laws.Encode.Statement (.vand o) := fun _ _ =>
  (decodeOp_encG3 0x38 o none).trans (congrArg (fun o => some (Instr.vand o)) (decG3_encG3 _ o))

theorem Laws.Encode.vor (o : G3) : Laws.Encode.Statement (.vor o) := fun _ _ =>
  (decodeOp_encG3 0x39 o none).trans (congrArg (fun o => some (Instr.vor o)) (decG3_encG3 _ o))

theorem Laws.Encode.vxor (o : G3) : Laws.Encode.Statement (.vxor o) := fun _ _ =>
  (decodeOp_encG3 0x3A o none).trans (congrArg (fun o => some (Instr.vxor o)) (decG3_encG3 _ o))

theorem Laws.Encode.vnot (o : G3) : Laws.Encode.Statement (.vnot o) := fun _ _ =>
  (decodeOp_encG3 0x3B o none).trans (congrArg (fun o => some (Instr.vnot o)) (decG3_encG3 _ o))

theorem Laws.Encode.vshl (o : G3) : Laws.Encode.Statement (.vshl o) := fun _ _ =>
  (decodeOp_encG3 0x3C o none).trans (congrArg (fun o => some (Instr.vshl o)) (decG3_encG3 _ o))

theorem Laws.Encode.vshr (o : G3) : Laws.Encode.Statement (.vshr o) := fun _ _ =>
  (decodeOp_encG3 0x3D o none).trans (congrArg (fun o => some (Instr.vshr o)) (decG3_encG3 _ o))

theorem Laws.Encode.vrot (o : G3) : Laws.Encode.Statement (.vrot o) := fun _ _ =>
  (decodeOp_encG3 0x3E o none).trans (congrArg (fun o => some (Instr.vrot o)) (decG3_encG3 _ o))

theorem Laws.Encode.vbit (o : G3) : Laws.Encode.Statement (.vbit o) := fun _ _ =>
  (decodeOp_encG3 0x3F o none).trans (congrArg (fun o => some (Instr.vbit o)) (decG3_encG3 _ o))

theorem Laws.Encode.vbfe (o : G4) : Laws.Encode.Statement (.vbfe o) := fun _ _ =>
  (decodeOp_encG4 0x40 o none).trans (congrArg (fun o => some (Instr.vbfe o)) (decG4_encG4 _ o))

theorem Laws.Encode.vbfi (o : G4) : Laws.Encode.Statement (.vbfi o) := fun _ _ =>
  (decodeOp_encG4 0x41 o none).trans (congrArg (fun o => some (Instr.vbfi o)) (decG4_encG4 _ o))

theorem Laws.Encode.vaddi (o : GI) (x : Ext) : Laws.Encode.Statement (.vaddi o x) := fun _ _ =>
  (decodeOp_encGI 0x42 o x).trans (congrArg (fun o => some (Instr.vaddi o x)) (decGI_encGI _ o))

theorem Laws.Encode.vmovi (o : GI) (x : Ext) : Laws.Encode.Statement (.vmovi o x) := fun _ _ =>
  (decodeOp_encGI 0x43 o x).trans (congrArg (fun o => some (Instr.vmovi o x)) (decGI_encGI _ o))

theorem Laws.Encode.vmov (o : G3) : Laws.Encode.Statement (.vmov o) := fun _ _ =>
  (decodeOp_encG3 0x44 o none).trans (congrArg (fun o => some (Instr.vmov o)) (decG3_encG3 _ o))

theorem Laws.Encode.vsel (o : G3) : Laws.Encode.Statement (.vsel o) := fun _ _ =>
  (decodeOp_encG3 0x45 o none).trans (congrArg (fun o => some (Instr.vsel o)) (decG3_encG3 _ o))

theorem Laws.Encode.vcmp (o : G3) : Laws.Encode.Statement (.vcmp o) := fun _ _ =>
  (decodeOp_encG3 0x46 o none).trans (congrArg (fun o => some (Instr.vcmp o)) (decG3_encG3 _ o))

theorem Laws.Encode.vcvti (o : G3) : Laws.Encode.Statement (.vcvti o) := fun _ _ =>
  (decodeOp_encG3 0x47 o none).trans (congrArg (fun o => some (Instr.vcvti o)) (decG3_encG3 _ o))

theorem Laws.Encode.vlane (o : G3) : Laws.Encode.Statement (.vlane o) := fun _ _ =>
  (decodeOp_encG3 0x48 o none).trans (congrArg (fun o => some (Instr.vlane o)) (decG3_encG3 _ o))

theorem Laws.Encode.vbcast (o : G3) : Laws.Encode.Statement (.vbcast o) := fun _ _ =>
  (decodeOp_encG3 0x49 o none).trans (congrArg (fun o => some (Instr.vbcast o)) (decG3_encG3 _ o))

theorem Laws.Encode.vshfl (o : G3) : Laws.Encode.Statement (.vshfl o) := fun _ _ =>
  (decodeOp_encG3 0x4A o none).trans (congrArg (fun o => some (Instr.vshfl o)) (decG3_encG3 _ o))

theorem Laws.Encode.vrotl (o : G3) : Laws.Encode.Statement (.vrotl o) := fun _ _ =>
  (decodeOp_encG3 0x4B o none).trans (congrArg (fun o => some (Instr.vrotl o)) (decG3_encG3 _ o))

theorem Laws.Encode.vscan (o : G3) : Laws.Encode.Statement (.vscan o) := fun _ _ =>
  (decodeOp_encG3 0x4C o none).trans (congrArg (fun o => some (Instr.vscan o)) (decG3_encG3 _ o))

theorem Laws.Encode.vred (o : G3) : Laws.Encode.Statement (.vred o) := fun _ _ =>
  (decodeOp_encG3 0x4D o none).trans (congrArg (fun o => some (Instr.vred o)) (decG3_encG3 _ o))

theorem Laws.Encode.vballot (o : G3) : Laws.Encode.Statement (.vballot o) := fun _ _ =>
  (decodeOp_encG3 0x4E o none).trans (congrArg (fun o => some (Instr.vballot o)) (decG3_encG3 _ o))

theorem Laws.Encode.s2v (o : G3) : Laws.Encode.Statement (.s2v o) := fun _ _ =>
  (decodeOp_encG3 0x4F o none).trans (congrArg (fun o => some (Instr.s2v o)) (decG3_encG3 _ o))

theorem Laws.Encode.pmov (o : G3) : Laws.Encode.Statement (.pmov o) := fun _ _ =>
  (decodeOp_encG3 0x50 o none).trans (congrArg (fun o => some (Instr.pmov o)) (decG3_encG3 _ o))

theorem Laws.Encode.plog (o : G3) : Laws.Encode.Statement (.plog o) := fun _ _ =>
  (decodeOp_encG3 0x51 o none).trans (congrArg (fun o => some (Instr.plog o)) (decG3_encG3 _ o))

theorem Laws.Encode.pcnt (o : G3) : Laws.Encode.Statement (.pcnt o) := fun _ _ =>
  (decodeOp_encG3 0x52 o none).trans (congrArg (fun o => some (Instr.pcnt o)) (decG3_encG3 _ o))

theorem Laws.Encode.pfirst (o : G3) : Laws.Encode.Statement (.pfirst o) := fun _ _ =>
  (decodeOp_encG3 0x53 o none).trans (congrArg (fun o => some (Instr.pfirst o)) (decG3_encG3 _ o))

theorem Laws.Encode.xset (o : GI) : Laws.Encode.Statement (.xset o) := fun _ _ =>
  (decodeOp_encGI 0x54 o none).trans (congrArg (fun o => some (Instr.xset o)) (decGI_encGI _ o))

theorem Laws.Encode.vldx (o : G3) : Laws.Encode.Statement (.vldx o) := fun _ _ =>
  (decodeOp_encG3 0x55 o none).trans (congrArg (fun o => some (Instr.vldx o)) (decG3_encG3 _ o))

theorem Laws.Encode.vstx (o : G3) : Laws.Encode.Statement (.vstx o) := fun _ _ =>
  (decodeOp_encG3 0x56 o none).trans (congrArg (fun o => some (Instr.vstx o)) (decG3_encG3 _ o))

theorem Laws.Encode.jget (o : G3) : Laws.Encode.Statement (.jget o) := fun _ _ =>
  (decodeOp_encG3 0x57 o none).trans (congrArg (fun o => some (Instr.jget o)) (decG3_encG3 _ o))

theorem Laws.Encode.vfadd (o : G3) : Laws.Encode.Statement (.vfadd o) := fun _ _ =>
  (decodeOp_encG3 0x60 o none).trans (congrArg (fun o => some (Instr.vfadd o)) (decG3_encG3 _ o))

theorem Laws.Encode.vfsub (o : G3) : Laws.Encode.Statement (.vfsub o) := fun _ _ =>
  (decodeOp_encG3 0x61 o none).trans (congrArg (fun o => some (Instr.vfsub o)) (decG3_encG3 _ o))

theorem Laws.Encode.vfmul (o : G3) : Laws.Encode.Statement (.vfmul o) := fun _ _ =>
  (decodeOp_encG3 0x62 o none).trans (congrArg (fun o => some (Instr.vfmul o)) (decG3_encG3 _ o))

theorem Laws.Encode.vfma (o : G4) (x : Ext) : Laws.Encode.Statement (.vfma o x) := fun _ _ =>
  (decodeOp_encG4 0x63 o x).trans (congrArg (fun o => some (Instr.vfma o x)) (decG4_encG4 _ o))

theorem Laws.Encode.vfms (o : G4) (x : Ext) : Laws.Encode.Statement (.vfms o x) := fun _ _ =>
  (decodeOp_encG4 0x64 o x).trans (congrArg (fun o => some (Instr.vfms o x)) (decG4_encG4 _ o))

theorem Laws.Encode.vfnma (o : G4) (x : Ext) : Laws.Encode.Statement (.vfnma o x) := fun _ _ =>
  (decodeOp_encG4 0x65 o x).trans (congrArg (fun o => some (Instr.vfnma o x)) (decG4_encG4 _ o))

theorem Laws.Encode.vfnms (o : G4) (x : Ext) : Laws.Encode.Statement (.vfnms o x) := fun _ _ =>
  (decodeOp_encG4 0x66 o x).trans (congrArg (fun o => some (Instr.vfnms o x)) (decG4_encG4 _ o))

theorem Laws.Encode.vfmin (o : G3) : Laws.Encode.Statement (.vfmin o) := fun _ _ =>
  (decodeOp_encG3 0x67 o none).trans (congrArg (fun o => some (Instr.vfmin o)) (decG3_encG3 _ o))

theorem Laws.Encode.vfmax (o : G3) : Laws.Encode.Statement (.vfmax o) := fun _ _ =>
  (decodeOp_encG3 0x68 o none).trans (congrArg (fun o => some (Instr.vfmax o)) (decG3_encG3 _ o))

theorem Laws.Encode.vfcmp (o : G3) : Laws.Encode.Statement (.vfcmp o) := fun _ _ =>
  (decodeOp_encG3 0x69 o none).trans (congrArg (fun o => some (Instr.vfcmp o)) (decG3_encG3 _ o))

theorem Laws.Encode.vfclass (o : G3) : Laws.Encode.Statement (.vfclass o) := fun _ _ =>
  (decodeOp_encG3 0x6A o none).trans (congrArg (fun o => some (Instr.vfclass o)) (decG3_encG3 _ o))

theorem Laws.Encode.vfdiv (o : G3) : Laws.Encode.Statement (.vfdiv o) := fun _ _ =>
  (decodeOp_encG3 0x6B o none).trans (congrArg (fun o => some (Instr.vfdiv o)) (decG3_encG3 _ o))

theorem Laws.Encode.vfsqrt (o : G3) : Laws.Encode.Statement (.vfsqrt o) := fun _ _ =>
  (decodeOp_encG3 0x6C o none).trans (congrArg (fun o => some (Instr.vfsqrt o)) (decG3_encG3 _ o))

theorem Laws.Encode.vfrcp (o : G3) : Laws.Encode.Statement (.vfrcp o) := fun _ _ =>
  (decodeOp_encG3 0x6D o none).trans (congrArg (fun o => some (Instr.vfrcp o)) (decG3_encG3 _ o))

theorem Laws.Encode.vfrsq (o : G3) : Laws.Encode.Statement (.vfrsq o) := fun _ _ =>
  (decodeOp_encG3 0x6E o none).trans (congrArg (fun o => some (Instr.vfrsq o)) (decG3_encG3 _ o))

theorem Laws.Encode.vfexp2 (o : G3) : Laws.Encode.Statement (.vfexp2 o) := fun _ _ =>
  (decodeOp_encG3 0x6F o none).trans (congrArg (fun o => some (Instr.vfexp2 o)) (decG3_encG3 _ o))

theorem Laws.Encode.vflog2 (o : G3) : Laws.Encode.Statement (.vflog2 o) := fun _ _ =>
  (decodeOp_encG3 0x70 o none).trans (congrArg (fun o => some (Instr.vflog2 o)) (decG3_encG3 _ o))

theorem Laws.Encode.vfsin (o : G3) : Laws.Encode.Statement (.vfsin o) := fun _ _ =>
  (decodeOp_encG3 0x71 o none).trans (congrArg (fun o => some (Instr.vfsin o)) (decG3_encG3 _ o))

theorem Laws.Encode.vfcos (o : G3) : Laws.Encode.Statement (.vfcos o) := fun _ _ =>
  (decodeOp_encG3 0x72 o none).trans (congrArg (fun o => some (Instr.vfcos o)) (decG3_encG3 _ o))

theorem Laws.Encode.vftanh (o : G3) : Laws.Encode.Statement (.vftanh o) := fun _ _ =>
  (decodeOp_encG3 0x73 o none).trans (congrArg (fun o => some (Instr.vftanh o)) (decG3_encG3 _ o))

theorem Laws.Encode.vfsig (o : G3) : Laws.Encode.Statement (.vfsig o) := fun _ _ =>
  (decodeOp_encG3 0x74 o none).trans (congrArg (fun o => some (Instr.vfsig o)) (decG3_encG3 _ o))

theorem Laws.Encode.vfrnd (o : G3) : Laws.Encode.Statement (.vfrnd o) := fun _ _ =>
  (decodeOp_encG3 0x75 o none).trans (congrArg (fun o => some (Instr.vfrnd o)) (decG3_encG3 _ o))

theorem Laws.Encode.vfscl (o : G3) : Laws.Encode.Statement (.vfscl o) := fun _ _ =>
  (decodeOp_encG3 0x76 o none).trans (congrArg (fun o => some (Instr.vfscl o)) (decG3_encG3 _ o))

theorem Laws.Encode.vfcvt (o : G3) : Laws.Encode.Statement (.vfcvt o) := fun _ _ =>
  (decodeOp_encG3 0x77 o none).trans (congrArg (fun o => some (Instr.vfcvt o)) (decG3_encG3 _ o))

theorem Laws.Encode.vfcvti (o : G3) : Laws.Encode.Statement (.vfcvti o) := fun _ _ =>
  (decodeOp_encG3 0x78 o none).trans (congrArg (fun o => some (Instr.vfcvti o)) (decG3_encG3 _ o))

theorem Laws.Encode.vqsc (o : G3) : Laws.Encode.Statement (.vqsc o) := fun _ _ =>
  (decodeOp_encG3 0x79 o none).trans (congrArg (fun o => some (Instr.vqsc o)) (decG3_encG3 _ o))

theorem Laws.Encode.vqnt (o : G3) : Laws.Encode.Statement (.vqnt o) := fun _ _ =>
  (decodeOp_encG3 0x7A o none).trans (congrArg (fun o => some (Instr.vqnt o)) (decG3_encG3 _ o))

theorem Laws.Encode.vdqnt (o : G3) : Laws.Encode.Statement (.vdqnt o) := fun _ _ =>
  (decodeOp_encG3 0x7B o none).trans (congrArg (fun o => some (Instr.vdqnt o)) (decG3_encG3 _ o))

theorem Laws.Encode.mld (o : M) (x : Ext) : Laws.Encode.Statement (.mld o x) := fun _ _ =>
  (decodeOp_encM 0x90 o x).trans (congrArg (fun o => some (Instr.mld o x)) (decM_encM _ o))

theorem Laws.Encode.mldsc (o : M) : Laws.Encode.Statement (.mldsc o) := fun _ _ =>
  (decodeOp_encM 0x91 o none).trans (congrArg (fun o => some (Instr.mldsc o)) (decM_encM _ o))

theorem Laws.Encode.mswp (o : G3) : Laws.Encode.Statement (.mswp o) := fun _ _ =>
  (decodeOp_encG3 0x92 o none).trans (congrArg (fun o => some (Instr.mswp o)) (decG3_encG3 _ o))

theorem Laws.Encode.mmac (o : G3) (x : Ext) : Laws.Encode.Statement (.mmac o x) := fun _ _ =>
  (decodeOp_encG3 0x93 o x).trans (congrArg (fun o => some (Instr.mmac o x)) (decG3_encG3 _ o))

theorem Laws.Encode.mmacz (o : G3) (x : Ext) : Laws.Encode.Statement (.mmacz o x) := fun _ _ =>
  (decodeOp_encG3 0x94 o x).trans (congrArg (fun o => some (Instr.mmacz o x)) (decG3_encG3 _ o))

theorem Laws.Encode.mbudUsed (o : G3) : Laws.Encode.Statement (.mbudUsed o) := by
  intro h _
  let w := encG3 0x95 o
  have e : decodeOp w none = match fnOf (decG3 w).mod with | 0 => some (.mbudUsed (decG3 w)) | 1 => some (.mbudCred (decG3 w)) | _ => none := decodeOp_encG3 0x95 o none
  have hd : decG3 w = o := decG3_encG3 _ _
  have hv : fnOf o.mod = 0 := by
    have h' : (zOk o.g && o.mod == 0 && o.ty == 0 && sOk o.vd && o.va == 0 && o.vb == 0) = true := h
    simp at h'
    simp [h', fnOf]
  change decodeOp w none = _
  rw [e, hd, hv]
  rfl

theorem Laws.Encode.mbudCred (o : G3) : Laws.Encode.Statement (.mbudCred o) := by
  intro h _
  let w := encG3 0x95 o
  have e : decodeOp w none = match fnOf (decG3 w).mod with | 0 => some (.mbudUsed (decG3 w)) | 1 => some (.mbudCred (decG3 w)) | _ => none := decodeOp_encG3 0x95 o none
  have hd : decG3 w = o := decG3_encG3 _ _
  have hv : fnOf o.mod = 1 := by
    have h' : (zOk o.g && o.mod == 8 && o.ty == 0 && sOk o.vd && o.va == 0 && o.vb == 0) = true := h
    simp at h'
    simp [h', fnOf]
  change decodeOp w none = _
  rw [e, hd, hv]
  rfl

theorem Laws.Encode.mwait (o : G3) : Laws.Encode.Statement (.mwait o) := fun _ _ =>
  (decodeOp_encG3 0x96 o none).trans (congrArg (fun o => some (Instr.mwait o)) (decG3_encG3 _ o))

theorem Laws.Encode.ld (o : M) (x : Ext) : Laws.Encode.Statement (.ld o x) := fun _ _ =>
  (decodeOp_encM 0xA0 o x).trans (congrArg (fun o => some (Instr.ld o x)) (decM_encM _ o))

theorem Laws.Encode.st (o : M) (x : Ext) : Laws.Encode.Statement (.st o x) := fun _ _ =>
  (decodeOp_encM 0xA1 o x).trans (congrArg (fun o => some (Instr.st o x)) (decM_encM _ o))

theorem Laws.Encode.ldg (o : MG) : Laws.Encode.Statement (.ldg o) := fun _ _ =>
  (decodeOp_encMG 0xA2 o none).trans (decodeMG (encMG_zero _ o) (fun o => .ldg o) (decMG_encMG _ o))

theorem Laws.Encode.stg (o : MG) : Laws.Encode.Statement (.stg o) := fun _ _ =>
  (decodeOp_encMG 0xA3 o none).trans (decodeMG (encMG_zero _ o) (fun o => .stg o) (decMG_encMG _ o))

theorem Laws.Encode.ldq (o : M) (x : Ext) : Laws.Encode.Statement (.ldq o x) := fun _ _ =>
  (decodeOp_encM 0xA4 o x).trans (congrArg (fun o => some (Instr.ldq o x)) (decM_encM _ o))

theorem Laws.Encode.stq (o : M) (x : Ext) : Laws.Encode.Statement (.stq o x) := fun _ _ =>
  (decodeOp_encM 0xA5 o x).trans (congrArg (fun o => some (Instr.stq o x)) (decM_encM _ o))

theorem Laws.Encode.cpIn (o : M) (x : Ext) : Laws.Encode.Statement (.cpIn o x) := fun _ _ =>
  (decodeOp_encM 0xA6 o x).trans (congrArg (fun o => some (Instr.cpIn o x)) (decM_encM _ o))

theorem Laws.Encode.cpOut (o : M) (x : Ext) : Laws.Encode.Statement (.cpOut o x) := fun _ _ =>
  (decodeOp_encM 0xA7 o x).trans (congrArg (fun o => some (Instr.cpOut o x)) (decM_encM _ o))

theorem Laws.Encode.cpTile (o : M) (x : Ext) : Laws.Encode.Statement (.cpTile o x) := fun _ _ =>
  (decodeOp_encM 0xA8 o x).trans (congrArg (fun o => some (Instr.cpTile o x)) (decM_encM _ o))

theorem Laws.Encode.bcbExp (o : G3) : Laws.Encode.Statement (.bcbExp o) := fun _ _ =>
  (decodeOp_encG3 0xA9 o none).trans (congrArg (fun o => some (Instr.bcbExp o)) (decG3_encG3 _ o))

theorem Laws.Encode.bcbWt (o : G3) : Laws.Encode.Statement (.bcbWt o) := fun _ _ =>
  (decodeOp_encG3 0xAA o none).trans (congrArg (fun o => some (Instr.bcbWt o)) (decG3_encG3 _ o))

theorem Laws.Encode.pref (o : M) (x : Ext) : Laws.Encode.Statement (.pref o x) := fun _ _ =>
  (decodeOp_encM 0xAB o x).trans (congrArg (fun o => some (Instr.pref o x)) (decM_encM _ o))

theorem Laws.Encode.resBind (o : G3) : Laws.Encode.Statement (.resBind o) := fun _ _ =>
  (decodeOp_encG3 0xAC o none).trans (congrArg (fun o => some (Instr.resBind o)) (decG3_encG3 _ o))

theorem Laws.Encode.resSetPrio (o : G3) : Laws.Encode.Statement (.resSetPrio o) := by
  intro h _
  let w := encG3 0xAD o
  have e : decodeOp w none = match fnOf (decG3 w).mod with | 0 => some (.resSetPrio (decG3 w)) | 1 => some (.resSetLifeS (decG3 w)) | 2 => some (.resSetLifeM (decG3 w)) | _ => none := decodeOp_encG3 0xAD o none
  have hd : decG3 w = o := decG3_encG3 _ _
  have hv : fnOf o.mod = 0 := by
    have h' : (zOk o.g && o.mod == 0 && o.vd == 0 && sOk o.va && o.vb == 0) = true := h
    simp at h'
    simp [h', fnOf]
  change decodeOp w none = _
  rw [e, hd, hv]
  rfl

theorem Laws.Encode.resSetLifeS (o : G3) : Laws.Encode.Statement (.resSetLifeS o) := by
  intro h _
  let w := encG3 0xAD o
  have e : decodeOp w none = match fnOf (decG3 w).mod with | 0 => some (.resSetPrio (decG3 w)) | 1 => some (.resSetLifeS (decG3 w)) | 2 => some (.resSetLifeM (decG3 w)) | _ => none := decodeOp_encG3 0xAD o none
  have hd : decG3 w = o := decG3_encG3 _ _
  have hv : fnOf o.mod = 1 := by
    have h' : (zOk o.g && o.mod == 8 && o.ty.toNat ≤ 2 && sOk o.vd && (o.ty == 2 || o.vd == 0) && sOk o.va && sOk o.vb) = true := h
    simp at h'
    simp [h', fnOf]
  change decodeOp w none = _
  rw [e, hd, hv]
  rfl

theorem Laws.Encode.resSetLifeM (o : G3) : Laws.Encode.Statement (.resSetLifeM o) := by
  intro h _
  let w := encG3 0xAD o
  have e : decodeOp w none = match fnOf (decG3 w).mod with | 0 => some (.resSetPrio (decG3 w)) | 1 => some (.resSetLifeS (decG3 w)) | 2 => some (.resSetLifeM (decG3 w)) | _ => none := decodeOp_encG3 0xAD o none
  have hd : decG3 w = o := decG3_encG3 _ _
  have hv : fnOf o.mod = 2 := by
    have h' : (zOk o.g && o.mod == 16 && o.ty.toNat ≤ 2 && sOk o.vd && (o.ty == 2 || o.vd == 0) && sOk o.va && sOk o.vb) = true := h
    simp at h'
    simp [h', fnOf]
  change decodeOp w none = _
  rw [e, hd, hv]
  rfl

theorem Laws.Encode.resDrop (o : G3) : Laws.Encode.Statement (.resDrop o) := fun _ _ =>
  (decodeOp_encG3 0xAE o none).trans (congrArg (fun o => some (Instr.resDrop o)) (decG3_encG3 _ o))

theorem Laws.Encode.xdma (o : M) (x : Ext) : Laws.Encode.Statement (.xdma o x) := fun _ _ =>
  (decodeOp_encM 0xAF o x).trans (congrArg (fun o => some (Instr.xdma o x)) (decM_encM _ o))

theorem Laws.Encode.wadr (o : M) : Laws.Encode.Statement (.wadr o) := fun _ _ =>
  (decodeOp_encM 0xB0 o none).trans (congrArg (fun o => some (Instr.wadr o)) (decM_encM _ o))

theorem Laws.Encode.am (o : MG) (x : Ext) : Laws.Encode.Statement (.am o x) := fun _ _ =>
  (decodeOp_encMG 0xC0 o x).trans (decodeMG (encMG_zero _ o) (fun o => .am o x) (decMG_encMG _ o))

theorem Laws.Encode.red (o : MG) (x : Ext) : Laws.Encode.Statement (.red o x) := fun _ _ =>
  (decodeOp_encMG 0xC1 o x).trans (decodeMG (encMG_zero _ o) (fun o => .red o x) (decMG_encMG _ o))

theorem Laws.Encode.amcas (o : MG) (x : Ext) : Laws.Encode.Statement (.amcas o x) := fun _ _ =>
  (decodeOp_encMG 0xC2 o x).trans (decodeMG (encMG_zero _ o) (fun o => .amcas o x) (decMG_encMG _ o))

theorem Laws.Encode.amgts (o : MG) (x : Ext) : Laws.Encode.Statement (.amgts o x) := fun _ _ =>
  (decodeOp_encMG 0xC3 o x).trans (decodeMG (encMG_zero _ o) (fun o => .amgts o x) (decMG_encMG _ o))

theorem Laws.Encode.amvcs (o : MG) (x : Ext) : Laws.Encode.Statement (.amvcs o x) := fun _ _ =>
  (decodeOp_encMG 0xC4 o x).trans (decodeMG (encMG_zero _ o) (fun o => .amvcs o x) (decMG_encMG _ o))

theorem Laws.Encode.ampcs (o : MG) (x : Ext) : Laws.Encode.Statement (.ampcs o x) := fun _ _ =>
  (decodeOp_encMG 0xC5 o x).trans (decodeMG (encMG_zero _ o) (fun o => .ampcs o x) (decMG_encMG _ o))

theorem Laws.Encode.amf (o : MG) (x : Ext) : Laws.Encode.Statement (.amf o x) := fun _ _ =>
  (decodeOp_encMG 0xC6 o x).trans (decodeMG (encMG_zero _ o) (fun o => .amf o x) (decMG_encMG _ o))

theorem Laws.Encode.redf (o : MG) (x : Ext) : Laws.Encode.Statement (.redf o x) := fun _ _ =>
  (decodeOp_encMG 0xC7 o x).trans (decodeMG (encMG_zero _ o) (fun o => .redf o x) (decMG_encMG _ o))

theorem Laws.Encode.redo (o : MG) (x : Ext) : Laws.Encode.Statement (.redo o x) := fun _ _ =>
  (decodeOp_encMG 0xC8 o x).trans (decodeMG (encMG_zero _ o) (fun o => .redo o x) (decMG_encMG _ o))

theorem Laws.Encode.lsa (o : M) : Laws.Encode.Statement (.lsa o) := fun _ _ =>
  (decodeOp_encM 0xC9 o none).trans (congrArg (fun o => some (Instr.lsa o)) (decM_encM _ o))

theorem Laws.Encode.lsr (o : M) : Laws.Encode.Statement (.lsr o) := fun _ _ =>
  (decodeOp_encM 0xCA o none).trans (congrArg (fun o => some (Instr.lsr o)) (decM_encM _ o))

theorem Laws.Encode.barIniArv (o : G3) : Laws.Encode.Statement (.barIniArv o) := by
  intro h _
  let w := encG3 0xD0 o
  have e : decodeOp w none = match fnOf (decG3 w).mod with | 0 => some (.barIniArv (decG3 w)) | 1 => some (.barIniByte (decG3 w)) | 2 => some (.barIniFree (decG3 w)) | _ => none := decodeOp_encG3 0xD0 o none
  have hd : decG3 w = o := decG3_encG3 _ _
  have hv : fnOf o.mod = 0 := by
    have h' : (legalBar o 0 && o.vd == 0 && sOk o.vb) = true := h
    simp [legalBar] at h'
    simp [h']
  change decodeOp w none = _
  rw [e, hd, hv]
  rfl

theorem Laws.Encode.barIniByte (o : G3) : Laws.Encode.Statement (.barIniByte o) := by
  intro h _
  let w := encG3 0xD0 o
  have e : decodeOp w none = match fnOf (decG3 w).mod with | 0 => some (.barIniArv (decG3 w)) | 1 => some (.barIniByte (decG3 w)) | 2 => some (.barIniFree (decG3 w)) | _ => none := decodeOp_encG3 0xD0 o none
  have hd : decG3 w = o := decG3_encG3 _ _
  have hv : fnOf o.mod = 1 := by
    have h' : (legalBar o 1 && o.vd == 0 && o.vb == 0) = true := h
    simp [legalBar] at h'
    simp [h']
  change decodeOp w none = _
  rw [e, hd, hv]
  rfl

theorem Laws.Encode.barIniFree (o : G3) : Laws.Encode.Statement (.barIniFree o) := by
  intro h _
  let w := encG3 0xD0 o
  have e : decodeOp w none = match fnOf (decG3 w).mod with | 0 => some (.barIniArv (decG3 w)) | 1 => some (.barIniByte (decG3 w)) | 2 => some (.barIniFree (decG3 w)) | _ => none := decodeOp_encG3 0xD0 o none
  have hd : decG3 w = o := decG3_encG3 _ _
  have hv : fnOf o.mod = 2 := by
    have h' : (legalBar o 2 && o.vd == 0 && o.vb == 0) = true := h
    simp [legalBar] at h'
    simp [h']
  change decodeOp w none = _
  rw [e, hd, hv]
  rfl

theorem Laws.Encode.barArv (o : G3) : Laws.Encode.Statement (.barArv o) := fun _ _ =>
  (decodeOp_encG3 0xD1 o none).trans (congrArg (fun o => some (Instr.barArv o)) (decG3_encG3 _ o))

theorem Laws.Encode.barWt (o : G3) : Laws.Encode.Statement (.barWt o) := fun _ _ =>
  (decodeOp_encG3 0xD2 o none).trans (congrArg (fun o => some (Instr.barWt o)) (decG3_encG3 _ o))

theorem Laws.Encode.barSync (o : G3) : Laws.Encode.Statement (.barSync o) := fun _ _ =>
  (decodeOp_encG3 0xD3 o none).trans (congrArg (fun o => some (Instr.barSync o)) (decG3_encG3 _ o))

theorem Laws.Encode.barCl (o : G3) : Laws.Encode.Statement (.barCl o) := fun _ _ =>
  (decodeOp_encG3 0xD4 o none).trans (congrArg (fun o => some (Instr.barCl o)) (decG3_encG3 _ o))

theorem Laws.Encode.barDie (o : G3) : Laws.Encode.Statement (.barDie o) := fun _ _ =>
  (decodeOp_encG3 0xD5 o none).trans (congrArg (fun o => some (Instr.barDie o)) (decG3_encG3 _ o))

theorem Laws.Encode.fenceRel (o : G3) : Laws.Encode.Statement (.fenceRel o) := by
  intro h _
  let w := encG3 0xD6 o
  have e : decodeOp w none = match fnOf (decG3 w).mod with | 0 => some (.fenceRel (decG3 w)) | 1 => some (.fenceAcq (decG3 w)) | 2 => some (.fenceFull (decG3 w)) | 3 => some (.fenceRacq (decG3 w)) | _ => none := decodeOp_encG3 0xD6 o none
  have hd : decG3 w = o := decG3_encG3 _ _
  have hv : fnOf o.mod = 0 := by
    have h' : (zOk o.g && o.ty.toNat ≤ 5 && o.mod == 0 && o.vd == 0 && o.va == 0 && o.vb == 0) = true := h
    simp at h'
    simp [h', fnOf]
  change decodeOp w none = _
  rw [e, hd, hv]
  rfl

theorem Laws.Encode.fenceAcq (o : G3) : Laws.Encode.Statement (.fenceAcq o) := by
  intro h _
  let w := encG3 0xD6 o
  have e : decodeOp w none = match fnOf (decG3 w).mod with | 0 => some (.fenceRel (decG3 w)) | 1 => some (.fenceAcq (decG3 w)) | 2 => some (.fenceFull (decG3 w)) | 3 => some (.fenceRacq (decG3 w)) | _ => none := decodeOp_encG3 0xD6 o none
  have hd : decG3 w = o := decG3_encG3 _ _
  have hv : fnOf o.mod = 1 := by
    have h' : (zOk o.g && o.ty.toNat ≤ 5 && o.mod == 8 && o.vd == 0 && o.va == 0 && o.vb == 0) = true := h
    simp at h'
    simp [h', fnOf]
  change decodeOp w none = _
  rw [e, hd, hv]
  rfl

theorem Laws.Encode.fenceFull (o : G3) : Laws.Encode.Statement (.fenceFull o) := by
  intro h _
  let w := encG3 0xD6 o
  have e : decodeOp w none = match fnOf (decG3 w).mod with | 0 => some (.fenceRel (decG3 w)) | 1 => some (.fenceAcq (decG3 w)) | 2 => some (.fenceFull (decG3 w)) | 3 => some (.fenceRacq (decG3 w)) | _ => none := decodeOp_encG3 0xD6 o none
  have hd : decG3 w = o := decG3_encG3 _ _
  have hv : fnOf o.mod = 2 := by
    have h' : (zOk o.g && o.ty.toNat ≤ 5 && o.mod == 16 && o.vd == 0 && o.va == 0 && o.vb == 0) = true := h
    simp at h'
    simp [h', fnOf]
  change decodeOp w none = _
  rw [e, hd, hv]
  rfl

theorem Laws.Encode.fenceRacq (o : G3) : Laws.Encode.Statement (.fenceRacq o) := by
  intro h _
  let w := encG3 0xD6 o
  have e : decodeOp w none = match fnOf (decG3 w).mod with | 0 => some (.fenceRel (decG3 w)) | 1 => some (.fenceAcq (decG3 w)) | 2 => some (.fenceFull (decG3 w)) | 3 => some (.fenceRacq (decG3 w)) | _ => none := decodeOp_encG3 0xD6 o none
  have hd : decG3 w = o := decG3_encG3 _ _
  have hv : fnOf o.mod = 3 := by
    have h' : (zOk o.g && o.ty.toNat ≤ 5 && o.mod == 24 && sOk o.vd && o.va == 0 && sOk o.vb) = true := h
    simp at h'
    simp [h', fnOf]
  change decodeOp w none = _
  rw [e, hd, hv]
  rfl

theorem Laws.Encode.futNew (o : M) : Laws.Encode.Statement (.futNew o) := by
  intro h _
  let w := encM 0xD7 o
  have e : decodeOp w none = match (decM w).sz.toNat with | 0 => some (.futNew (decM w)) | 1 => some (.futNewBind (decM w)) | _ => none := decodeOp_encM 0xD7 o none
  have hd : decM w = o := decM_encM _ _
  have hv : o.sz.toNat = 0 := by
    have h' : (legalFut o 0 false && sOk o.vd) = true := h
    simp [legalFut] at h'
    simp [h']
  change decodeOp w none = _
  rw [e, hd, hv]
  rfl

theorem Laws.Encode.futNewBind (o : M) : Laws.Encode.Statement (.futNewBind o) := by
  intro h _
  let w := encM 0xD7 o
  have e : decodeOp w none = match (decM w).sz.toNat with | 0 => some (.futNew (decM w)) | 1 => some (.futNewBind (decM w)) | _ => none := decodeOp_encM 0xD7 o none
  have hd : decM w = o := decM_encM _ _
  have hv : o.sz.toNat = 1 := by
    have h' : (legalFut o 1 false && sOk o.vd) = true := h
    simp [legalFut] at h'
    simp [h']
  change decodeOp w none = _
  rw [e, hd, hv]
  rfl

theorem Laws.Encode.futGet (o : M) : Laws.Encode.Statement (.futGet o) := fun _ _ =>
  (decodeOp_encM 0xD8 o none).trans (congrArg (fun o => some (Instr.futGet o)) (decM_encM _ o))

theorem Laws.Encode.futSet (o : M) : Laws.Encode.Statement (.futSet o) := by
  intro h _
  let w := encM 0xD9 o
  have e : decodeOp w none = match (decM w).sz.toNat with | 0 => some (.futSet (decM w)) | 1 => some (.futSetAbn (decM w)) | _ => none := decodeOp_encM 0xD9 o none
  have hd : decM w = o := decM_encM _ _
  have hv : o.sz.toNat = 0 := by
    have h' : (legalFut o 0 true && sOk o.vd) = true := h
    simp [legalFut] at h'
    simp [h']
  change decodeOp w none = _
  rw [e, hd, hv]
  rfl

theorem Laws.Encode.futSetAbn (o : M) : Laws.Encode.Statement (.futSetAbn o) := by
  intro h _
  let w := encM 0xD9 o
  have e : decodeOp w none = match (decM w).sz.toNat with | 0 => some (.futSet (decM w)) | 1 => some (.futSetAbn (decM w)) | _ => none := decodeOp_encM 0xD9 o none
  have hd : decM w = o := decM_encM _ _
  have hv : o.sz.toNat = 1 := by
    have h' : (legalFut o 1 true && o.vd == 0) = true := h
    simp [legalFut] at h'
    simp [h']
  change decodeOp w none = _
  rw [e, hd, hv]
  rfl

theorem Laws.Encode.futReg (o : M) : Laws.Encode.Statement (.futReg o) := fun _ _ =>
  (decodeOp_encM 0xDA o none).trans (congrArg (fun o => some (Instr.futReg o)) (decM_encM _ o))

theorem Laws.Encode.tskPark (o : M) : Laws.Encode.Statement (.tskPark o) := fun _ _ =>
  (decodeOp_encM 0xDB o none).trans (congrArg (fun o => some (Instr.tskPark o)) (decM_encM _ o))

theorem Laws.Encode.tskSpawn (o : M) : Laws.Encode.Statement (.tskSpawn o) := fun _ _ =>
  (decodeOp_encM 0xDC o none).trans (congrArg (fun o => some (Instr.tskSpawn o)) (decM_encM _ o))

theorem Laws.Encode.tget (o : G3) : Laws.Encode.Statement (.tget o) := fun _ _ =>
  (decodeOp_encG3 0xE0 o none).trans (congrArg (fun o => some (Instr.tget o)) (decG3_encG3 _ o))

theorem Laws.Encode.cycCnt (o : G3) : Laws.Encode.Statement (.cycCnt o) := by
  intro h _
  let w := encG3 0xE1 o
  have e : decodeOp w none = match fnOf (decG3 w).mod with | 0 => some (.cycCnt (decG3 w)) | 1 => some (.cycMhz (decG3 w)) | _ => none := decodeOp_encG3 0xE1 o none
  have hd : decG3 w = o := decG3_encG3 _ _
  have hv : fnOf o.mod = 0 := by
    have h' : (zOk o.g && o.ty == 0 && o.mod == 0 && o.va == 0 && o.vb == 0 && sOk o.vd) = true := h
    simp at h'
    simp [h', fnOf]
  change decodeOp w none = _
  rw [e, hd, hv]
  rfl

theorem Laws.Encode.cycMhz (o : G3) : Laws.Encode.Statement (.cycMhz o) := by
  intro h _
  let w := encG3 0xE1 o
  have e : decodeOp w none = match fnOf (decG3 w).mod with | 0 => some (.cycCnt (decG3 w)) | 1 => some (.cycMhz (decG3 w)) | _ => none := decodeOp_encG3 0xE1 o none
  have hd : decG3 w = o := decG3_encG3 _ _
  have hv : fnOf o.mod = 1 := by
    have h' : (zOk o.g && o.ty == 0 && o.mod == 8 && o.va == 0 && o.vb == 0 && sOk o.vd) = true := h
    simp at h'
    simp [h', fnOf]
  change decodeOp w none = _
  rw [e, hd, hv]
  rfl

theorem Laws.Encode.monMark (o : GI) : Laws.Encode.Statement (.monMark o) := fun _ _ =>
  (decodeOp_encGI 0xE2 o none).trans (congrArg (fun o => some (Instr.monMark o)) (decGI_encGI _ o))

theorem Laws.Encode.bist (o : GI) : Laws.Encode.Statement (.bist o) := fun _ _ =>
  (decodeOp_encGI 0xE3 o none).trans (congrArg (fun o => some (Instr.bist o)) (decGI_encGI _ o))

theorem Laws.Encode.trap (o : GI) : Laws.Encode.Statement (.trap o) := fun _ _ =>
  (decodeOp_encGI 0xE8 o none).trans (congrArg (fun o => some (Instr.trap o)) (decGI_encGI _ o))

theorem Laws.Encode.rett (o : G3) : Laws.Encode.Statement (.rett o) := by
  intro h _
  let w := encG3 0xE9 o
  have e : decodeOp w none = match fnOf (decG3 w).mod with | 0 => some (.rett (decG3 w)) | 1 => some (.rettSkip (decG3 w)) | 2 => some (.rettTo (decG3 w)) | _ => none := decodeOp_encG3 0xE9 o none
  have hd : decG3 w = o := decG3_encG3 _ _
  have hv : fnOf o.mod = 0 := by
    have h' : (zOk o.g && o.ty == 0 && o.mod == 0 && o.vd == 0 && o.va == 0 && o.vb == 0) = true := h
    simp at h'
    simp [h', fnOf]
  change decodeOp w none = _
  rw [e, hd, hv]
  rfl

theorem Laws.Encode.rettSkip (o : G3) : Laws.Encode.Statement (.rettSkip o) := by
  intro h _
  let w := encG3 0xE9 o
  have e : decodeOp w none = match fnOf (decG3 w).mod with | 0 => some (.rett (decG3 w)) | 1 => some (.rettSkip (decG3 w)) | 2 => some (.rettTo (decG3 w)) | _ => none := decodeOp_encG3 0xE9 o none
  have hd : decG3 w = o := decG3_encG3 _ _
  have hv : fnOf o.mod = 1 := by
    have h' : (zOk o.g && o.ty == 0 && o.mod == 8 && o.vd == 0 && o.va == 0 && o.vb == 0) = true := h
    simp at h'
    simp [h', fnOf]
  change decodeOp w none = _
  rw [e, hd, hv]
  rfl

theorem Laws.Encode.rettTo (o : G3) : Laws.Encode.Statement (.rettTo o) := by
  intro h _
  let w := encG3 0xE9 o
  have e : decodeOp w none = match fnOf (decG3 w).mod with | 0 => some (.rett (decG3 w)) | 1 => some (.rettSkip (decG3 w)) | 2 => some (.rettTo (decG3 w)) | _ => none := decodeOp_encG3 0xE9 o none
  have hd : decG3 w = o := decG3_encG3 _ _
  have hv : fnOf o.mod = 2 := by
    have h' : (zOk o.g && o.ty == 0 && o.mod == 16 && o.vd == 0 && sOk o.va && o.vb == 0) = true := h
    simp at h'
    simp [h', fnOf]
  change decodeOp w none = _
  rw [e, hd, hv]
  rfl

theorem Laws.Encode.sysRd (o : GI) : Laws.Encode.Statement (.sysRd o) := fun _ _ =>
  (decodeOp_encGI 0xEA o none).trans (congrArg (fun o => some (Instr.sysRd o)) (decGI_encGI _ o))

theorem Laws.Encode.sysWr (o : GI) : Laws.Encode.Statement (.sysWr o) := fun _ _ =>
  (decodeOp_encGI 0xEB o none).trans (congrArg (fun o => some (Instr.sysWr o)) (decGI_encGI _ o))

theorem Laws.Encode.ctxSave (o : M) : Laws.Encode.Statement (.ctxSave o) := fun _ _ =>
  (decodeOp_encM 0xEC o none).trans (congrArg (fun o => some (Instr.ctxSave o)) (decM_encM _ o))

theorem Laws.Encode.ctxLoad (o : M) : Laws.Encode.Statement (.ctxLoad o) := fun _ _ =>
  (decodeOp_encM 0xED o none).trans (congrArg (fun o => some (Instr.ctxLoad o)) (decM_encM _ o))

theorem Laws.Encode.halt (o : G3) : Laws.Encode.Statement (.halt o) := fun _ _ =>
  (decodeOp_encG3 0xEE o none).trans (congrArg (fun o => some (Instr.halt o)) (decG3_encG3 _ o))

theorem Laws.Encode.illegalWord (w : IWord) : Laws.Encode.Statement (.illegalWord w) := fun _ h => absurd h Bool.false_ne_true

theorem Laws.Encode.queueDoorbell (x : PortWrite) : Laws.Encode.Statement (.queueDoorbell x) := fun _ h => absurd h Bool.false_ne_true

theorem Laws.Encode.queueAppend (q : Nat) (x : PortWrite) : Laws.Encode.Statement (.queueAppend q x) := fun _ h => absurd h Bool.false_ne_true

theorem Laws.Encode.ringPoll (q : Nat) : Laws.Encode.Statement (.ringPoll q) := fun _ h => absurd h Bool.false_ne_true

theorem Laws.Encode.headRecordRead (q : Nat) : Laws.Encode.Statement (.headRecordRead q) := fun _ h => absurd h Bool.false_ne_true

theorem Laws.Encode.waitWordEval (q i : Nat) : Laws.Encode.Statement (.waitWordEval q i) := fun _ h => absurd h Bool.false_ne_true

theorem Laws.Encode.waitWordPoll (q i : Nat) : Laws.Encode.Statement (.waitWordPoll q i) := fun _ h => absurd h Bool.false_ne_true

theorem Laws.Encode.priorityAging (q : Nat) : Laws.Encode.Statement (.priorityAging q) := fun _ h => absurd h Bool.false_ne_true

theorem Laws.Encode.gridDispatch  : Laws.Encode.Statement (.gridDispatch) := fun _ h => absurd h Bool.false_ne_true

theorem Laws.Encode.dieGangPlace (grid : Nat) : Laws.Encode.Statement (.dieGangPlace grid) := fun _ h => absurd h Bool.false_ne_true

theorem Laws.Encode.placementPass (die : Nat) : Laws.Encode.Statement (.placementPass die) := fun _ h => absurd h Bool.false_ne_true

theorem Laws.Encode.sliceReserveDie (die grid : Nat) : Laws.Encode.Statement (.sliceReserveDie die grid) := fun _ h => absurd h Bool.false_ne_true

theorem Laws.Encode.registerBlockRelocate (cid run : Nat) : Laws.Encode.Statement (.registerBlockRelocate cid run) := fun _ h => absurd h Bool.false_ne_true

theorem Laws.Encode.cohortEntry (blk : Nat) : Laws.Encode.Statement (.cohortEntry blk) := fun _ h => absurd h Bool.false_ne_true

theorem Laws.Encode.blockRetire (blk : Nat) : Laws.Encode.Statement (.blockRetire blk) := fun _ h => absurd h Bool.false_ne_true

theorem Laws.Encode.gridCompletionStore (grid : Nat) : Laws.Encode.Statement (.gridCompletionStore grid) := fun _ h => absurd h Bool.false_ne_true

theorem Laws.Encode.lcbWrite (die : Nat) (v : DWord) : Laws.Encode.Statement (.lcbWrite die v) := fun _ h => absurd h Bool.false_ne_true

theorem Laws.Encode.lcbApply (core : Nat) : Laws.Encode.Statement (.lcbApply core) := fun _ h => absurd h Bool.false_ne_true

theorem Laws.Encode.quotaEntryWrite (die i : Nat) (v : DWord) : Laws.Encode.Statement (.quotaEntryWrite die i v) := fun _ h => absurd h Bool.false_ne_true

theorem Laws.Encode.untilLapse (g : Nat) : Laws.Encode.Statement (.untilLapse g) := fun _ h => absurd h Bool.false_ne_true

theorem Laws.Encode.blockFetchComplete (cid frag : Nat) : Laws.Encode.Statement (.blockFetchComplete cid frag) := fun _ h => absurd h Bool.false_ne_true

theorem Laws.Encode.fragmentJoinPark (cid frag : Nat) : Laws.Encode.Statement (.fragmentJoinPark cid frag) := fun _ h => absurd h Bool.false_ne_true

theorem Laws.Encode.switchResume (cid : Nat) : Laws.Encode.Statement (.switchResume cid) := fun _ h => absurd h Bool.false_ne_true

theorem Laws.Encode.variableResultReturn (cid vid n : Nat) : Laws.Encode.Statement (.variableResultReturn cid vid n) := fun _ h => absurd h Bool.false_ne_true

theorem Laws.Encode.yieldExpire (cid : Nat) : Laws.Encode.Statement (.yieldExpire cid) := fun _ h => absurd h Bool.false_ne_true

theorem Laws.Encode.matrixStart (core : Nat) : Laws.Encode.Statement (.matrixStart core) := fun _ h => absurd h Bool.false_ne_true

theorem Laws.Encode.matrixComplete (core : Nat) (bad1 bad2 : DWord) : Laws.Encode.Statement (.matrixComplete core bad1 bad2) := fun _ h => absurd h Bool.false_ne_true

theorem Laws.Encode.planeLoadComplete (core : Nat) : Laws.Encode.Statement (.planeLoadComplete core) := fun _ h => absurd h Bool.false_ne_true

theorem Laws.Encode.vredWrite (cid vid : Nat) (err : Bool) : Laws.Encode.Statement (.vredWrite cid vid err) := fun _ h => absurd h Bool.false_ne_true

theorem Laws.Encode.trapDelivery (cid : Nat) : Laws.Encode.Statement (.trapDelivery cid) := fun _ h => absurd h Bool.false_ne_true

theorem Laws.Encode.hostTrapRecord (ctx : Nat) : Laws.Encode.Statement (.hostTrapRecord ctx) := fun _ h => absurd h Bool.false_ne_true

theorem Laws.Encode.orphanTrap (ctx : Nat) (cause : Cause) (info : DWord) (die : Nat) : Laws.Encode.Statement (.orphanTrap ctx cause info die) := fun _ h => absurd h Bool.false_ne_true

theorem Laws.Encode.pageWalkComplete (core ctx : Nat) (va : DWord) : Laws.Encode.Statement (.pageWalkComplete core ctx va) := fun _ h => absurd h Bool.false_ne_true

theorem Laws.Encode.pageRequestResponse (n : Nat) (ans : PriAnswer) : Laws.Encode.Statement (.pageRequestResponse n ans) := fun _ h => absurd h Bool.false_ne_true

theorem Laws.Encode.tinvWrite (v : DWord) : Laws.Encode.Statement (.tinvWrite v) := fun _ h => absurd h Bool.false_ne_true

theorem Laws.Encode.tinvComplete  : Laws.Encode.Statement (.tinvComplete) := fun _ h => absurd h Bool.false_ne_true

theorem Laws.Encode.mcarveWrite (die : Nat) (v : DWord) : Laws.Encode.Statement (.mcarveWrite die v) := fun _ h => absurd h Bool.false_ne_true

theorem Laws.Encode.mcarveComplete (die : Nat) : Laws.Encode.Statement (.mcarveComplete die) := fun _ h => absurd h Bool.false_ne_true

theorem Laws.Encode.copyRequestStart (core : Nat) : Laws.Encode.Statement (.copyRequestStart core) := fun _ h => absurd h Bool.false_ne_true

theorem Laws.Encode.copyDelivery (req off : Nat) : Laws.Encode.Statement (.copyDelivery req off) := fun _ h => absurd h Bool.false_ne_true

theorem Laws.Encode.xdmaComplete (x : Nat) : Laws.Encode.Statement (.xdmaComplete x) := fun _ h => absurd h Bool.false_ne_true

theorem Laws.Encode.wadrPoll (cid : Nat) : Laws.Encode.Statement (.wadrPoll cid) := fun _ h => absurd h Bool.false_ne_true

theorem Laws.Encode.completionBeacon (src dst epoch : Nat) (applied : List (Nat × Nat × Nat)) : Laws.Encode.Statement (.completionBeacon src dst epoch applied) := fun _ h => absurd h Bool.false_ne_true

theorem Laws.Encode.beaconRequest (src dst : Nat) : Laws.Encode.Statement (.beaconRequest src dst) := fun _ h => absurd h Bool.false_ne_true

theorem Laws.Encode.rd (core line : Nat) (alloc : Bool) : Laws.Encode.Statement (.rd core line alloc) := fun _ h => absurd h Bool.false_ne_true

theorem Laws.Encode.data (core line : Nat) (bytes : LineData) (f : Fill) : Laws.Encode.Statement (.data core line bytes f) := fun _ h => absurd h Bool.false_ne_true

theorem Laws.Encode.wi (core line : Nat) : Laws.Encode.Statement (.wi core line) := fun _ h => absurd h Bool.false_ne_true

theorem Laws.Encode.wb (core line : Nat) (mask : LineMask) (bytes : LineData) (pois : Bool) (x : WbNo) : Laws.Encode.Statement (.wb core line mask bytes pois x) := fun _ h => absurd h Bool.false_ne_true

theorem Laws.Encode.wback (core line n : Nat) : Laws.Encode.Statement (.wback core line n) := fun _ h => absurd h Bool.false_ne_true

theorem Laws.Encode.inv (core line txn : Nat) : Laws.Encode.Statement (.inv core line txn) := fun _ h => absurd h Bool.false_ne_true

theorem Laws.Encode.iackClean (core line txn : Nat) : Laws.Encode.Statement (.iackClean core line txn) := fun _ h => absurd h Bool.false_ne_true

theorem Laws.Encode.iackData (core line txn : Nat) (mask : LineMask) (bytes : LineData) (x : Given) : Laws.Encode.Statement (.iackData core line txn mask bytes x) := fun _ h => absurd h Bool.false_ne_true

theorem Laws.Encode.iackWbif (core line txn n : Nat) : Laws.Encode.Statement (.iackWbif core line txn n) := fun _ h => absurd h Bool.false_ne_true

theorem Laws.Encode.fwd (core line : Nat) (x : Wanted) : Laws.Encode.Statement (.fwd core line x) := fun _ h => absurd h Bool.false_ne_true

theorem Laws.Encode.fack (core line txn : Nat) (mask : LineMask) (bytes : LineData) (x : Given) : Laws.Encode.Statement (.fack core line txn mask bytes x) := fun _ h => absurd h Bool.false_ne_true

theorem Laws.Encode.lreq (cid line len : Nat) (x : LeaseAsk) : Laws.Encode.Statement (.lreq cid line len x) := fun _ h => absurd h Bool.false_ne_true

theorem Laws.Encode.lgrant (cid line len : Nat) (bytes : LineData) (x : LeaseGiven) : Laws.Encode.Statement (.lgrant cid line len bytes x) := fun _ h => absurd h Bool.false_ne_true

theorem Laws.Encode.lend (core line : Nat) (mask : LineMask) (bytes : LineData) (x : Given) : Laws.Encode.Statement (.lend core line mask bytes x) := fun _ h => absurd h Bool.false_ne_true

theorem Laws.Encode.claim (eng line : Nat) : Laws.Encode.Statement (.claim eng line) := fun _ h => absurd h Bool.false_ne_true

theorem Laws.Encode.crel (eng line : Nat) : Laws.Encode.Statement (.crel eng line) := fun _ h => absurd h Bool.false_ne_true

theorem Laws.Encode.recall (eng line : Nat) : Laws.Encode.Statement (.recall eng line) := fun _ h => absurd h Bool.false_ne_true

theorem Laws.Encode.atom (r : AtomReq) : Laws.Encode.Statement (.atom r) := fun _ h => absurd h Bool.false_ne_true

theorem Laws.Encode.aresp (r : AtomResp) : Laws.Encode.Statement (.aresp r) := fun _ h => absurd h Bool.false_ne_true

theorem Laws.Encode.retry (core line txn : Nat) (x : Refused) : Laws.Encode.Statement (.retry core line txn x) := fun _ h => absurd h Bool.false_ne_true

theorem Laws.Encode.redoRequest (r : RedoReq) : Laws.Encode.Statement (.redoRequest r) := fun _ h => absurd h Bool.false_ne_true

theorem Laws.Encode.redoRetry (r : RedoReq) : Laws.Encode.Statement (.redoRetry r) := fun _ h => absurd h Bool.false_ne_true

theorem Laws.Encode.redoDiscard (grid : Nat) : Laws.Encode.Statement (.redoDiscard grid) := fun _ h => absurd h Bool.false_ne_true

theorem Laws.Encode.futGetRetry (cid vid : Nat) : Laws.Encode.Statement (.futGetRetry cid vid) := fun _ h => absurd h Bool.false_ne_true

theorem Laws.Encode.abandonRequest (ctx key : Nat) : Laws.Encode.Statement (.abandonRequest ctx key) := fun _ h => absurd h Bool.false_ne_true

theorem Laws.Encode.writebackDeadline (core line : Nat) : Laws.Encode.Statement (.writebackDeadline core line) := fun _ h => absurd h Bool.false_ne_true

theorem Laws.Encode.lineExpiry (core line : Nat) : Laws.Encode.Statement (.lineExpiry core line) := fun _ h => absurd h Bool.false_ne_true

theorem Laws.Encode.leaseExpiry (core line : Nat) : Laws.Encode.Statement (.leaseExpiry core line) := fun _ h => absurd h Bool.false_ne_true

theorem Laws.Encode.leaseForcedEnd (core : Nat) : Laws.Encode.Statement (.leaseForcedEnd core) := fun _ h => absurd h Bool.false_ne_true

theorem Laws.Encode.homeLeaseTimeout (line : Nat) : Laws.Encode.Statement (.homeLeaseTimeout line) := fun _ h => absurd h Bool.false_ne_true

theorem Laws.Encode.directoryVictim (line : Nat) : Laws.Encode.Statement (.directoryVictim line) := fun _ h => absurd h Bool.false_ne_true

theorem Laws.Encode.beaconTimer (die : Nat) : Laws.Encode.Statement (.beaconTimer die) := fun _ h => absurd h Bool.false_ne_true

theorem Laws.Encode.clockChange (die : Nat) (mhz : BitVec 16) : Laws.Encode.Statement (.clockChange die mhz) := fun _ h => absurd h Bool.false_ne_true

theorem Laws.Encode.stalemateFire (ctx : Nat) : Laws.Encode.Statement (.stalemateFire ctx) := fun _ h => absurd h Bool.false_ne_true

theorem Laws.Encode.preemptionRequest (grid die : Nat) : Laws.Encode.Statement (.preemptionRequest grid die) := fun _ h => absurd h Bool.false_ne_true

theorem Laws.Encode.blockSave (blk : Nat) : Laws.Encode.Statement (.blockSave blk) := fun _ h => absurd h Bool.false_ne_true

theorem Laws.Encode.blockFlush (blk : Nat) : Laws.Encode.Statement (.blockFlush blk) := fun _ h => absurd h Bool.false_ne_true

theorem Laws.Encode.ctxcmdResume (v : DWord) : Laws.Encode.Statement (.ctxcmdResume v) := fun _ h => absurd h Bool.false_ne_true

theorem Laws.Encode.ctxcmdAbort (v : DWord) : Laws.Encode.Statement (.ctxcmdAbort v) := fun _ h => absurd h Bool.false_ne_true

theorem Laws.Encode.ctxcmdTeardown (v : DWord) : Laws.Encode.Statement (.ctxcmdTeardown v) := fun _ h => absurd h Bool.false_ne_true

theorem Laws.Encode.ctxcmdSave (v : DWord) : Laws.Encode.Statement (.ctxcmdSave v) := fun _ h => absurd h Bool.false_ne_true

theorem Laws.Encode.ctxcmdRestore (v : DWord) : Laws.Encode.Statement (.ctxcmdRestore v) := fun _ h => absurd h Bool.false_ne_true

theorem Laws.Encode.softError (e : SoftErr) : Laws.Encode.Statement (.softError e) := fun _ h => absurd h Bool.false_ne_true

theorem Laws.Encode.commandedReset (die : Nat) (v : DWord) : Laws.Encode.Statement (.commandedReset die v) := fun _ h => absurd h Bool.false_ne_true

theorem Laws.Encode.dieReset (die : Nat) (cause : BitVec 4) : Laws.Encode.Statement (.dieReset die cause) := fun _ h => absurd h Bool.false_ne_true

theorem Laws.Encode.packageReset  : Laws.Encode.Statement (.packageReset) := fun _ h => absurd h Bool.false_ne_true

theorem Laws.Encode.bridgeFlitReceive (bridge k : Nat) (f : FlitOutcome) : Laws.Encode.Statement (.bridgeFlitReceive bridge k f) := fun _ h => absurd h Bool.false_ne_true

theorem Laws.Encode.linkTrainingLost (bridge : Nat) : Laws.Encode.Statement (.linkTrainingLost bridge) := fun _ h => absurd h Bool.false_ne_true

theorem Laws.Encode.hostLinkDown (io : Nat) : Laws.Encode.Statement (.hostLinkDown io) := fun _ h => absurd h Bool.false_ne_true

theorem Laws.Encode.hostCompletion (k : Nat) (ok : Bool) : Laws.Encode.Statement (.hostCompletion k ok) := fun _ h => absurd h Bool.false_ne_true

theorem Laws.Encode.hostInboundAccess (io : Nat) (off : Nat) (wr : Option (List Byte)) (len : Nat) : Laws.Encode.Statement (.hostInboundAccess io off wr len) := fun _ h => absurd h Bool.false_ne_true

theorem Laws.Encode.peerRequest (peer off : Nat) (req : PeerOp) : Laws.Encode.Statement (.peerRequest peer off req) := fun _ h => absurd h Bool.false_ne_true

theorem Laws.Encode.peerResponse (k : Nat) (ok : Bool) : Laws.Encode.Statement (.peerResponse k ok) := fun _ h => absurd h Bool.false_ne_true

theorem Laws.Encode.peerRetransmit (k : Nat) : Laws.Encode.Statement (.peerRetransmit k) := fun _ h => absurd h Bool.false_ne_true

theorem Laws.Encode.ptpEventMessage (port : Nat) (lock : Bool) (bound : Word) (slew : Int) : Laws.Encode.Statement (.ptpEventMessage port lock bound slew) := fun _ h => absurd h Bool.false_ne_true

theorem Laws.Encode.fwStageVerify (v : DWord) : Laws.Encode.Statement (.fwStageVerify v) := fun _ h => absurd h Bool.false_ne_true

theorem Laws.Encode.fwCommit (v : DWord) (ok : Bool) : Laws.Encode.Statement (.fwCommit v ok) := fun _ h => absurd h Bool.false_ne_true

theorem Laws.Encode.fwRaiseMinsvn (v : DWord) : Laws.Encode.Statement (.fwRaiseMinsvn v) := fun _ h => absurd h Bool.false_ne_true

theorem Laws.Encode.getDigests (io : Nat) : Laws.Encode.Statement (.getDigests io) := fun _ h => absurd h Bool.false_ne_true

theorem Laws.Encode.getCertificate (io slot off len : Nat) : Laws.Encode.Statement (.getCertificate io slot off len) := fun _ h => absurd h Bool.false_ne_true

theorem Laws.Encode.challenge (io slot : Nat) (nonce : BitVec 256) : Laws.Encode.Statement (.challenge io slot nonce) := fun _ h => absurd h Bool.false_ne_true

theorem Laws.Encode.getMeasurements (io idx : Nat) (sign : Bool) (nonce : BitVec 256) : Laws.Encode.Statement (.getMeasurements io idx sign nonce) := fun _ h => absurd h Bool.false_ne_true

theorem Laws.Encode.vendorDefinedRequest (io : Nat) : Laws.Encode.Statement (.vendorDefinedRequest io) := fun _ h => absurd h Bool.false_ne_true

theorem Laws.Encode.keyExchange (io slot : Nat) (data : BitVec 768) : Laws.Encode.Statement (.keyExchange io slot data) := fun _ h => absurd h Bool.false_ne_true

theorem Laws.Encode.finish (io sess : Nat) (mac : BitVec 384) : Laws.Encode.Statement (.finish io sess mac) := fun _ h => absurd h Bool.false_ne_true

theorem Laws.Encode.keyUpdate (io sess : Nat) (all : Bool) : Laws.Encode.Statement (.keyUpdate io sess all) := fun _ h => absurd h Bool.false_ne_true

theorem Laws.Encode.heartbeat (io sess : Nat) : Laws.Encode.Statement (.heartbeat io sess) := fun _ h => absurd h Bool.false_ne_true

theorem Laws.Encode.endSession (io sess : Nat) : Laws.Encode.Statement (.endSession io sess) := fun _ h => absurd h Bool.false_ne_true

theorem Laws.Encode.pskExchange (io : Nat) : Laws.Encode.Statement (.pskExchange io) := fun _ h => absurd h Bool.false_ne_true

theorem Laws.Encode.ideKmQuery (io sess : Nat) : Laws.Encode.Statement (.ideKmQuery io sess) := fun _ h => absurd h Bool.false_ne_true

theorem Laws.Encode.keyProg (io : Nat) (sess : Option Nat) (stream : Nat) (key : BitVec 256) : Laws.Encode.Statement (.keyProg io sess stream key) := fun _ h => absurd h Bool.false_ne_true

theorem Laws.Encode.kSetGo (io sess stream : Nat) : Laws.Encode.Statement (.kSetGo io sess stream) := fun _ h => absurd h Bool.false_ne_true

theorem Laws.Encode.kSetStop (io sess stream : Nat) : Laws.Encode.Statement (.kSetStop io sess stream) := fun _ h => absurd h Bool.false_ne_true

theorem Laws.Encode.marginDwellStart (b : Nat) (v : DWord) : Laws.Encode.Statement (.marginDwellStart b v) := fun _ h => absurd h Bool.false_ne_true

theorem Laws.Encode.marginDwellEnd (b : Nat) : Laws.Encode.Statement (.marginDwellEnd b) := fun _ h => absurd h Bool.false_ne_true

theorem Laws.Encode.bistSuiteEnd (cid : Nat) : Laws.Encode.Statement (.bistSuiteEnd cid) := fun _ h => absurd h Bool.false_ne_true

theorem Laws.Encode.monitorSample (ch : Nat) (v : BitVec 16) : Laws.Encode.Statement (.monitorSample ch v) := fun _ h => absurd h Bool.false_ne_true

theorem Laws.Encode.monvalRead (ch : Nat) : Laws.Encode.Statement (.monvalRead ch) := fun _ h => absurd h Bool.false_ne_true

theorem Laws.Encode.histRead (ch i : Nat) : Laws.Encode.Statement (.histRead ch i) := fun _ h => absurd h Bool.false_ne_true

theorem Laws.Encode.dstatRead (die : Nat) : Laws.Encode.Statement (.dstatRead die) := fun _ h => absurd h Bool.false_ne_true

theorem Laws.Encode.bmresRead (b : Nat) : Laws.Encode.Statement (.bmresRead b) := fun _ h => absurd h Bool.false_ne_true

theorem Laws.Encode.accountingUpdate (die ctx : Nat) : Laws.Encode.Statement (.accountingUpdate die ctx) := fun _ h => absurd h Bool.false_ne_true

theorem Laws.Encode.registerWrite (io off : Nat) (v : DWord) : Laws.Encode.Statement (.registerWrite io off v) := fun _ h => absurd h Bool.false_ne_true

theorem Laws.Encode.matrixCreditRefill (core : Nat) : Laws.Encode.Statement (.matrixCreditRefill core) := fun _ h => absurd h Bool.false_ne_true

theorem Laws.Encode.powerManagementRateWrite (core : Nat) (rate : BitVec 16) : Laws.Encode.Statement (.powerManagementRateWrite core rate) := fun _ h => absurd h Bool.false_ne_true

theorem Laws.Encode.xdmaDelivery (x off : Nat) : Laws.Encode.Statement (.xdmaDelivery x off) := fun _ h => absurd h Bool.false_ne_true

theorem Laws.Encode.hostLinkUp (io : Nat) (cxl : Bool) : Laws.Encode.Statement (.hostLinkUp io cxl) := fun _ h => absurd h Bool.false_ne_true

theorem Laws.Encode.powerLoss  : Laws.Encode.Statement (.powerLoss) := fun _ h => absurd h Bool.false_ne_true

theorem Laws.Encode.vmargActStep (die : Nat) : Laws.Encode.Statement (.vmargActStep die) := fun _ h => absurd h Bool.false_ne_true

end Sys2Proof
end

