-- ==== Sys2Proof/Tests/Slice0.lean ====
section
/-! SUPPORT. The model's own tests: ill-formed terms refused, words of the spec's encodings decoded, single steps against the spec's
worked examples. What each expects is from the rule or example its comment names. -/
namespace Sys2Proof.Tests
set_option Elab.async false
open Sys2Proof Sys2Proof.Machine

/-! ### Ill-formed terms (07 R137-R144, R151 checks 3 and 4) -/

/-- R138: a scalar op has no i16x2. -/
theorem smoke_type : wf (.sadd ⟨⟨0, false⟩, 2, 0, 4, 5, 6⟩) = false := by decide
/-- R139: MOD bits 1:0 are 0; R143: so is a field the op does not use. -/
theorem smoke_reserved : wf (.sadd ⟨⟨0, false⟩, 0, 1, 4, 5, 6⟩) = false ∧ wf (.vabs ⟨⟨0, false⟩, 0, 0, 4, 5, 6⟩) = false := by decide
/-- R137: a cohort op has PG and PN 0. -/
theorem smoke_guard : wf (.sadd ⟨⟨1, false⟩, 0, 0, 4, 5, 6⟩) = false ∧ wf (.mwait ⟨⟨0, true⟩, 0, 0, 0, 0, 0⟩) = false := by decide
/-- R142: scalar, predicate, index and J registers. -/
theorem smoke_registers : wf (.sadd ⟨⟨0, false⟩, 0, 0, 64, 5, 6⟩) = false ∧ wf (.vcmp ⟨⟨0, false⟩, 0, 0, 8, 5, 6⟩) = false ∧
    wf (.vldx ⟨⟨0, false⟩, 0, 0, 9, 8, 11⟩) = false ∧ wf (.jget ⟨⟨0, false⟩, 0, 0, 4, 4, 5⟩) = false := by decide
/-- R142: an odd pair. -/
theorem smoke_pair : wf (.vadd ⟨⟨0, false⟩, 6, 0, 9, 10, 12⟩) = false := by decide
/-- R140: SZ, ORD with SC, and SC. -/
theorem smoke_memory : wf (.sld ⟨⟨0, false⟩, 6, 0, 0, false, 0, 4, 5, 0⟩ none) = false ∧
    wf (.sld ⟨⟨0, false⟩, 2, 0, 1, false, 0, 4, 5, 0⟩ none) = false ∧ wf (.sld ⟨⟨0, false⟩, 2, 1, 6, false, 0, 4, 5, 0⟩ none) = false := by decide
/-- R141: U, CC. -/
theorem smoke_control : wf (.br ⟨⟨0, false⟩, true, 0, 0, 4⟩) = false ∧ wf (.bc ⟨⟨0, false⟩, false, 6, 3, 4⟩) = false ∧
    wf (.loop ⟨⟨0, false⟩, false, 0, 0, 4⟩) = false := by decide
/-- R144: an extension with an unused bit, and an op of class X without one. -/
theorem smoke_extension : wf (.vmad ⟨⟨0, false⟩, 0, 4, 5, 6, 7⟩ (some 2)) = false ∧ wf (.sli ⟨⟨0, false⟩, 6, 4, 0, 1⟩ none) = false := by decide
/-- R151 check 4 passes what its neighbours above break. -/
theorem smoke_wellformed : wf (.sadd ⟨⟨0, false⟩, 0, 4, 4, 5, 6⟩) = true ∧ wf (.vadd ⟨⟨0, false⟩, 6, 0, 8, 10, 12⟩) = true ∧
    wf (.sld ⟨⟨0, false⟩, 2, 1, 5, false, 0, 4, 5, 0⟩ none) = true ∧ wf (.vmad ⟨⟨0, false⟩, 0, 4, 5, 6, 7⟩ (some 1)) = true ∧
    wf (.sli ⟨⟨0, false⟩, 6, 4, 0, 1⟩ (some 0)) = true := by decide

/-! ### Words written out from the encoding tables (07 R135-R145 and each chapter), one for each op -/

/-- A word decodes to an instruction alone in slot A. -/
def readsAs (p : IWord × Instr) : Bool :=
  match decodeWord freeEnv p.1 with
  | .ok d => d.a == p.2 && d.b.isNone && !d.sw
  | .error _ => false
/-- Every word of a list decodes to its instruction. -/
def readAs (l : List (IWord × Instr)) : Bool := l.all readsAs

theorem test_words_control : readAs
  [(0x001000000000000000000000, .nop ⟨⟨0, false⟩, false, 0, 0, 0⟩),
   (0x002000000001800000000000, .br ⟨⟨0, false⟩, false, 0, 0, 6⟩),
   (0x0030127FFFFE800000000000, .bc ⟨⟨0, false⟩, false, 1, 9, 16777210⟩),
   (0x004580000001000000000000, .bv ⟨⟨2, true⟩, true, 0, 0, 4⟩),
   (0x005000000001000000000000, .call ⟨⟨0, false⟩, false, 0, 0, 4⟩),
   (0x00600F800000000000000000, .ret ⟨⟨0, false⟩, false, 0, 62, 0⟩),
   (0x007001C00000800000000000, .jmpi ⟨⟨0, false⟩, false, 0, 7, 2⟩),
   (0x008000FFFFFF400000000000, .loop ⟨⟨0, false⟩, false, 0, 3, 16777213⟩),
   (0x009000000000000000000000, .exit ⟨⟨0, false⟩, false, 0, 0, 0⟩),
   (0x00A000010141800000000000, .launch ⟨⟨0, false⟩, 0, 0, 4, 5, 6⟩),
   (0x00B001400000000000000000, .yield ⟨⟨0, false⟩, false, 0, 5, 0⟩)] = true := by decide +kernel

theorem test_words_scalar : readAs
  [(0x010001010141800000000000, .sadd ⟨⟨0, false⟩, 0, 4, 4, 5, 6⟩),
   (0x011021010141800000000000, .ssub ⟨⟨0, false⟩, 1, 4, 4, 5, 6⟩),
   (0x0120C1010141800000000000, .smul ⟨⟨0, false⟩, 6, 4, 4, 5, 6⟩),
   (0x0130E0010141800000000000, .smulh ⟨⟨0, false⟩, 7, 0, 4, 5, 6⟩),
   (0x014000010141800000000000, .sdiv ⟨⟨0, false⟩, 0, 0, 4, 5, 6⟩),
   (0x015020010141800000000000, .srem ⟨⟨0, false⟩, 1, 0, 4, 5, 6⟩),
   (0x0160C0010141800000000000, .sand ⟨⟨0, false⟩, 6, 0, 4, 5, 6⟩),
   (0x0170E0010141800000000000, .sor ⟨⟨0, false⟩, 7, 0, 4, 5, 6⟩),
   (0x018000010141800000000000, .sxor ⟨⟨0, false⟩, 0, 0, 4, 5, 6⟩),
   (0x019020010141800000000000, .sshl ⟨⟨0, false⟩, 1, 0, 4, 5, 6⟩),
   (0x01A0C0010141800000000000, .sshr ⟨⟨0, false⟩, 6, 0, 4, 5, 6⟩),
   (0x01B0E0010141800000000000, .smin ⟨⟨0, false⟩, 7, 0, 4, 5, 6⟩),
   (0x01C000010141800000000000, .smax ⟨⟨0, false⟩, 0, 0, 4, 5, 6⟩),
   (0x01D028010141800000000000, .scmp ⟨⟨0, false⟩, 1, 32, 4, 5, 6⟩),
   (0x01E0E0010141800000000000, .ssel ⟨⟨0, false⟩, 7, 0, 4, 5, 6⟩),
   (0x01F0E6010140000000000000, .sbit ⟨⟨0, false⟩, 7, 24, 4, 5, 0⟩),
   (0x0200C080BFFE400000000000, .saddi ⟨⟨0, false⟩, 6, 4, 5, 32761⟩),
   (0x0210C080A48D000000000000, .slui ⟨⟨0, false⟩, 6, 4, 5, 4660⟩),
   (0x0220C0801FFFC123456789AB, .sli ⟨⟨0, false⟩, 6, 4, 0, 32767⟩ (some 0x123456789AB)),
   (0x02308BA0847FC00000000010, .sld ⟨⟨0, false⟩, 4, 1, 3, true, 1, 4, 8, 511⟩ (some 0x10)),
   (0x024074808401400000000000, .sst ⟨⟨0, false⟩, 3, 2, 4, true, 0, 4, 8, 5⟩ (some 0x0)),
   (0x025000800003400000000000, .sget ⟨⟨0, false⟩, 0, 4, 0, 13⟩)] = true := by decide +kernel

theorem test_words_vector_integer : readAs
  [(0x030341024282C00000000000, .vadd ⟨⟨1, true⟩, 2, 4, 9, 10, 11⟩),
   (0x031080024282C00000000000, .vsub ⟨⟨0, false⟩, 4, 0, 9, 10, 11⟩),
   (0x0320C0020283000000000000, .vmul ⟨⟨0, false⟩, 6, 0, 8, 10, 12⟩),
   (0x0330A0024282C00000000000, .vmulh ⟨⟨0, false⟩, 5, 0, 9, 10, 11⟩),
   (0x0343C24282C3000000000001, .vmad ⟨⟨1, true⟩, 3, 9, 10, 11, 12⟩ (some 0x1)),
   (0x035000024282C00000000000, .vmin ⟨⟨0, false⟩, 0, 0, 9, 10, 11⟩),
   (0x036020024282C00000000000, .vmax ⟨⟨0, false⟩, 1, 0, 9, 10, 11⟩),
   (0x037001024280000000000000, .vabs ⟨⟨0, false⟩, 0, 4, 9, 10, 0⟩),
   (0x038000024282C00000000000, .vand ⟨⟨0, false⟩, 0, 0, 9, 10, 11⟩),
   (0x039000024282C00000000000, .vor ⟨⟨0, false⟩, 0, 0, 9, 10, 11⟩),
   (0x03A000024282C00000000000, .vxor ⟨⟨0, false⟩, 0, 0, 9, 10, 11⟩),
   (0x03B000024280000000000000, .vnot ⟨⟨0, false⟩, 0, 0, 9, 10, 0⟩),
   (0x03C060024282C00000000000, .vshl ⟨⟨0, false⟩, 3, 0, 9, 10, 11⟩),
   (0x03D080024282C00000000000, .vshr ⟨⟨0, false⟩, 4, 0, 9, 10, 11⟩),
   (0x03E0E0020283000000000000, .vrot ⟨⟨0, false⟩, 7, 0, 8, 10, 12⟩),
   (0x03F024024280000000000000, .vbit ⟨⟨0, false⟩, 1, 16, 9, 10, 0⟩),
   (0x040042428003000000000000, .vbfe ⟨⟨0, false⟩, 1, 9, 10, 0, 12⟩),
   (0x0410024282C3000000000000, .vbfi ⟨⟨0, false⟩, 0, 9, 10, 11, 12⟩),
   (0x042001215FFEC00000000000, .vaddi ⟨⟨0, false⟩, 0, 9, 10, 32763⟩ (some 0x0)),
   (0x043000600000000000012345, .vmovi ⟨⟨0, false⟩, 0, 3, 0, 0⟩ (some 0x12345)),
   (0x044000024280000000000000, .vmov ⟨⟨0, false⟩, 0, 0, 9, 10, 0⟩),
   (0x045006024282C00000000000, .vsel ⟨⟨0, false⟩, 0, 24, 9, 10, 11⟩),
   (0x04600400C282C00000000000, .vcmp ⟨⟨0, false⟩, 0, 16, 3, 10, 11⟩),
   (0x0470A5010141800000000000, .vcvti ⟨⟨0, false⟩, 5, 20, 4, 5, 6⟩)] = true := by decide +kernel

theorem test_words_lanes : readAs
  [(0x048000024282C00000000000, .vlane ⟨⟨0, false⟩, 0, 0, 9, 10, 11⟩),
   (0x049020014101800000000000, .vbcast ⟨⟨0, false⟩, 1, 0, 5, 4, 6⟩),
   (0x04A002024282C00000000000, .vshfl ⟨⟨0, false⟩, 0, 8, 9, 10, 11⟩),
   (0x04B000024282C00000000000, .vrotl ⟨⟨0, false⟩, 0, 0, 9, 10, 11⟩),
   (0x04C20000C080000000000000, .vscan ⟨⟨1, false⟩, 0, 0, 3, 2, 0⟩),
   (0x04D200004080000000000000, .vred ⟨⟨1, false⟩, 0, 0, 1, 2, 0⟩),
   (0x04E000010040000000000000, .vballot ⟨⟨0, false⟩, 0, 0, 4, 1, 0⟩),
   (0x04F000024140000000000000, .s2v ⟨⟨0, false⟩, 0, 0, 9, 5, 0⟩),
   (0x05000000C140000000000000, .pmov ⟨⟨0, false⟩, 0, 0, 3, 5, 0⟩),
   (0x05100400C040800000000000, .plog ⟨⟨0, false⟩, 0, 16, 3, 1, 2⟩),
   (0x052000010040000000000000, .pcnt ⟨⟨0, false⟩, 0, 0, 4, 1, 0⟩),
   (0x053000010040000000000000, .pfirst ⟨⟨0, false⟩, 0, 0, 4, 1, 0⟩),
   (0x054000420008000000000000, .xset ⟨⟨0, false⟩, 0, 2, 16, 32⟩),
   (0x055000024082C00000000000, .vldx ⟨⟨0, false⟩, 0, 0, 9, 2, 11⟩),
   (0x056000008282C00000000000, .vstx ⟨⟨0, false⟩, 0, 0, 2, 10, 11⟩),
   (0x057000010041400000000000, .jget ⟨⟨0, false⟩, 0, 0, 4, 1, 5⟩)] = true := by decide +kernel

theorem test_words_floating : readAs
  [(0x060000020242800000000000, .vfadd ⟨⟨0, false⟩, 0, 0, 8, 9, 10⟩),
   (0x06133E820283000000000000, .vfsub ⟨⟨1, true⟩, 1, 122, 8, 10, 12⟩),
   (0x062060408300C00000000000, .vfmul ⟨⟨0, false⟩, 3, 1, 2, 12, 3⟩),
   (0x063000004080C00000000102, .vfma ⟨⟨0, false⟩, 0, 0, 1, 2, 3⟩ (some 0x102)),
   (0x064082024282C00000000000, .vfms ⟨⟨0, false⟩, 2, 8, 9, 10, 11⟩ (some 0x0)),
   (0x065042028303800000000001, .vfnma ⟨⟨0, false⟩, 1, 8, 10, 12, 14⟩ (some 0x1)),
   (0x0660C2024282C00000000000, .vfnms ⟨⟨0, false⟩, 3, 8, 9, 10, 11⟩ (some 0x0)),
   (0x067000024282C00000000000, .vfmin ⟨⟨0, false⟩, 0, 0, 9, 10, 11⟩),
   (0x068000024282C00000000000, .vfmax ⟨⟨0, false⟩, 0, 0, 9, 10, 11⟩),
   (0x06900000C282C00000000000, .vfcmp ⟨⟨0, false⟩, 0, 0, 3, 10, 11⟩),
   (0x06A00000C280000000000000, .vfclass ⟨⟨0, false⟩, 0, 0, 3, 10, 0⟩),
   (0x06B010424282C00000000000, .vfdiv ⟨⟨0, false⟩, 0, 65, 9, 10, 11⟩),
   (0x06C000024280000000000000, .vfsqrt ⟨⟨0, false⟩, 0, 0, 9, 10, 0⟩),
   (0x06D000024280000000000000, .vfrcp ⟨⟨0, false⟩, 0, 0, 9, 10, 0⟩),
   (0x06E000024280000000000000, .vfrsq ⟨⟨0, false⟩, 0, 0, 9, 10, 0⟩),
   (0x06F000024280000000000000, .vfexp2 ⟨⟨0, false⟩, 0, 0, 9, 10, 0⟩),
   (0x070000024280000000000000, .vflog2 ⟨⟨0, false⟩, 0, 0, 9, 10, 0⟩),
   (0x071000024280000000000000, .vfsin ⟨⟨0, false⟩, 0, 0, 9, 10, 0⟩),
   (0x072000024280000000000000, .vfcos ⟨⟨0, false⟩, 0, 0, 9, 10, 0⟩),
   (0x073000024280000000000000, .vftanh ⟨⟨0, false⟩, 0, 0, 9, 10, 0⟩),
   (0x074000024280000000000000, .vfsig ⟨⟨0, false⟩, 0, 0, 9, 10, 0⟩),
   (0x075000824280000000000000, .vfrnd ⟨⟨0, false⟩, 0, 2, 9, 10, 0⟩),
   (0x076000024282C00000000000, .vfscl ⟨⟨0, false⟩, 0, 0, 9, 10, 11⟩),
   (0x077040024282C00000000000, .vfcvt ⟨⟨0, false⟩, 2, 0, 9, 10, 11⟩),
   (0x078044024280000000000000, .vfcvti ⟨⟨0, false⟩, 2, 16, 9, 10, 0⟩),
   (0x07904001C800000000000000, .vqsc ⟨⟨0, false⟩, 2, 0, 7, 32, 0⟩),
   (0x07A040020801C00000000000, .vqnt ⟨⟨0, false⟩, 2, 0, 8, 32, 7⟩),
   (0x07B0400A0201C00000000000, .vdqnt ⟨⟨0, false⟩, 2, 0, 40, 8, 7⟩)] = true := by decide +kernel

theorem test_words_matrix : readAs
  [(0x090020800500800000000000, .mld ⟨⟨0, false⟩, 1, 0, 0, true, 0, 0, 10, 2⟩ (some 0x0)),
   (0x091020800580000000000000, .mldsc ⟨⟨0, false⟩, 1, 0, 0, true, 0, 0, 11, 0⟩),
   (0x092000000000000000000000, .mswp ⟨⟨0, false⟩, 0, 0, 0, 0, 0⟩),
   (0x09304004080C000000000000, .mmac ⟨⟨0, false⟩, 2, 0, 16, 32, 48⟩ (some 0x0)),
   (0x09420004080000000001FFFE, .mmacz ⟨⟨1, false⟩, 0, 0, 16, 32, 0⟩ (some 0x1FFFE)),
   (0x095000010000000000000000, .mbudUsed ⟨⟨0, false⟩, 0, 0, 4, 0, 0⟩),
   (0x095002010000000000000000, .mbudCred ⟨⟨0, false⟩, 0, 8, 4, 0, 0⟩),
   (0x096000000000800000000000, .mwait ⟨⟨0, false⟩, 0, 0, 0, 0, 2⟩)] = true := by decide +kernel

theorem test_words_memory : readAs
  [(0x0A0040818408000000000000, .ld ⟨⟨0, false⟩, 2, 0, 0, true, 0, 12, 8, 32⟩ (some 0x0)),
   (0x0A104081847FC00000000040, .st ⟨⟨0, false⟩, 2, 0, 0, true, 0, 12, 8, 511⟩ (some 0x40)),
   (0x0A2060808184000000000000, .ldg ⟨⟨0, false⟩, 3, 0, 0, true, 0, 4, 12, 8⟩),
   (0x0A3000A08184000000000000, .stg ⟨⟨0, false⟩, 0, 0, 0, true, 1, 4, 12, 8⟩),
   (0x0A4040848604000000000000, .ldq ⟨⟨0, false⟩, 2, 0, 0, true, 0, 36, 12, 16⟩ (some 0x0)),
   (0x0A5040848604000000000000, .stq ⟨⟨0, false⟩, 2, 0, 0, true, 0, 36, 12, 16⟩ (some 0x0)),
   (0x0A6000028400000165703FFF, .cpIn ⟨⟨0, false⟩, 0, 0, 0, false, 0, 20, 8, 0⟩ (some 0x165703FFF)),
   (0x0A7000028400000000000FFF, .cpOut ⟨⟨0, false⟩, 0, 0, 0, false, 0, 20, 8, 0⟩ (some 0xFFF)),
   (0x0A8000028400000000000303, .cpTile ⟨⟨0, false⟩, 0, 0, 0, false, 0, 20, 8, 0⟩ (some 0x303)),
   (0x0A90000000C1800000000000, .bcbExp ⟨⟨0, false⟩, 0, 0, 0, 3, 6⟩),
   (0x0AA0000140C1800000000000, .bcbWt ⟨⟨0, false⟩, 0, 0, 5, 3, 6⟩),
   (0x0AB040000400000000000000, .pref ⟨⟨0, false⟩, 2, 0, 0, false, 0, 0, 8, 0⟩ (some 0x0)),
   (0x0AC060010141800000000000, .resBind ⟨⟨0, false⟩, 3, 0, 4, 5, 6⟩),
   (0x0AD060000140000000000000, .resSetPrio ⟨⟨0, false⟩, 3, 0, 0, 5, 0⟩),
   (0x0AD04201C101400000000000, .resSetLifeS ⟨⟨0, false⟩, 2, 8, 7, 4, 5⟩),
   (0x0AD024000101400000000000, .resSetLifeM ⟨⟨0, false⟩, 1, 16, 0, 4, 5⟩),
   (0x0AE000000140000000000000, .resDrop ⟨⟨0, false⟩, 0, 0, 0, 5, 0⟩),
   (0x0AF000008400400000000000, .xdma ⟨⟨0, false⟩, 0, 0, 0, false, 0, 4, 8, 1⟩ (some 0x0)),
   (0x0B0049A0A401000000000000, .wadr ⟨⟨0, false⟩, 2, 1, 1, true, 1, 5, 8, 4⟩)] = true := by decide +kernel

theorem test_words_atomic : readAs
  [(0x0C004080A084024000000000, .am ⟨⟨0, false⟩, 2, 0, 0, true, 0, 5, 4, 8⟩ (some 0x24000000000)),
   (0x0C104080A084000000000000, .red ⟨⟨0, false⟩, 2, 0, 0, true, 0, 5, 4, 8⟩ (some 0x0)),
   (0x0C204080A084024000000000, .amcas ⟨⟨0, false⟩, 2, 0, 0, true, 0, 5, 4, 8⟩ (some 0x24000000000)),
   (0x0C304080A084024000000000, .amgts ⟨⟨0, false⟩, 2, 0, 0, true, 0, 5, 4, 8⟩ (some 0x24000000000)),
   (0x0C404080A084024000000000, .amvcs ⟨⟨0, false⟩, 2, 0, 0, true, 0, 5, 4, 8⟩ (some 0x24000000000)),
   (0x0C506080A084024000000000, .ampcs ⟨⟨0, false⟩, 3, 0, 0, true, 0, 5, 4, 8⟩ (some 0x24000000000)),
   (0x0C604080A084024000000000, .amf ⟨⟨0, false⟩, 2, 0, 0, true, 0, 5, 4, 8⟩ (some 0x24000000000)),
   (0x0C704080A084000000000000, .redf ⟨⟨0, false⟩, 2, 0, 0, true, 0, 5, 4, 8⟩ (some 0x0)),
   (0x0C804080A084000000000000, .redo ⟨⟨0, false⟩, 2, 0, 0, true, 0, 5, 4, 8⟩ (some 0x0)),
   (0x0C900000C400000000000000, .lsa ⟨⟨0, false⟩, 0, 0, 0, false, 0, 6, 8, 0⟩),
   (0x0CA00000C400000000000000, .lsr ⟨⟨0, false⟩, 0, 0, 0, false, 0, 6, 8, 0⟩)] = true := by decide +kernel

theorem test_words_sync : readAs
  [(0x0D00000000C1800000000000, .barIniArv ⟨⟨0, false⟩, 0, 0, 0, 3, 6⟩),
   (0x0D00020000C0000000000000, .barIniByte ⟨⟨0, false⟩, 0, 8, 0, 3, 0⟩),
   (0x0D00040000C0000000000000, .barIniFree ⟨⟨0, false⟩, 0, 16, 0, 3, 0⟩),
   (0x0D10000140C0000000000000, .barArv ⟨⟨0, false⟩, 0, 0, 5, 3, 0⟩),
   (0x0D20000140C1800000000000, .barWt ⟨⟨0, false⟩, 0, 0, 5, 3, 6⟩),
   (0x0D30000140C0000000000000, .barSync ⟨⟨0, false⟩, 0, 0, 5, 3, 0⟩),
   (0x0D4000014000000000000000, .barCl ⟨⟨0, false⟩, 0, 0, 5, 0, 0⟩),
   (0x0D5000014000000000000000, .barDie ⟨⟨0, false⟩, 0, 0, 5, 0, 0⟩),
   (0x0D6080000000000000000000, .fenceRel ⟨⟨0, false⟩, 4, 0, 0, 0, 0⟩),
   (0x0D6082000000000000000000, .fenceAcq ⟨⟨0, false⟩, 4, 8, 0, 0, 0⟩),
   (0x0D6084000000000000000000, .fenceFull ⟨⟨0, false⟩, 4, 16, 0, 0, 0⟩),
   (0x0D6086010002400000000000, .fenceRacq ⟨⟨0, false⟩, 4, 24, 4, 0, 9⟩),
   (0x0D700000A400000000000000, .futNew ⟨⟨0, false⟩, 0, 0, 0, false, 0, 5, 8, 0⟩),
   (0x0D702000A400000000000000, .futNewBind ⟨⟨0, false⟩, 1, 0, 0, false, 0, 5, 8, 0⟩),
   (0x0D800C00A400000000000000, .futGet ⟨⟨0, false⟩, 0, 1, 4, false, 0, 5, 8, 0⟩),
   (0x0D901400A400000000000000, .futSet ⟨⟨0, false⟩, 0, 2, 4, false, 0, 5, 8, 0⟩),
   (0x0D9034000400000000000000, .futSetAbn ⟨⟨0, false⟩, 1, 2, 4, false, 0, 0, 8, 0⟩),
   (0x0DA014012400000000000000, .futReg ⟨⟨0, false⟩, 0, 2, 4, false, 0, 9, 8, 0⟩),
   (0x0DB014012400000000000000, .tskPark ⟨⟨0, false⟩, 0, 2, 4, false, 0, 9, 8, 0⟩),
   (0x0DC014000400000000000000, .tskSpawn ⟨⟨0, false⟩, 0, 2, 4, false, 0, 0, 8, 0⟩)] = true := by decide +kernel

theorem test_words_time : readAs
  [(0x0E0000010000000000000000, .tget ⟨⟨0, false⟩, 0, 0, 4, 0, 0⟩),
   (0x0E1000010000000000000000, .cycCnt ⟨⟨0, false⟩, 0, 0, 4, 0, 0⟩),
   (0x0E1002010000000000000000, .cycMhz ⟨⟨0, false⟩, 0, 8, 4, 0, 0⟩),
   (0x0E200080A048C00000000000, .monMark ⟨⟨0, false⟩, 0, 4, 5, 291⟩),
   (0x0E300080A000800000000000, .bist ⟨⟨0, false⟩, 0, 4, 5, 2⟩)] = true := by decide +kernel

theorem test_words_system : readAs
  [(0x0E800000A004800000000000, .trap ⟨⟨0, false⟩, 0, 0, 5, 18⟩),
   (0x0E9000000000000000000000, .rett ⟨⟨0, false⟩, 0, 0, 0, 0, 0⟩),
   (0x0E9002000000000000000000, .rettSkip ⟨⟨0, false⟩, 0, 8, 0, 0, 0⟩),
   (0x0E9004000140000000000000, .rettTo ⟨⟨0, false⟩, 0, 16, 0, 5, 0⟩),
   (0x0EA000800000C00000000000, .sysRd ⟨⟨0, false⟩, 0, 4, 0, 3⟩),
   (0x0EB00000A004400000000000, .sysWr ⟨⟨0, false⟩, 0, 0, 5, 17⟩),
   (0x0EC000008400000000000000, .ctxSave ⟨⟨0, false⟩, 0, 0, 0, false, 0, 4, 8, 0⟩),
   (0x0ED000008400000000000000, .ctxLoad ⟨⟨0, false⟩, 0, 0, 0, false, 0, 4, 8, 0⟩),
   (0x0EE000000140000000000000, .halt ⟨⟨0, false⟩, 0, 0, 0, 5, 0⟩)] = true := by decide +kernel

/-- Examples of 07, 09 to 15, 18 to 20, 22: the words the spec writes out. -/
theorem test_words_spec : readAs
  [(0x030000014181C00000000000, .vadd ⟨⟨0, false⟩, 0, 0, 5, 6, 7⟩),
   (0x009000000000000000000000, .exit ⟨⟨0, false⟩, false, 0, 0, 0⟩),
   (0x030041024282C00000000000, .vadd ⟨⟨0, false⟩, 2, 4, 9, 10, 11⟩),
   (0x063000004080C00000000102, .vfma ⟨⟨0, false⟩, 0, 0, 1, 2, 3⟩ (some 0x102)),
   (0x09304004080C000000000000, .mmac ⟨⟨0, false⟩, 2, 0, 16, 32, 48⟩ (some 0)),
   (0x09320004080000000001FFFE, .mmac ⟨⟨1, false⟩, 0, 0, 16, 32, 0⟩ (some 0x1FFFE)),
   (0x0A2060808184000000000000, .ldg ⟨⟨0, false⟩, 3, 0, 0, true, 0, 4, 12, 8⟩),
   (0x0A6000028400000165703FFF, .cpIn ⟨⟨0, false⟩, 0, 0, 0, false, 0, 20, 8, 0⟩ (some 0x165703FFF)),
   (0x0C004080A084024000000000, .am ⟨⟨0, false⟩, 2, 0, 0, true, 0, 5, 4, 8⟩ (some 0x24000000000)),
   (0x0C900000C400000000000000, .lsa ⟨⟨0, false⟩, 0, 0, 0, false, 0, 6, 8, 0⟩),
   (0x0D30000140C0000000000000, .barSync ⟨⟨0, false⟩, 0, 0, 5, 3, 0⟩),
   (0x0D6086010002400000000000, .fenceRacq ⟨⟨0, false⟩, 4, 24, 4, 0, 9⟩),
   (0x0D800C00A400000000000000, .futGet ⟨⟨0, false⟩, 0, 1, 4, false, 0, 5, 8, 0⟩),
   (0x0E0000010000000000000000, .tget ⟨⟨0, false⟩, 0, 0, 4, 0, 0⟩),
   (0x0EA000800000C00000000000, .sysRd ⟨⟨0, false⟩, 0, 4, 0, 3⟩),
   (0x0E300080A000800000000000, .bist ⟨⟨0, false⟩, 0, 4, 5, 2⟩)] = true := by decide +kernel

/-- 07: a word of form 01, and a guarded one with its switch marker. -/
theorem test_word_pair : decodeWord freeEnv 0x460000020242A80102061020 =
    .ok ⟨false, false, .vfadd ⟨⟨0, false⟩, 0, 0, 8, 9, 10⟩, some (.ld ⟨⟨0, false⟩, 2, 0, 0, true, 0, 12, 8, 32⟩ none)⟩ ∧
  decodeWord freeEnv 0x230500014181C00000000000 = .ok ⟨true, false, .vadd ⟨⟨2, true⟩, 0, 0, 5, 6, 7⟩, none⟩ := ⟨rfl, rfl⟩
/-- 07, the table after R151: three reads in a bank, one class, a read of what slot A writes, two scalars, control in slot A; form 10. -/
theorem test_word_checks :
    let v (o d a b : Nat) : BitVec 46 := BitVec.ofNat 46 (o * 2 ^ 38 + d * 2 ^ 16 + a * 2 ^ 8 + b)
    decodeWord freeEnv (wordOf 1 false (v 0x30 1 4 8) (v 0x62 2 12 3)) = .error .pair ∧
    decodeWord freeEnv (wordOf 1 false (v 0x30 1 2 3) (v 0x31 4 5 6)) = .error .pair ∧
    decodeWord freeEnv (wordOf 1 false (v 0x60 8 9 10) (encodeOp (.st ⟨⟨0, false⟩, 2, 0, 0, true, 0, 8, 8, 0⟩ none))) = .error .pair ∧
    decodeWord freeEnv (wordOf 1 false (encodeOp (.ld ⟨⟨0, false⟩, 2, 0, 0, true, 0, 12, 8, 0⟩ none)) (encodeOp (.bc ⟨⟨0, false⟩, false, 1, 9, 4⟩)))
      = .error .pair ∧
    decodeWord freeEnv (wordOf 2 false (encodeOp (.br ⟨⟨0, false⟩, false, 0, 0, 4⟩)) (v 0x30 1 2 3)) = .error .pair ∧
    (decodeWord freeEnv (wordOf 2 false (v 0x30 1 2 3) (v 0x60 4 1 1))).toBool = true ∧
    decodeWord ⟨false, false, 64, fun _ => (0, 0)⟩ (wordOf 0 false (v 0x30 70 2 3) 0) = .error .regRange := ⟨rfl, rfl, rfl, rfl, rfl, rfl, rfl⟩
/-- 06, the header example. -/
theorem test_header : decodeHeader 0xA5003080C00010B0 = { decodeHeader 0xA5003080C00010B0 with tag := 0xA5, len := 3, uni := true, leaf := true } ∧
    headerValid 0x400000 (decodeHeader 0xA5003080C00010B0) = true ∧
    fallThrough 0x400000 (decodeHeader 0xA5003080C00010B0) = 0x400030 ∧ fallThrough 0x400000 (decodeHeader 0xA500208040000030) = 0x400020 := by
  decide +kernel

/-! ### Single steps -/

/-- One fragment of 16 lanes in a block of one word at 0x400000, in cohort 0 of core 0. -/
def base : Cohort := hostCohort 0
/-- The machine with that cohort alone. -/
def one (c : Cohort) : State := { State.reset with cohorts := [(0, c)] }
/-- The cohort after an instruction. -/
def after (i : Instr) (s : State) : Cohort := match exec i s with | .next t => t.me | _ => Cohort.vacant
/-- The trap an instruction raises in its slot, with its TRAPINFO. -/
def raised (i : Instr) (s : State) : Option (Cause × DWord) := (after i s).trap.map fun t => (t.cause, t.info)
/-- Scalars s5 and s6. -/
def s56 (a b : DWord) : State := one { base with sr := [(5, a), (6, b)] }
/-- sD = s4 after a G3 op of s5 and s6. -/
def sop (f : G3 → Instr) (ty : BitVec 3) (mod : BitVec 7) (a b : DWord) : DWord := srd (after (f ⟨⟨0, false⟩, ty, mod, 4, 5, 6⟩) (s56 a b)) 4
/-- The same value in every lane of a register. -/
def fill (n : Nat) (v : Word) : Tbl Word := (List.range 16).map fun l => (64 * n + l, v)
/-- v9 of lane 0 after a G3 op of v10 and v11. -/
def vop (f : G3 → Instr) (ty : BitVec 3) (mod : BitVec 7) (a b : Word) : Word :=
  vrd (after (f ⟨⟨0, false⟩, ty, mod, 9, 10, 11⟩) (one { base with vr := [(64 * 10, a), (64 * 11, b)] })) 9 0
/-- A guard by a predicate. -/
def g (n : BitVec 3) : Guard := ⟨n, false⟩

/-! Control (09) -/

/-- R122, R202: after the only word of its block a fragment stands at the fall-through header. -/
theorem test_nop : (entOf (after (.nop ⟨g 0, false, 0, 0, 0⟩) (one base)) 0).hdr = 0x400018 := by decide +kernel
/-- Blocks of one `exit` at 0x400018 and at 0x400030, in an executable page. -/
def code (c : Cohort) : State :=
  { one c with
    tlb := [⟨0, 0, 0x400000, 4096, 0x4000000000000000⟩],
    mem := [(0x1D, 0x10), (0x1F, 0xA5), (0x2A, 0x90), (0x35, 0x10), (0x37, 0xA5), (0x42, 0x90)] }
/-- R196: `br` by 3 units of 8 bytes. -/
theorem test_br : (entOf (after (.br ⟨g 0, false, 0, 0, 3⟩) (code base)) 0).hdr = 0x400018 ∧
    raised (.br ⟨g 0, false, 0, 0, 4⟩) (code base) = some (.badTarget, 0x400020) := by decide +kernel
/-- R196: `bc.gt` of -1 does not transfer. -/
theorem test_bc : (entOf (after (.bc ⟨g 0, false, 4, 5, 5⟩) (code { base with sr := [(5, 0xFFFFFFFFFFFFFFFF)] })) 0).hdr = 0x400018 ∧
    raised (.bc ⟨g 0, false, 2, 5, 4⟩) (code { base with sr := [(5, 0xFFFFFFFFFFFFFFFF)] }) = some (.badTarget, 0x400020) := by decide +kernel
/-- R197: U = 1 on a disagreement traps with the mask of the true lanes. -/
theorem test_bv : raised (.bv ⟨g 1, true, 0, 0, 3⟩) (code { base with pr := [(1, 0x00F0)] }) = some (.uniform, 0x00F0) ∧
    ((after (.bv ⟨g 1, false, 0, 0, 6⟩) (code { base with pr := [(1, 0x00F0)] })).ents.map (·.mask)) = [0x00F0, 0xFF0F] := by decide +kernel
/-- R198: `call` saves the fall-through header in s62; `ret` to an address that is no multiple of 8. -/
theorem test_call : srd (after (.call ⟨g 0, false, 0, 0, 3⟩) (code base)) 62 = 0x400018 ∧
    raised (.ret ⟨g 0, false, 0, 62, 0⟩) (code { base with sr := [(62, 0x400004)] }) = some (.badTarget, 0x400004) := by decide +kernel
/-- R198: `jmpi` adds 8 times its offset. -/
theorem test_jmpi : (entOf (after (.jmpi ⟨g 0, false, 0, 7, 0xFFFFFF⟩) (code { base with sr := [(7, 0x400020)] })) 0).hdr = 0x400018 := by decide +kernel
/-- R199: `loop` with 1 leaves 0 and goes on, with 0 wraps. -/
theorem test_loop : srd (after (.loop ⟨g 0, false, 0, 3, 5⟩) (code { base with sr := [(3, 1)] })) 3 = 0 ∧
    srd (after (.loop ⟨g 0, false, 0, 3, 3⟩) (code base)) 3 = 0xFFFFFFFFFFFFFFFF := by decide +kernel
/-- R200: `exit` of the last lanes frees the slot. -/
theorem test_exit : (after (.exit ⟨g 0, false, 0, 0, 0⟩) (one base)).kind = .vacant := by decide +kernel
/-- R201: `yield` for at most 65,535 cycles. -/
theorem test_yield : (after (.yield ⟨g 0, false, 0, 5, 0⟩) (one { base with sr := [(5, 70000)] })).waits = [.yield 65535] := by decide +kernel
/-- R203: a queue number above 1,023; 04 R82: a queue that is not enabled. -/
theorem test_launch : raised (.launch ⟨g 0, 0, 0, 4, 5, 6⟩) (s56 1024 0) = some (.illegal, 1024) ∧
    srd (after (.launch ⟨g 0, 0, 0, 4, 5, 6⟩) (s56 1023 0)) 4 = 2 := by decide +kernel

/-! Scalar ops (09, the table of edge values) -/

theorem test_sdiv : sop .sdiv 0 0 (-7) 2 = 0xFFFFFFFFFFFFFFFD ∧ sop .sdiv 1 0 5 0 = 0xFFFFFFFF ∧
    sop .sdiv 6 0 0x8000000000000000 0xFFFFFFFFFFFFFFFF = 0x8000000000000000 := by decide +kernel
theorem test_srem : sop .srem 0 0 (-7) 2 = 0xFFFFFFFFFFFFFFFF := by decide +kernel
theorem test_sshr : sop .sshr 0 0 (-16) 34 = 0xFFFFFFFFFFFFFFFC := by decide +kernel
theorem test_sadd : sop .sadd 1 4 0xFFFFFFF0 0x20 = 0xFFFFFFFF ∧ sop .sadd 0 0 0x7FFFFFFF 1 = 0xFFFFFFFF80000000 := by decide +kernel
theorem test_smulh : sop .smulh 7 0 0x8000000000000000 4 = 2 := by decide +kernel
/-- R185: `ssub.sat.n64` clamps at 0; `smul.n32` keeps 32 bits, zero-extended. -/
theorem test_ssub : sop .ssub 7 4 1 2 = 0 := by decide +kernel
theorem test_smul : sop .smul 1 0 0x10001 0x10001 = 0x20001 := by decide +kernel
theorem test_logic : sop .sand 0 0 0xF0F0 0xFF00 = 0xF000 ∧ sop .sor 0 0 0x80000000 1 = 0xFFFFFFFF80000001 ∧ sop .sxor 1 0 0xFFFFFFFF 0xF = 0xFFFFFFF0 := by
  decide +kernel
theorem test_sshl : sop .sshl 0 0 3 31 = 0xFFFFFFFF80000000 := by decide +kernel
theorem test_smin : sop .smin 0 0 0xFFFFFFFF 1 = 0xFFFFFFFFFFFFFFFF ∧ sop .smin 1 0 0xFFFFFFFF 1 = 1 ∧ sop .smax 6 0 0xFFFFFFFFFFFFFFFF 1 = 1 := by decide +kernel
/-- R186: `scmp.lt` signed and unsigned; `sbit` counts of a 32-bit value. -/
theorem test_scmp : sop .scmp 0 16 0xFFFFFFFF 1 = 1 ∧ sop .scmp 1 16 0xFFFFFFFF 1 = 0 := by decide +kernel
theorem test_sbit : sop .sbit 1 0 0xFF00000000000003 0 = 2 ∧ sop .sbit 1 8 1 0 = 31 ∧ sop .sbit 1 16 8 0 = 3 := by decide +kernel
/-- R187: `ssel` copies sA where sD is not 0. -/
theorem test_ssel : srd (after (.ssel ⟨g 0, 7, 0, 4, 5, 6⟩) (one { base with sr := [(4, 9), (5, 1), (6, 2)] })) 4 = 1 ∧ sop .ssel 7 0 1 2 = 2 := by
  decide +kernel
/-- R188: a constant in two words. -/
theorem test_sli : srd (after (.sli ⟨g 0, 6, 4, 0, 0x7FFF⟩ (some 0x3FFFFFFFFFFE)) (one base)) 4 = 0xFFFFFFFFFFFFFFFE ∧
    srd (after (.slui ⟨g 0, 6, 4, 5, 0x1234⟩) (s56 1 0)) 4 = 0x9234 ∧ srd (after (.saddi ⟨g 0, 0, 4, 5, 0x7FFF⟩) (s56 0 0)) 4 = 0xFFFFFFFFFFFFFFFF := by
  decide +kernel
/-- R189: WIDTH, the core, and all ones for a task's grid number. -/
theorem test_sget : srd (after (.sget ⟨g 0, 0, 4, 0, 0⟩) (one base)) 4 = 16 ∧
    srd (after (.sget ⟨g 0, 0, 4, 0, 1⟩) (one { base with kind := .task })) 4 = 0xFFFFFFFFFFFFFFFF := by decide +kernel

/-! Vector integer and lane ops (10, the table of packed results and the examples) -/

theorem test_vadd : vop .vadd 2 4 0x7FF00005 0x0020FFFE = 0x7FFF0003 ∧ vop .vadd 2 0 0x7FF00005 0x0020FFFE = 0x80100003 ∧
    vop .vadd 3 4 0x7FF00005 0x0020FFFE = 0x8010FFFF := by decide +kernel
theorem test_vmulh : vop .vmulh 4 0 0x807F02FF 0x80027F03 = 0x400000FF := by decide +kernel
theorem test_vabs : vop .vabs 0 0 0x80000000 0 = 0x80000000 ∧ vop .vabs 0 4 0x80000000 0 = 0x7FFFFFFF := by decide +kernel
theorem test_vshr : vop .vshr 4 0 0x8040F001 0x09010400 = 0xC020FF01 := by decide +kernel
theorem test_vsub : vop .vsub 5 4 0x00050010 0x00060001 = 0x0000000F := by decide +kernel
theorem test_vmul : vop .vmul 4 0 0x10020304 0x10020304 = 0x00040910 := by decide +kernel
theorem test_vminmax : vop .vmin 4 0 0x80017F02 0x01FF0103 = 0x80FF0102 ∧ vop .vmax 5 0 0x80017F02 0x01FF0103 = 0x80FF7F03 := by decide +kernel
theorem test_vlogic : vop .vand 0 0 0xF0F0F0F0 0xFF00FF00 = 0xF000F000 ∧ vop .vor 0 0 0xF0F0F0F0 0xFF00FF00 = 0xFFF0FFF0 ∧
    vop .vxor 0 0 0xF0F0F0F0 0xFF00FF00 = 0x0FF00FF0 ∧ vop .vnot 0 0 0xF0F0F0F0 0 = 0x0F0F0F0F := by decide +kernel
theorem test_vshl : vop .vshl 3 0 0x00010001 0x00110001 = 0x00020002 ∧ vop .vrot 0 0 0x80000001 33 = 3 := by decide +kernel
theorem test_vbit : vop .vbit 1 0 0xF000000F 0 = 8 ∧ vop .vbit 1 24 1 0 = 0x80000000 ∧ vop .vbit 1 32 0x01020304 0 = 0x04030201 := by decide +kernel
/-- R207-R209: `vmad` with SAT, `vbfe` signed, `vbfi`, the immediates. -/
theorem test_vmad : vrd (after (.vmad ⟨g 0, 0, 9, 10, 11, 12⟩ (some 1)) (one { base with vr := [(640, 0x10000), (704, 0x10000), (768, 5)] })) 9 0 = 0x7FFFFFFF := by
  decide +kernel
theorem test_vbfe : vrd (after (.vbfe ⟨g 0, 0, 9, 10, 0, 12⟩) (one { base with vr := [(640, 0x0000F000), (768, 0x040C)] })) 9 0 = 0xFFFFFFFF ∧
    vrd (after (.vbfi ⟨g 0, 0, 9, 10, 11, 12⟩) (one { base with vr := [(640, 0xFFFFFFFF), (768, 0x040C)] })) 9 0 = 0xFFFF0FFF := by decide +kernel
theorem test_vmovi : vrd (after (.vmovi ⟨g 0, 0, 3, 0, 0⟩ (some 0x12345)) (one base)) 3 7 = 0x12345 ∧
    vrd (after (.vaddi ⟨g 0, 0, 9, 10, 0x7FFF⟩ none) (one { base with vr := [(645, 3)] })) 9 5 = 2 := by decide +kernel
theorem test_vmov : vop .vmov 0 0 7 0 = 7 ∧ vrd (after (.s2v ⟨g 0, 0, 0, 9, 5, 0⟩) (s56 0x1_0000_0007 0)) 9 15 = 7 := by decide +kernel
theorem test_vsel : vop .vsel 0 8 7 9 = 9 := by decide +kernel
theorem test_vcmp : prd (after (.vcmp ⟨g 0, 0, 16, 3, 10, 11⟩) (one { base with vr := [(640, 0xFFFFFFFF)] })) 3 0 = true ∧
    prd (after (.vcmp ⟨g 0, 1, 16, 3, 10, 11⟩) (one { base with vr := [(640, 0xFFFFFFFF)] })) 3 0 = false := by decide +kernel
theorem test_vcvti : vop .vcvti 5 20 0x0100FFF0 0x0011007F = 0x117FFF00 ∧ vop .vcvti 5 16 0x0100FFF0 0x0011007F = 0x117F00F0 := by decide +kernel
/-- p1 has lanes 0-3 set, v2 holds 5, -3, 7, 2 there. -/
def lanes4 : Cohort := { base with pr := [(1, 0xF)], vr := [(128, 5), (129, 0xFFFFFFFD), (130, 7), (131, 2)] }
/-- v3 of lanes 0-4 after a scan. -/
def scan (m : BitVec 7) : List Word := (List.range 5).map fun l => vrd (after (.vscan ⟨g 1, 0, m, 3, 2, 0⟩) (one lanes4)) 3 l
theorem test_vscan : scan 0 = [5, 2, 9, 11, 0] ∧ scan 0x40 = [0, 5, 2, 9, 0] ∧ scan 16 = [5, 5, 7, 7, 0] := by decide +kernel
/-- R216, R217: the sum waits for its write; j1 = 11, SEQ 1. -/
theorem test_vred : (after (.vred ⟨g 1, 0, 0, 1, 2, 0⟩) (one lanes4)).reds.map (fun p => (p.j, p.value)) = [(1, 11)] := by decide +kernel
theorem test_jget : raised (.jget ⟨g 0, 0, 0, 4, 1, 5⟩) (s56 2 0) = some (.illegal, 2) ∧
    raised (.jget ⟨g 0, 0, 0, 4, 1, 5⟩) (one { base with sr := [(5, 1)], jr := [(1, ⟨0, 1, true⟩)] }) = some (.jPoison, 0x100000001) := by decide +kernel
/-- R214: `vbcast` reads lane 12 of a lane outside the fragment; `vshfl.up` keeps the lanes below; `vlane`, `vrotl`. -/
theorem test_vbcast : vrd (after (.vbcast ⟨g 0, 1, 0, 5, 4, 6⟩) (one { base with sr := [(6, 12)], vr := [(268, 9)] })) 5 0 = 9 := by decide +kernel
theorem test_vshfl : (List.range 4).map (vrd (after (.vshfl ⟨g 0, 0, 8, 3, 2, 5⟩) (one { lanes4 with sr := [(5, 1)] })) 3) = [5, 5, 0xFFFFFFFD, 7] ∧
    vrd (after (.vrotl ⟨g 0, 0, 0, 3, 2, 5⟩) (one { lanes4 with sr := [(5, 1)] })) 3 15 = 5 ∧
    vrd (after (.vlane ⟨g 0, 0, 0, 3, 2, 4⟩) (one { lanes4 with vr := lanes4.vr ++ [(256, 18)] })) 3 0 = 7 := by decide +kernel
/-- R220: ballots and predicate logic. -/
theorem test_predicates : srd (after (.vballot ⟨g 0, 0, 0, 4, 1, 0⟩) (one lanes4)) 4 = 0xF ∧ srd (after (.pcnt ⟨g 0, 0, 0, 4, 1, 0⟩) (one lanes4)) 4 = 4 ∧
    srd (after (.pfirst ⟨g 0, 0, 0, 4, 2, 0⟩) (one lanes4)) 4 = 0xFFFFFFFFFFFFFFFF ∧
    prd (after (.plog ⟨g 0, 0, 24, 3, 0, 1⟩) (one lanes4)) 3 4 = true ∧ prd (after (.plog ⟨g 0, 0, 24, 3, 0, 1⟩) (one lanes4)) 3 3 = false ∧
    prd (after (.pmov ⟨g 0, 0, 0, 3, 5, 0⟩) (s56 0x8000 0)) 3 15 = true := by decide +kernel
/-- R221, R222: x2 covers v16 to v47; an index out of bound traps with the lane. -/
theorem test_index : xrd (after (.xset ⟨g 0, 0, 2, 16, 32⟩) (one base)) 2 = ⟨16, 32⟩ ∧
    vrd (after (.vldx ⟨g 0, 0, 0, 9, 2, 11⟩) (one { base with xr := [(2, ⟨16, 32⟩)], vr := [(704, 31), (3008, 5)] })) 9 0 = 5 ∧
    raised (.vldx ⟨g 0, 0, 0, 9, 2, 11⟩) (one { base with xr := [(2, ⟨16, 32⟩)], vr := [(706, 32)] }) = some (.idxBound, 0x2000000002) ∧
    vrd (after (.vstx ⟨g 0, 0, 0, 2, 10, 11⟩) (one { base with xr := [(2, ⟨16, 32⟩)], vr := [(640, 8), (704, 1)] })) 17 0 = 8 := by decide +kernel

/-! Floating-point ops (03, 11, the tables of results) -/

/-- v9 of lane 0 and FSTAT after a G3 op of v10 and v11. -/
def fop (f : G3 → Instr) (ty : BitVec 3) (mod : BitVec 7) (a b : Word) : Word × DWord :=
  let c := after (f ⟨g 0, ty, mod, 9, 10, 11⟩) (one { base with vr := [(640, a), (704, b)] })
  (vrd c 9 0, c.fstat)
/-- v9 of lane 0 and FSTAT after a fused op of v10, v11 and v12. -/
def fma (f : G4 → Ext → Instr) (a b c : Word) : Word × DWord :=
  let c := after (f ⟨g 0, 0, 9, 10, 11, 12⟩ none) (one { base with vr := [(640, a), (704, b), (768, c)] })
  (vrd c 9 0, c.fstat)
/-- The result a variable-latency op of v10 and v11 leaves for v9 of lane 0, with its flags. -/
def later (f : G3 → Instr) (ty : BitVec 3) (mod : BitVec 7) (a b : Word) : Option (DWord × BitVec 6) :=
  (after (f ⟨g 0, ty, mod, 9, 10, 11⟩) (one { base with vr := [(640, a), (704, b)], ents := base.ents.map fun e => { e with mask := 1 } })).pend.head?.bind
    fun p => p.writes.head?.map fun w => (w.val, p.flags)

theorem test_vfadd : fop .vfadd 0 1 0 0x80000000 = (0, 0) ∧ fop .vfadd 0 4 0 0x80000000 = (0x80000000, 0) := by decide +kernel
theorem test_vfma : fma .vfma 0 0x7F800000 0x7FC00001 = (0x7FC00001, 1) ∧ fma .vfma 0x3F800000 0x7F800002 0xFFC00003 = (0x7FC00002, 1) := by decide +kernel
theorem test_vfms : fma .vfms 0x3F800000 0x3F800000 0x7FC00001 = (0xFFC00001, 0) := by decide +kernel
theorem test_vfnma : fma .vfnma 0x40000000 0x40400000 0x3F800000 = (0xC0E00000, 0) ∧ fma .vfnms 0x40000000 0x40400000 0x3F800000 = (0xC0A00000, 0) := by decide +kernel
/-- 2.5 - 1.0 and 2^64 x 2^64, which overflows; R227. -/
theorem test_vfsub : fop .vfsub 0 0 0x40200000 0x3F800000 = (0x3FC00000, 0) ∧ (fop .vfmul 0 0 0x5F800000 0x5F800000).1 = 0x7F800000 := by decide +kernel
/-- R229: -0 below +0; one NaN gives the other operand; `.nan` keeps it. -/
theorem test_vfmin : fop .vfmin 0 0 0 0x80000000 = (0x80000000, 0) ∧ fop .vfmax 0 0 0x7FC00001 0x3F800000 = (0x3F800000, 0) ∧
    fop .vfmin 0 1 0x7FC00001 0x3F800000 = (0x7FC00001, 0) := by decide +kernel
/-- R230, R231: -0 equals +0. -/
theorem test_vfcmp : prd (after (.vfcmp ⟨g 0, 0, 0, 3, 10, 11⟩) (one { base with vr := [(640, 0x80000000)] })) 3 0 = true := by decide +kernel
/-- R232: 1/0 is an infinity with divide-by-zero; the root of -1 the default NaN with invalid; the root of 2. -/
theorem test_vfdiv : later .vfdiv 0 0 0x3F800000 0 = some (0x7F800000, 2) := by decide +kernel
theorem test_vfsqrt : later .vfsqrt 0 0 0xBF800000 0 = some (0x7FC00000, 1) ∧ (later .vfsqrt 0 0 0x40000000 0).map (·.1) = some 0x3FB504F3 := by decide +kernel
/-- R235, R236: 2.5 to an integer, ties to even; 1.0 scaled by 2^3. -/
theorem test_vfrnd : (fop .vfrnd 0 1 0x40200000 0).1 = 0x40000000 ∧ (fop .vfscl 0 0 0x3F800000 3).1 = 0x41000000 := by decide +kernel
/-- R238: -0 gives 0; an infinity clamps with invalid; R57: a NaN gives 0. -/
theorem test_vfcvti : fop .vfcvti 0 0 0x80000000 0 = (0, 0) ∧ fop .vfcvti 0 0 0x7F800000 0 = (0x7FFFFFFF, 1) ∧ fop .vfcvti 0 8 0x7FC00000 0 = (0, 1) := by
  decide +kernel
/-- 03: narrowing and widening NaNs, ties, E4M3, dither, scales, doublets. -/
theorem test_narrow : roundTo .f16 rne false (decodeFloat .f32 0x7F800001) = (0x7E00, 1) ∧ roundTo .f32 rne false (decodeFloat .f16 0xFE01) = (0xFFC02000, 0) ∧
    roundTo .bf16 rne false (decodeFloat .f32 0x3F808000) = (0x3F80, 16) ∧ roundTo .bf16 rne false (decodeFloat .f32 0x3F818000) = (0x3F82, 16) := by
  decide +kernel
theorem test_e4m3 : (roundTo .e4m3 rne true (.fin false 300 1)).1 = 0x79 ∧ (roundTo .e4m3 rne true (.fin false 465 1)).1 = 0x7E ∧
    (roundTo .e4m3 rne false (.fin false 465 1)).1 = 0x7F ∧ (roundTo .e4m3 rne true (.fin false 5 1000)).1 = 0x03 := by decide +kernel
theorem test_doublets : dblVal 0x0A = 48 ∧ dblVal 0x12 = 48 ∧ dblVal 0x1C = 28 ∧ dblVal 0x08 = 0 ∧ dblCanon 48 = some 0x0A := by decide +kernel
theorem test_windows : windowSum [(false, 2 ^ 30, 1), (false, 1, 1), (true, 2 ^ 30, 1), (false, 1, 2 ^ 40)] = (0x3F800000, 16) ∧
    (windowSum [(false, 3 * 2 ^ 126, 1), (false, 2 ^ 127, 1)]).1 = 0x7F800000 := by decide +kernel
/-- 11, the example of `vqsc`, `vqnt` and `vdqnt`: slot 2 is MXFP8 E4M3 with SAT. -/
def quant : Cohort :=
  { base with fslots := [0, 0, 0x8C4], ents := base.ents.map fun e => { e with mask := 1 },
              vr := [(64 * 7, 0x7F), (64 * 32, 0x43960000), (64 * 33, 0x43E88000), (64 * 34, 0x3BA3D70A), (64 * 35, 0xBF800000)] }
theorem test_vqsc : vrd (after (.vqsc ⟨g 0, 2, 0, 7, 32, 0⟩) (one quant)) 7 0 = 0x7F := by decide +kernel
theorem test_vqnt : (let c := after (.vqnt ⟨g 0, 2, 0, 8, 32, 7⟩) (one quant)
    (vrd c 8 0, vrd c 9 0, c.fstat)) = (0xB8037E79, 0, 0x1C) := by decide +kernel
theorem test_vdqnt : (let c := after (.vdqnt ⟨g 0, 2, 0, 40, 8, 7⟩) (one { quant with vr := [(64 * 7, 0x7F), (64 * 8, 0xB8037E79)] })
    [vrd c 40 0, vrd c 41 0, vrd c 42 0, vrd c 43 0, vrd c 44 0]) = [0x43900000, 0x43E00000, 0x3BC00000, 0xBF800000, 0] := by decide +kernel

/-! Matrix ops (12, the example of the doublet plane in lane 3; 08 R180) -/

/-- Column n of the example: A of E2M1, the doublet plane with block 0 of column 0 scaled by code `sc`. -/
def cell (sc n : Nat) (acc : Option Nat) (kk : Nat) : Nat × Flags :=
  match slotFields 0x006, slotFields 0x0C9 with
  | some a, some b =>
    matCell .q (a, []) (b, []) ⟨.valid, 1, (List.range 32).map fun i => if i = 0 then 0x0A else if i = 16 then 0x12 else 0x77, [sc], .none0, 0⟩ kk n
      [0x7, 0xD] [] acc
  | _, _ => (0, 0)
theorem test_mmac_column : cell 0x80 0 (some 0x3F000000) 2 = (0x40A00000, 0) ∧ cell 0x80 0 (some 0x3F000000) 1 = (0x41180000, 0) ∧
    cell 0x80 0 none 2 = (0x40900000, 0) ∧ cell 0x7F 0 (some 0x3F000000) 2 = (0x40300000, 0) := by decide +kernel
/-- R257: with no plane loaded `mmac` is illegal; R37: a slot that is not valid. -/
theorem test_mmac_checks : raised (.mmac ⟨g 0, 0, 0, 16, 32, 0⟩ none) (one { base with fslots := [0x006] }) = some (.illegal, 0) ∧
    raised (.mmacz ⟨g 0, 0, 0, 16, 32, 0⟩ none) (one { base with fslots := [0x01F] }) = some (.fSlot, 0) := by decide +kernel
/-- 08: BF16 rows of equal elements at W = 32: c = 8, U = 2. -/
theorem test_matCharge : matCharge 32 .h .bf16 .bf16 (List.replicate 32 (List.replicate 32 0x3F80)) = (2, 8) := by decide +kernel
/-- R254: a swap makes the loaded shadow plane the active one. -/
theorem test_mswp : (after (.mswp ⟨g 0, 0, 0, 0, 0, 0⟩) (one { base with shd := ⟨.valid, 1, [7], [], .none0, 0⟩ })).act.codes = [7] := by decide +kernel
/-- R251: an address that is no multiple of 8; scales for a shadow plane that is empty. -/
theorem test_mld : (raised (.mld ⟨g 0, 1, 0, 0, true, 0, 0, 10, 2⟩ (some 0)) (one { base with fslots := [0, 0x0C9], sr := [(10, 4)] })).map (·.1) = some .align ∧
    (raised (.mldsc ⟨g 0, 1, 0, 0, true, 0, 0, 10, 0⟩) (one { base with fslots := [0, 0x0C9], sr := [(10, 4)] })).map (·.1) = some .fSlot := by
  decide +kernel
/-- R263, R264: nothing queued; MUSED 0; the credit is CAP, 64 units. -/
theorem test_mwait : (entOf (after (.mwait ⟨g 0, 0, 0, 0, 0, 0⟩) (one base)) 0).hdr = 0x400018 ∧ srd (after (.mbudUsed ⟨g 0, 0, 0, 4, 0, 0⟩) (s56 0 0)) 4 = 0 ∧
    srd (after (.mbudCred ⟨g 0, 0, 8, 4, 0, 0⟩) (s56 0 0)) 4 = 64 := by decide +kernel

/-! Memory (14): a block with 20 KiB of scratch, the granules 20 to 24 of core 0 -/

/-- A state with that block. -/
def scr (c : Cohort) : State :=
  { one c with blks := [(0, { Blk.none with used := true, kind := .grid, scratch := some ⟨0, 20, 5⟩, cids := [0], threads := 16, cores := [0] })] }
/-- The byte of scratch address 0x10000 + o. -/
def scrKey (o : Nat) : Nat := scratchKey 0 (20 * 4096) + o
/-- The state after an instruction. -/
def ran (i : Instr) (s : State) : State := match exec i s with | .next t => t | _ => s
/-- The writes the youngest result of a cohort holds, where they are known. -/
def result (c : Cohort) : Option (List Wr) := c.pend.getLast?.bind (pendReady c)
/-- R284, R285, R190: least significant byte first; the highest lane stands; alignment; space. -/
theorem test_sst : (ran (.sst ⟨g 0, 2, 0, 0, false, 1, 4, 8, 1⟩ none) (scr { base with sr := [(4, 0x1122334455667788), (8, 0x10000)] })).bytes (scrKey 3) 6 =
    [0, 0x88, 0x77, 0x66, 0x55, 0] := by decide +kernel
theorem test_sld : result (after (.sld ⟨g 0, 5, 0, 0, false, 1, 4, 8, 0⟩ none) { scr { base with sr := [(8, 0x10000)] } with mem := [(scrKey 0, 0x34), (scrKey 1, 0x92)] })
    = some [⟨.s 4, 0xFFFFFFFFFFFF9234⟩] := by decide +kernel
theorem test_st : raised (.st ⟨g 0, 2, 0, 0, false, 1, 4, 8, 0⟩ none) (scr { base with sr := [(8, 0x10001)] }) = some (.align, 0x10001) ∧
    raised (.st ⟨g 0, 2, 0, 0, false, 1, 4, 8, 0⟩ none) (scr { base with sr := [(8, 0x14FE0)] }) = some (.protect, 0x15000) := by decide +kernel
theorem test_stg : (ran (.stg ⟨g 0, 2, 0, 0, false, 1, 4, 12, 8⟩) (scr { base with sr := [(8, 0x10000)], vr := (List.range 16).map fun l => (256 + l, BitVec.ofNat 32 (l + 1)) })).byte
    (scrKey 0) = 16 := by decide +kernel
theorem test_ldg : result (after (.ldg ⟨g 1, 0, 0, 0, false, 1, 4, 12, 8⟩) { scr { base with sr := [(8, 0x10000)], pr := [(1, 2)], vr := [(769, 3)] } with
    mem := [(scrKey 3, 0x80)] }) = some [⟨.v 4 1, 0x80⟩] := by decide +kernel
theorem test_ld : ((result (after (.ld ⟨g 1, 3, 0, 0, false, 1, 4, 8, 0⟩ none) { scr { base with sr := [(8, 0x10000)], pr := [(1, 2)] } with
    mem := [(scrKey 8, 0x11), (scrKey 12, 0x22)] })).map fun l => l.map fun w => (w.dst, w.val.extractLsb' 0 32)) = some [(.v 4 1, 0x11), (.v 5 1, 0x22)] := by decide +kernel
theorem test_quad : (result (after (.ldq ⟨g 1, 2, 0, 0, false, 1, 4, 8, 0⟩ none) { scr { base with sr := [(8, 0x10000)], pr := [(1, 2)] } with
    mem := [(scrKey 28, 0x44)] })) = some [⟨.v 4 1, 0⟩, ⟨.v 5 1, 0⟩, ⟨.v 6 1, 0⟩, ⟨.v 7 1, 0x44⟩] ∧
    (ran (.stq ⟨g 1, 2, 0, 0, false, 1, 4, 8, 0⟩ none) (scr { base with sr := [(8, 0x10000)], pr := [(1, 2)], vr := [(64 * 7 + 1, 0x44)] })).byte (scrKey 28) = 0x44 := by
  decide +kernel
/-- R288, R289: a near address that is no multiple of 16; the request of the example's extension: 4,096 bytes, barrier 3. -/
theorem test_cpIn : raised (.cpIn ⟨g 0, 0, 0, 0, false, 0, 20, 8, 0⟩ (some 0xFFF)) (scr { base with sr := [(20, 0x10008)] }) = some (.align, 0x10008) := by decide +kernel
theorem test_cpOut : (ran (.cpOut ⟨g 0, 0, 0, 0, false, 1, 20, 8, 0⟩ (some 0x1F)) (scr { base with sr := [(20, 0x10000), (8, 0x11000)] })).copies.map
    (fun r => (r.todo, r.toNear, r.near, r.far)) = [([0, 1], false, 0x10000, 0x11000)] ∧
    (ran (.cpTile ⟨g 0, 0, 0, 0, false, 1, 20, 8, 0⟩ (some 0x100)) (scr { base with sr := [(20, 0x10000), (21, 64), (8, 0x11000)] })).copies.map
    (fun r => (r.farAddr 0, r.farAddr 1)) = [(0x11000, 0x11040)] := by decide +kernel
/-- R294, R295: bytes held from before meet their expectation at once. -/
theorem test_bcb : barOf ((ran (.bcbExp ⟨g 0, 0, 0, 0, 3, 6⟩) { scr { base with sr := [(6, 4096)] } with
    blks := [(0, { (scr base).blk 0 with bars := [(3, some ⟨0, true, false, 0, 5000, [], 0, false, 0⟩)] })] }).blk 0) 3 = some ⟨0, true, false, 0, 904, [], 1, false, 0⟩ ∧
    raised (.bcbWt ⟨g 0, 0, 0, 5, 3, 6⟩) (scr base) = some (.illegal, 3) := by decide +kernel
/-- R287, R296: `pref` traps on nothing; `wadr.ne` returns the word that differs. -/
theorem test_wadr : srd (after (.wadr ⟨g 0, 2, 0, 0, false, 1, 5, 8, 0⟩) { scr { base with sr := [(8, 0x10000)] } with mem := [(scrKey 0, 9)] }) 5 = 9 ∧
    raised (.pref ⟨g 0, 2, 0, 0, false, 0, 0, 8, 0⟩ none) (one { base with sr := [(8, 1)] }) = none := by decide +kernel
/-- R297: a descriptor address that is no multiple of 64. -/
theorem test_xdma : raised (.xdma ⟨g 0, 0, 0, 0, false, 0, 4, 8, 0⟩ (some 0)) (one { base with sr := [(8, 32)] }) = some (.align, 32) := by decide +kernel
/-- R301: a handle above 255; R302, the example: three granules lapse, six do not fit. -/
theorem test_res : raised (.resDrop ⟨g 0, 0, 0, 0, 5, 0⟩) (s56 256 0) = some (.illegal, 0) ∧ raised (.resSetPrio ⟨g 0, 3, 0, 0, 5, 0⟩) (s56 1 0) = some (.protect, 1) ∧
    srd (after (.resBind ⟨g 0, 3, 0, 4, 5, 6⟩) (s56 0x1000 0x1000)) 4 = 0 := by decide +kernel
theorem test_life : ((ran (.resSetLifeS ⟨g 0, 2, 8, 7, 4, 5⟩) (scr { base with sr := [(4, 0x12000), (5, 0x3000), (7, 16000000)] })).gran (scrKey 0x2000)) = ⟨2, 0, 16000000, false⟩ ∧
    raised (.resSetLifeS ⟨g 0, 2, 8, 7, 4, 5⟩) (scr { base with sr := [(4, 0x12000), (5, 0x4000), (7, 16000000)] }) = some (.protect, 0x15000) := by decide +kernel

/-! Atomics and leases (18) -/

/-- R360, R366: lane 1 adds 5 to 2^32 - 1; the old unit is its result. -/
theorem test_am : (let t := ran (.am ⟨g 1, 2, 0, 0, false, 1, 5, 4, 8⟩ (some 0x24000000000)) { scr { base with sr := [(8, 0x10000)], pr := [(1, 2)], vr := [(321, 5)] } with
      mem := (List.range 4).map fun i => (scrKey i, 0xFF) }
    (t.bytes (scrKey 0) 4, result t.me)) = ([4, 0, 0, 0], some [⟨.v 9 1, 0xFFFFFFFF⟩]) := by decide +kernel
theorem test_atom_functions : atomStep (.int 7 false) 4 7 7 0 0 = (some 0, 0) ∧ atomStep (.int 8 false) 4 0 5 0 0 = (some 5, 0) ∧
    atomStep .cas 4 3 9 3 0 = (some 9, 0) ∧ atomStep .gts 4 0xFFFFFFFF 0 0 0 = (some 0, 0) ∧ atomStep .vcs 4 0x1234 0xFF 0x1200 0xFF00 = (some 0x34, 0) ∧
    atomStep .pcs 16 1 2 1 0 = (some 2, 0) ∧ atomStep (.flt 0 0) 4 0x4B800000 0x3F800000 0 0 = (some 0x4B800000, 16) := by decide +kernel
/-- R375: a host page takes no lease; R377: no slot for the line. -/
theorem test_lease : srd (after (.lsr ⟨g 0, 0, 0, 0, false, 0, 6, 8, 0⟩) (one base)) 6 = 3 ∧
    raised (.lsa ⟨g 0, 0, 0, 0, false, 0, 6, 8, 0⟩) { one { base with sr := [(8, 0x400080)] } with
      tlb := [⟨0, 0, 0x400000, 4096, 0x2810000000000000⟩] } = some (.lease, 0x400080) := by decide +kernel

/-! Barriers, fences, futures (19): the carve region of die 0, 2 MiB of context 0 -/

/-- A block of three cohorts, 40 threads, with an arrival barrier 0 that counts all. -/
def bars (c : Cohort) (arr : List Nat) : State :=
  { scr c with blks := [(0, { (scr c).blk 0 with threads := 40, bars := [(0, some ⟨0, false, true, 0, 0, arr, 0, false, 0⟩)] })] }
/-- R383: with 24 of 40 threads arrived 16 more complete the phase; with 8 they do not. -/
theorem test_barrier : srd (after (.barSync ⟨g 0, 0, 0, 5, 0, 0⟩) (bars base ((List.range 24).map (· + 16)))) 5 = 1 ∧
    ((after (.barSync ⟨g 0, 0, 0, 5, 0, 0⟩) (bars base [16])).ents.map (·.wait)) = [some ⟨some 0, some 1, false⟩] ∧
    srd (after (.barArv ⟨g 0, 0, 0, 5, 0, 0⟩) (bars base [])) 5 = 1 ∧ srd (after (.barWt ⟨g 0, 0, 0, 5, 0, 6⟩) (bars base [])) 5 = 0 := by decide +kernel
/-- R381: ALL with a count of 0; a freed barrier; R384: a task has no cluster. -/
theorem test_barIni : barOf ((ran (.barIniArv ⟨g 0, 0, 0, 0, 3, 0⟩) (scr base)).blk 0) 3 = some ⟨0, false, true, 0, 0, [], 0, false, 0⟩ ∧
    (barOf ((ran (.barIniByte ⟨g 0, 0, 8, 0, 3, 0⟩) (scr base)).blk 0) 3).map (·.byteMode) = some true ∧
    barOf ((ran (.barIniFree ⟨g 0, 0, 16, 0, 0, 0⟩) (bars base [])).blk 0) 0 = none ∧
    raised (.barCl ⟨g 0, 0, 0, 5, 0, 0⟩) (one { base with kind := .task }) = some (.illegal, 0) ∧
    raised (.barDie ⟨g 0, 0, 0, 5, 0, 0⟩) (one { base with kind := .task }) = some (.illegal, 0) := by decide +kernel
/-- R352: nothing to release or acquire. -/
theorem test_fence : (entOf (after (.fenceFull ⟨g 0, 1, 16, 0, 0, 0⟩) (one base)) 0).hdr = 0x400018 ∧
    (entOf (after (.fenceRel ⟨g 0, 1, 0, 0, 0, 0⟩) (one base)) 0).hdr = 0x400018 ∧ (entOf (after (.fenceAcq ⟨g 0, 1, 8, 0, 0, 0⟩) (one base)) 0).hdr = 0x400018 ∧
    raised (.fenceRacq ⟨g 0, 4, 24, 4, 0, 5⟩) (s56 4 0) = some (.align, 4) := by decide +kernel
/-- A future at carve address 0 with a state word and a value. -/
def fut (c : Cohort) (w v : Byte) : State :=
  { one c with dies := [(0, { Die.reset with mcSize := 1 })], mem := [(carveKey 0 0, w), (carveKey 0 8, v)] }
/-- R389: states and statuses. -/
theorem test_future : raised (.futSet ⟨g 0, 0, 2, 4, false, 3, 5, 0, 0⟩) (fut base 2 1) = some (.futDouble, 0) ∧
    raised (.futGet ⟨g 0, 0, 0, 0, false, 3, 5, 0, 0⟩) (fut base 3 1) = some (.futAbandon, 0) ∧
    result (after (.futGet ⟨g 0, 0, 0, 0, false, 3, 5, 0, 0⟩) (fut base 2 42)) = some [⟨.s 5, 42⟩] ∧
    (ran (.futSet ⟨g 0, 0, 2, 4, false, 3, 5, 0, 0⟩) (fut { base with sr := [(5, 42)] } 4 0)).byte (carveKey 0 0) = 2 ∧
    srd (after (.futNew ⟨g 0, 0, 0, 0, false, 3, 5, 0, 0⟩) (fut base 1 1)) 5 = 1 ∧ srd (after (.futNew ⟨g 0, 0, 0, 0, false, 3, 5, 0, 0⟩) (fut base 2 1)) 5 = 0 := by
  decide +kernel
theorem test_future_bind : (after (.futNewBind ⟨g 0, 1, 0, 0, false, 3, 5, 0, 0⟩) (fut base 2 1)).bound = [(0, carveKey 0 0)] ∧
    (ran (.futSetAbn ⟨g 0, 1, 2, 4, false, 3, 0, 0, 0⟩) (fut base 4 0)).byte (carveKey 0 0) = 3 ∧
    raised (.futReg ⟨g 0, 0, 2, 4, false, 3, 9, 0, 0⟩) (fut { base with sr := [(9, 32)] } 0 0) = some (.align, 32) ∧
    raised (.tskSpawn ⟨g 0, 0, 2, 4, false, 3, 0, 8, 0⟩) (fut { base with ctx := 1, sr := [(8, 64)] } 0 0) = some (.protect, 64) ∧
    (raised (.tskPark ⟨g 0, 0, 2, 4, false, 3, 0, 8, 0⟩) (fut { base with sr := [(8, 32)] } 0 0)) = some (.align, 32) := by decide +kernel

/-! Time, self-test, system (15, 20, 22) -/

theorem test_tget : srd (after (.tget ⟨g 0, 0, 0, 4, 0, 0⟩) { one base with dies := [(0, { Die.reset with time := 77 })] }) 4 = 77 ∧
    srd (after (.tget ⟨g 0, 0, 0, 4, 0, 0⟩) (one base)) 5 = 0xFFFFFFFF00000040 := by decide +kernel
theorem test_cyc : srd (after (.cycMhz ⟨g 0, 0, 8, 4, 0, 0⟩) (one base)) 4 = 1750 ∧
    srd (after (.cycCnt ⟨g 0, 0, 0, 4, 0, 0⟩) { one base with dies := [(0, { Die.reset with cyc := 5 })] }) 4 = 5 := by decide +kernel
theorem test_monMark : srd (after (.monMark ⟨g 0, 0, 4, 5, 0x123⟩) (one base)) 4 = 0xFFFFFFFFFFFFFFFF := by decide +kernel
theorem test_bist : raised (.bist ⟨g 0, 0, 4, 5, 2⟩) (one base) = some (.priv, 2) ∧ raised (.bist ⟨g 0, 0, 4, 5, 6⟩) (one { base with priv := true }) = some (.illegal, 6) := by
  decide +kernel
theorem test_trap : (after (.trap ⟨g 0, 0, 0, 5, 0x12⟩) (s56 9 0)).dtraps.map (fun t => (t.cause, t.info, t.sw)) = [(.lease, 9, true)] ∧
    raised (.trap ⟨g 0, 0, 0, 5, 0x17⟩) (s56 9 0) = some (.illegal, 0x17) := by decide +kernel
/-- 20, the example: slot A done, slot B of word 5 misses a page. -/
def missed : State :=
  { one { base with ents := base.ents.map fun e => { e with widx := 5, inWord := true, runB := true, triedB := true, blk := ⟨0xA500600000000000, List.replicate 6 0⟩ },
                    trap := some ⟨0, .xlate, 0x1234, false, false, none, none, false⟩, sr := [(60, 6), (61, 7)] } with ctxs := [(0, { Ctx.reset with traphdr := 0x500001 })] }
theorem test_trapDelivery : (let c := (ran (.trapDelivery 0) missed).cohort 0
    [c.tcause, c.tinfo, c.tpc, c.sav0, c.sav1]) = [0x8200500000000008, 0x1234, 0x400000, 6, 7] := by decide +kernel
/-- R411: outside a handler; `rett` brings s60 back and clears INH. -/
theorem test_rett : raised (.rett ⟨g 0, 0, 0, 0, 0, 0⟩) (one base) = some (.illegal, 0) ∧ raised (.rettSkip ⟨g 0, 0, 8, 0, 0, 0⟩) (one base) = some (.illegal, 0) ∧
    (let c := after (.rett ⟨g 0, 0, 0, 0, 0, 0⟩) { ran (.trapDelivery 0) missed with cur := ⟨0, 1, false⟩ }
     (srd c 60, c.tcause.getLsbD 63, c.ents.map (·.id))) = (6, false, [0]) ∧
    raised (.rettTo ⟨g 0, 0, 16, 0, 5, 0⟩) { one { base with tcause := 0x8000000000000000, handler := some (0, 1), sr := [(5, 4)] } with cur := ⟨0, 0, false⟩ } =
      some (.badTarget, 4) := by decide +kernel
theorem test_sys : srd (after (.sysRd ⟨g 0, 0, 4, 0, 1⟩) (one base)) 4 = 0x20 ∧ (after (.sysWr ⟨g 0, 0, 0, 5, 0⟩) (s56 0xFFF 0)).fstat = 0x3F ∧
    raised (.sysWr ⟨g 0, 0, 0, 5, 0x14⟩) (s56 0 0) = some (.priv, 0x14) := by decide +kernel
theorem test_ctx : raised (.ctxSave ⟨g 0, 0, 0, 0, false, 0, 4, 8, 0⟩) (one base) = some (.priv, 0) ∧
    raised (.ctxLoad ⟨g 0, 0, 0, 0, false, 0, 4, 8, 0⟩) (one { base with priv := true, sr := [(8, 8)] }) = some (.align, 8) := by decide +kernel
theorem test_halt : ((ran (.halt ⟨g 0, 0, 0, 0, 5, 0⟩) (s56 9 0)).ctx 0).records.map (fun r => (r.getD 0 0 &&& 0xFF, r.getD 2 0, r.getD 6 0)) = [(0, 0x400018, 9)] := by
  decide +kernel

/-! Steps of other agents -/

/-- R146: OPC 0x00. -/
theorem test_illegalWord : raised (.illegalWord 0x10000) (one base) = some (.illegal, 0) := by decide +kernel
/-- 10 R217, R218: a write of a reduction; a residue mismatch. -/
theorem test_vredWrite : (let s := ran (.vred ⟨g 1, 0, 0, 1, 2, 0⟩) (one lanes4)
    [jrd ((ran (.vredWrite 0 0 false) s).cohort 0) 1, jrd ((ran (.vredWrite 0 0 true) s).cohort 0) 1]) = [⟨11, 1, false⟩, ⟨0, 1, true⟩] := by decide +kernel
/-- 06 R122, R127: the header at 0x400018 has one word, `exit`. -/
theorem test_blockFetch : (entOf ((ran (.blockFetchComplete 0 0) (code { base with ents := base.ents.map fun e => { e with hdr := 0x400018, st := .header } })).cohort 0) 0).blk.words =
    [0x009000000000000000000000] := by decide +kernel
/-- 08 R181: RATE 0x0080 adds half a unit each cycle. -/
theorem test_refill : ((ran (.matrixCreditRefill 0) { one base with cores := [(0, { CoreSt.reset with cred := 3 * 256, rate := 0x80 })], dies := [(0, { Die.reset with cyc := 7 })] }).core 0).cred = 13 * 128 := by decide +kernel
/-- 15 R303: FCUR stays within FMIN and FMAX. -/
theorem test_clock : ((ran (.clockChange 0 1900) State.reset).die 0).fcur = 1900 ∧ ((ran (.clockChange 0 1901) State.reset).die 0).fcur = 1750 := by decide +kernel
/-- 05 R118: an until granule at its deadline. -/
theorem test_untilLapse : ((ran (.untilLapse (2 ^ 28)) { State.reset with grans := [(2 ^ 28, ⟨2, 0, 5, false⟩)], dies := [(0, { Die.reset with time := 5 })] }).gran (2 ^ 40)).lapsed = true := by
  decide +kernel
/-- 16 R323: a write-back merges its bytes at the home and is acknowledged. -/
theorem test_wb : (let s := ran (.wb 0 7 1 0xAB false ⟨3, Carry.none⟩) State.reset
    (s.byte 896, s.net.length)) = (0xAB, 1) := by decide +kernel
/-- 18 R366: an atomic at its home answers with the old unit. -/
theorem test_atom : (ran (.atom ⟨0, 0, 0, 0, 9, 0, 0, 4, .int 0 false, 5, 0, 0, 0, true, false, Carry.none⟩) { State.reset with mem := [(0, 7)] }).byte 0 = 12 := by decide +kernel
/-- 04: a doorbell names its queue; 21 R431: no power, no step. -/
theorem test_power : (match step { ran .powerLoss State.reset with sched := [.core 0] } with | .fault f => decide (f = .noPower) | _ => false) = true := by decide +kernel
/-- 07 R149: a step runs the word a fragment stands at: `saddi.i64 s4, s0, 7`. -/
theorem test_step : (match step (State.reset.withFetchWord 96 (encode (.saddi ⟨g 0, 6, 4, 0, 7⟩)).toNat) with
    | .next t => srd (t.cohort 0) 4 | _ => 0) = 7 := by decide +kernel

end Sys2Proof.Tests
end

