-- ==== Sys2Proof/Tests/Witnesses.lean ====
section
/-! SUPPORT. For each statement with hypotheses a concrete state and operands that meet them, clause by clause; the theorems are named after
the statements. -/
namespace Sys2Proof.Tests
set_option Elab.async false
open Sys2Proof Sys2Proof.Machine Sys2Proof.Safety

/-- A check passes with a list of units and a state that meet a condition. -/
def okWith (k : Chk) (p : List (Acs × Nat × BitVec 2) → State → Bool) : Bool := match k with | .ok l s => p l s | .bad _ => false
/-- An answer is a next state. -/
def nexts (o : Host.Outcome State Fault Refusal) : Bool := match o with | .next _ => true | _ => false
/-- A fetch of a destination succeeds. -/
def goesTo (s : State) (h : DWord) : Bool := match destination s (joinHeader s.me s.frag) h with | .ok _ => true | .error _ => false

/-- In a state with no matrix op queued and no register word lost, every op is free: the condition `opFree` of the statements. -/
theorem opFree_of (i : Instr) (s : State) (h : (s.core (coreOf s.cur.cid)).matq = []) (hl : s.me.lost = []) : opFree i s = true := by
  simp [opFree, readsFree, accHeld, lostAt, h, hl]
/-- The states of these tests are of that kind. -/
theorem witness_opFree : (∀ i, opFree i (one base) = true) ∧ (∀ i, opFree i (scr base) = true) ∧ (∀ i, opFree i (code base) = true) ∧
    (∀ i, opFree i State.reset = true) :=
  ⟨fun _ => opFree_of _ _ rfl rfl, fun _ => opFree_of _ _ rfl rfl, fun _ => opFree_of _ _ rfl rfl, fun _ => opFree_of _ _ rfl rfl⟩
/-- Scratch, a writable page of HBM4E at 0x400000, a host page at 0x401000, and the carve region of die 0. -/
def glo (c : Cohort) : State :=
  let tlb (c : Nat) : List TlbEnt := [⟨c, 0, 0x400000, 4096, 0x2000000000000000⟩, ⟨c, 0, 0x401000, 4096, 0x2810000000000000⟩]
  { scr c with tlb := tlb 0 ++ tlb 0x10000, dies := [(0, { Die.reset with mcSize := 1 })], links := [(0, 1)] }
/-- A request of two units on scratch. -/
def twoUnits : CopyReq :=
  { id := 5, core := 0, cid := 0, blk := 0, ctx := 0, gid := 0, toNear := true, nearSp := 1, farSp := 1, near := 0x10000, far := 0x11000, frag := 0, rowb := 32,
    stride := 0, todo := [0, 1], bar := some 3, mark := none, scope := 0, ord := false, started := true, paused := none, claims := [], called := [], markDue := false, dead := false }
/-- Context 0 has an entry with a ring of 16 host records at address 0x1000. -/
def ringed (s : State) : State := { s with mem := [(hostKey 0, 1), (hostKey 32, 4), (hostKey 33, 0x10)] }
/-- The trap a cohort owes. -/
def missedTrap : TrapInfo := ⟨0, .xlate, 0x1234, false, false, none, none, false⟩
/-- A launch record of one cluster of one block: 16 threads, NREG 8 or the code given, PRIO, PLB, scratch bytes. -/
def recordOf (nreg prio plb scr : Nat) : List DWord :=
  [0, 0, 0, 0, 0x1000100000001, dw (16 + 2 ^ 13 + 2 ^ 26 + nreg * 2 ^ 53 + prio * 2 ^ 60), dw (scr + plb * 2 ^ 32)] ++ List.replicate 25 0
/-- Words laid out from a key. -/
def wordsAt (k : Nat) (l : List DWord) : List (Nat × Byte) := ((List.range (8 * l.length)).map fun i => (k + i, (l.getD (i / 8) 0).extractLsb' (8 * (i % 8)) 8)).filter (·.2 != 0)

/-! ### Decoding -/

theorem witness_DecodeOfEncode :
    (∀ i ∈ [Instr.sadd ⟨g 0, 6, 4, 63, 63, 63⟩, .vmad ⟨g 7, 3, 255, 255, 255, 255⟩ (some 1), .sli ⟨g 0, 7, 4, 0, 0x7FFF⟩ (some 0x3FFFFFFFFFFF)],
      isOp i = true ∧ wf i = true ∧ ((extOf i).isSome ∨ isClassE i = false) ∧ regOk freeEnv i = true) ∧
    (∀ i ∈ [Instr.vadd ⟨g 0, 0, 0, 1, 2, 3⟩, .sadd ⟨g 0, 0, 0, 1, 2, 3⟩], ∀ j ∈ [Instr.vfadd ⟨g 0, 0, 0, 4, 1, 1⟩, .br ⟨g 0, false, 0, 0, 0xFFFFFF⟩],
      isOp i = true ∧ isOp j = true ∧ opLegal i = true ∧ opLegal j = true ∧ extOf i = none ∧ extOf j = none ∧ isSolo i = false ∧ isSolo j = false ∧
      isControl i = false ∧ regOk freeEnv i = true ∧ regOk freeEnv j = true) := by decide +kernel
/-- A word of form 00, one of form 01, one of form 10. -/
theorem witness_DecodeDropsNoBit : (∃ d, decodeWord freeEnv 0x030000014181C00000000000 = .ok d ∧ d.b = none) ∧
    (∃ d j, decodeWord freeEnv 0x460000020242A80102061020 = .ok d ∧ d.b = some j ∧ d.ordered = false) ∧
    (∃ d j, decodeWord freeEnv (wordOf 2 true (encodeOp (.vadd ⟨g 0, 0, 0, 1, 2, 3⟩)) (encodeOp (.vfadd ⟨g 0, 0, 0, 4, 1, 1⟩))) = .ok d ∧ d.b = some j ∧
      d.ordered = true) := ⟨⟨_, rfl, rfl⟩, ⟨_, _, rfl, rfl, rfl⟩, ⟨_, _, rfl, rfl, rfl⟩⟩
/-- The ends of every range, in slot A of form 00 and in slot B of forms 01 and 10. -/
theorem witness_UnassignedOpcodes : (∀ n ∈ [0x00, 0x0C, 0x0F, 0x26, 0x2F, 0x58, 0x5F, 0x7C, 0x8F, 0x97, 0x9F, 0xB1, 0xBF, 0xCB, 0xCF, 0xDD, 0xDF, 0xE4, 0xE7, 0xEF,
      0xF0, 0xFF],
    let op : BitVec 46 := BitVec.ofNat 46 (n * 2 ^ 38)
    (opcOf (slotA (wordOf 0 false op 0))).toNat = n ∧ (opcOf (slotB (wordOf 1 false 0 op))).toNat = n ∧ formOf (wordOf 1 false 0 op) ≠ 0 ∧
    formOf (wordOf 2 false 0 op) ≠ 0) ∧
    (match decodeWord (wordEnv (one base).me (one base).frag) 0 with | .error c => decide (c = .illegal) | _ => false) = true := by decide +kernel
theorem witness_WordFormsAndJointIssue :
    formOf (BitVec.ofNat 96 (3 * 2 ^ 94)) = 3 ∧ (BitVec.ofNat 96 (2 ^ 92)).getLsbD 92 = true ∧
    (let w := wordOf 0 false (encodeOp (.vadd ⟨g 0, 0, 0, 1, 2, 3⟩)) 1
     formOf w = 0 ∧ opcTakesExt (opcOf (slotA w)) = false ∧ slotB w ≠ 0) ∧
    (∀ p ∈ [(Instr.halt ⟨g 0, 0, 0, 0, 5, 0⟩, Instr.vadd ⟨g 0, 0, 0, 1, 2, 3⟩), (.vadd ⟨g 0, 0, 0, 1, 2, 3⟩, .halt ⟨g 0, 0, 0, 0, 5, 0⟩),
        (.br ⟨g 0, false, 0, 0, 4⟩, .vadd ⟨g 0, 0, 0, 1, 2, 3⟩), (.vadd ⟨g 0, 0, 0, 1, 2, 3⟩, .vsub ⟨g 0, 0, 0, 4, 5, 6⟩)],
      let w := wordOf 1 false (encodeOp p.1) (encodeOp p.2)
      formOf w = 1 ∧ w.getLsbD 92 = false ∧ decodeOp (slotA w) none = some p.1 ∧ decodeOp (slotB w) none = some p.2 ∧ opLegal p.1 = true ∧ opLegal p.2 = true ∧
      headerLegal freeEnv.uni freeEnv.leaf p.1 = true ∧ headerLegal freeEnv.uni freeEnv.leaf p.2 = true ∧
      (isSolo p.1 = true ∨ isSolo p.2 = true ∨ isControl p.1 = true ∨ opClass (opcode p.1).toNat = opClass (opcode p.2).toNat)) ∧
    (match decodeWord freeEnv 0x460000020242A80102061020 with | .ok d => d.b.isSome | _ => false) = true ∧ formOf 0x460000020242A80102061020 = 1 := by
  decide +kernel
/-- A header that is valid, one that is not, and too few bytes for a word. -/
theorem witness_SpecWordsDecode : headerValid 0x400000 (decodeHeader 0xA5003080C00010B0) = true ∧ ([] : List Byte).length < 12 ∧ (List.replicate 11 (0 : Byte)).length < 12 := by
  decide +kernel

/-! ### Scalar ops and control -/

theorem witness_ScalarArithmetic : ∀ ty ∈ [(0 : BitVec 3), 1, 6, 7], ∀ f ∈ [Instr.sadd, .ssub, .smul, .smulh, .sdiv, .srem, .sand, .sor, .sxor, .sshl, .sshr, .smin, .smax],
    satOf (⟨g 0, ty, 0, 4, 5, 6⟩ : G3).mod = false ∧ satOf (⟨g 0, ty, 4, 4, 5, 6⟩ : G3).mod = true ∧ opFree (f ⟨g 0, ty, 0, 4, 5, 6⟩) (one base) = true ∧
    opFree (f ⟨g 0, ty, 4, 4, 5, 6⟩) (one base) = true :=
  fun ty _ _ _ => ⟨by show satOf 0 = false; decide, by show satOf 4 = true; decide, witness_opFree.1 _, witness_opFree.1 _⟩
theorem witness_ScalarTestsAndIdentifiers :
    (∀ n : Fin 6, fnOf (BitVec.ofNat 7 (8 * n.val)) = n.val ∧ ∀ f ∈ [Instr.scmp, .sbit, .ssel], ∀ ty, opFree (f ⟨g 0, ty, BitVec.ofNat 7 (8 * n.val), 4, 5, 6⟩) (one base) = true) ∧
    (∀ n : Fin 0x16, ((⟨g 0, 0, 4, 0, BitVec.ofNat 15 n.val⟩ : GI).imm.toNat = n.val) ∧ opFree (.sget ⟨g 0, 0, 4, 0, BitVec.ofNat 15 n.val⟩) (one base) = true) ∧
    (∀ ty, opFree (.saddi ⟨g 0, ty, 4, 5, 0x7FFF⟩) (one base) = true ∧ opFree (.slui ⟨g 0, ty, 4, 5, 0x7FFF⟩) (one base) = true ∧
      opFree (.sli ⟨g 0, ty, 4, 5, 0x7FFF⟩ (some 0)) (one base) = true) ∧
    (one base).me.kind = .grid ∧ (one { base with kind := .task }).me.kind ≠ .grid :=
  ⟨fun n => ⟨by revert n; decide, fun _ _ _ => witness_opFree.1 _⟩, fun n => ⟨by revert n; decide, witness_opFree.1 _⟩,
   fun _ => ⟨witness_opFree.1 _, witness_opFree.1 _, witness_opFree.1 _⟩, rfl, by decide⟩
/-- A unit of each op in scratch, a plain access and one that releases. -/
theorem witness_LoadsAndStoresComplete :
    let s := scr { base with sr := [(8, 0x10000)] }
    let may (us : List Acs) (rd : Bool) : Bool := okWith (checkMine s 1 (if rd then .read else .write) rd (!rd) us) fun l s' =>
      let u := s'.uncacheAll 0 l
      let ls := lcTargets u.2 0 l false
      !leaseHolds s' 0 0 l && !atomLate s' 0 (unitKeys l) && u.1 &&
      (if rd then (l.all fun u => !unitPoisoned s' u.2.1 u.1.size && !unitDown s' u.2.1) && !planeLate s' 0 (unitKeys l) &&
         decide (missUse u.2 0 + newMisses u.2 0 l ≤ 128)
       else !readLate s' 0 (unitKeys l) && (l.filter fun x => !isScratch x.2.1 && !ls.contains (lineOf x.2.1)).isEmpty && decide (missUse u.2 0 ≤ 128) &&
         decide (relScope s' false 1 = none) && decide (relScope s' true 1 = some 1) && (u.2.release 0 1 false).1 &&
         decide (otherRel (u.2.release 0 1 false).2 0 ls = none))
    (∀ us ∈ [[⟨0, memAddr s.me ⟨g 0, 2, 0, 0, false, 1, 4, 8, 0⟩ none 4, 4⟩], strideUnits s ⟨g 0, 2, 0, 0, false, 1, 4, 8, 0⟩ none 4,
        strideUnits s ⟨g 0, 2, 0, 0, false, 1, 4, 8, 0⟩ none 16, gatherUnits s ⟨g 0, 2, 0, 0, false, 1, 4, 12, 8⟩],
      may us true = true ∧ may us false = true) ∧
    isRel 0 = false ∧ isRel 2 = true ∧ (∀ i, opFree i s = true) := by
  refine ⟨by decide +kernel, rfl, rfl, fun _ => opFree_of _ _ rfl rfl⟩
/-- Every condition of `bc` with its boundary values, met and not met. -/
theorem witness_ControlOps_conditions :
    ([((0 : BitVec 3), (0 : DWord)), (1, 1), (2, 0xFFFFFFFFFFFFFFFF), (3, 0), (4, 1), (5, 0)].all fun p =>
      let x := (srd (code { base with sr := [(5, p.2)] }).me 5).toInt
      decide ((p.1 = 0 ∧ x = 0) ∨ (p.1 = 1 ∧ x ≠ 0) ∨ (p.1 = 2 ∧ x < 0) ∨ (p.1 = 3 ∧ 0 ≤ x) ∨ (p.1 = 4 ∧ 0 < x) ∨ (p.1 = 5 ∧ x ≤ 0))) = true ∧
    ([((0 : BitVec 3), (1 : DWord)), (1, 0), (2, 0), (3, 0xFFFFFFFFFFFFFFFF), (4, 0), (5, 1)].all fun p =>
      let x := (srd (code { base with sr := [(5, p.2)] }).me 5).toInt
      decide (¬ ((p.1 = 0 ∧ x = 0) ∨ (p.1 = 1 ∧ x ≠ 0) ∨ (p.1 = 2 ∧ x < 0) ∨ (p.1 = 3 ∧ 0 ≤ x) ∨ (p.1 = 4 ∧ 0 < x) ∨ (p.1 = 5 ∧ x ≤ 0)) ∧
        p.1.toNat ≤ 5)) = true := by decide +kernel
/-- `ret`, `jmpi`, `loop`, `exit`, `yield`, and a transfer that is taken. -/
theorem witness_ControlOps_transfers :
    goesTo (code base) 0x400018 = true ∧ (code base).frag.hdr + BitVec.ofInt 64 (8 * (3 : BitVec 24).toInt) = 0x400018 ∧
    (let s := code { base with sr := [(5, 0x400018)] }
     (srd s.me 5).toNat % 8 = 0 ∧ goesTo s (srd s.me 5) = true ∧ (srd s.me 5 + BitVec.ofInt 64 (8 * (0 : BitVec 24).toInt)).toNat % 8 = 0) ∧
    (srd (code base).me 5 - 1 ≠ 0 ∧ srd (code { base with sr := [(5, 1)] }).me 5 - 1 = 0) ∧
    lanesBusy (one base).me (one base).frag.mask = false ∧
    lanesBusy { base with pend := [⟨0, .known, [⟨.s 4, 7⟩], none, 0, 0xF, 0, none, []⟩] } 1 = true := by decide +kernel
/-- `bv` with no lane true, all, some with U = 1, in a handler, with a table of 64 entries, and splits that go on in the block and behind it. -/
theorem witness_ControlOps_bv :
    let yes (s : State) : List Nat := ((List.range s.me.w).filter fun l => s.frag.mask.getLsbD l).filter fun l => prd s.me 1 l
    let lanes (s : State) : List Nat := (List.range s.me.w).filter fun l => s.frag.mask.getLsbD l
    let some' : Cohort := { base with pr := [(1, 0xF0)] }
    yes (code base) = [] ∧ (yes (code { base with pr := [(1, 0xFFFF)] }) = lanes (code base) ∧ lanes (code base) ≠ []) ∧
    (yes (code some') ≠ [] ∧ yes (code some') ≠ lanes (code some')) ∧
    (reconOf (code some').frag.hdr (code some').frag.header).isSome = false ∧
    (64 < (code { some' with ents := (List.range 64).map fun i => { (entOf base 0) with id := i } }).me.ents.length + 1) ∧
    ({ some' with handler := some (0, 1) }).handler ≠ none ∧
    (afterWord (code { some' with ents := some'.ents.map fun e => { e with blk := ⟨0xA500200000000000, [0, 0]⟩ } }).frag).st = .run ∧
    (afterWord (code some').frag).st ≠ .run ∧ goesTo (code some') 0x400030 = true ∧ goesTo (code some') (afterWord (code some').frag).hdr = true ∧
    (match decodeWord { freeEnv with uni := true } (encode (.bv ⟨g 1, false, 0, 0, 4⟩)) with | .error c => decide (c = .illegal) | _ => false) = true := by
  decide +kernel
theorem witness_ControlOps_split : entOf base 0 ∈ ((one base).cohort 0).ents ∧ (∀ f ∈ ((one base).cohort 0).ents, f.id = (entOf base 0).id → f = entOf base 0) ∧
    ∀ f ∈ ((one base).cohort 0).ents, f.id < ((one base).cohort 0).nextEnt := by decide +kernel
/-- A word with slot A alone running, with and without a transfer. -/
theorem witness_CohortSteps_word : ∀ x ∈ [none, some (Xfer.go (atHeader 0x400018))],
    let s := one { base with ents := base.ents.map fun e => { e with inWord := true, runA := true, xfer := x } }
    s.cur.slotB = false ∧ s.frag ∈ s.me.ents ∧ s.frag.id = s.cur.frag ∧ s.frag.inWord = true ∧ s.frag.runB = false ∧ s.frag.xfer = x := by decide +kernel
theorem witness_CohortSteps_steps :
    (let c : Cohort := { base with ents := [{ (entOf base 0) with join := some 0x400018 }, { (entOf base 0) with id := 1, parent := some 0, hdr := 0x400018, st := .header }] }
     atEase c 1 = true ∧ mayGo c (entOf c 1) = true ∧ atJoin c (entOf c 1) = true) ∧
    (let s := code { base with ents := base.ents.map fun e => { e with hdr := 0x400018, st := .header } }
     let c := s.cohort 0
     atEase c 0 = true ∧ (entOf c 0).st = .header ∧ mayGo c (entOf c 0) = true ∧ atJoin c (entOf c 0) = false ∧
     (match fetch s 0 0 0x400018 with | .ok _ _ => true | _ => false) = true) ∧
    (let c : Cohort := { base with waits := [.switch [3]] }
     c.waits = [.switch [3]] ∧ (∀ p ∈ c.pend, p.vid ∉ [3]) ∧ ∀ p ∈ c.reds, p.vid ∉ [3]) ∧
    (let s := one { base with waits := [.yield 0] }
     (s.cohort 0).waits = [.yield 0] ∧ 0 ≤ s.cycOf (dieOf 0)) ∧
    (let c : Cohort := { base with pend := [⟨0, .known, [⟨.s 4, 7⟩, ⟨.s 5, 8⟩], none, 0, 0xF, 0, none, []⟩] }
     (c.pend.find? (·.vid == 0)).isSome ∧ ((c.pend.find? (·.vid == 0)).bind (pendReady c)) = some [⟨.s 4, 7⟩, ⟨.s 5, 8⟩] ∧
     ([⟨.s 4, 7⟩, ⟨.s 5, 8⟩] : List Wr)[1]? = some ⟨.s 5, 8⟩) ∧
    (let c : Cohort := { base with pend := [⟨0, .known, [], none, 0, 0xF, 0, none, []⟩] }
     ((c.pend.find? (·.vid == 0)).bind (pendReady c)) = some [] ∧ (c.pend.find? (·.vid == 0)).map (·.flags) = some 0) ∧
    (match decodeWord (wordEnv (one base).me (one base).frag) 0 with | .error _ => true | _ => false) = true := by decide +kernel
/-- A header at 0x400018 that is valid and lies in its page with its word, and one at 0x400020 that is not. -/
theorem witness_CohortSteps_fetch : ∀ p ∈ [((0x400018 : DWord), 0x18, true), (0x400020, 0x20, false)],
    let s := code base
    let h := decodeHeader (dw (leNat (s.bytes p.2.1 8)))
    translateG s 0 0 p.1 .exec = .ok p.2.1 0 ∧ p.1.toNat % 4096 + 8 ≤ 4096 ∧
    (∀ i, i < blockBytes h → unitPoisoned s (p.2.1 + i) 1 = false ∧ unitDown s (p.2.1 + i) = false ∧ ownByte s 0 (p.2.1 + i) = none) ∧ s.code = [] ∧
    headerValid p.1 h = p.2.2 ∧ p.1.toNat % 4096 + blockBytes h ≤ 4096 := by decide +kernel
/-- The placed word of the host's interface, at its first slot and at slot B. -/
theorem witness_StepRunsDecoded :
    (let s := State.reset.withFetchWord 96 (encode (.saddi ⟨g 0, 6, 4, 0, 7⟩)).toNat
     let c := s.cohort 0
     s.powered = true ∧ s.fatal = false ∧ s.sched = [.core 0] ∧ pick { s with sched := [] } 0 = some 0 ∧ c.ents.length = 1 ∧
     (wordFrag c).map (·.inWord) = some false ∧ ((wordFrag c).map fun e => (decodeWord (wordEnv c e) e.word).toBool) = some true) ∧
    (let s := State.reset.withFetchWord 96 0x460000020242A80102061020
     let c : Cohort := { s.cohort 0 with ents := (s.cohort 0).ents.map fun (e : Ent) => { e with inWord := true, runB := true } }
     let s := s.setCohort 0 c
     pick { s with sched := [] } 0 = some 0 ∧ c.ents.length = 1 ∧ (wordFrag c).map (fun e => (e.inWord, e.runA, e.runB, e.triedB)) = some (true, false, true, false) ∧
     ((wordFrag c).map fun e => match decodeWord (wordEnv c e) e.word with | .ok d => d.b.isSome | _ => false) = some true) := by decide +kernel
theorem witness_EveryStepAnswers : State.reset.powered = true ∧ (ran .powerLoss State.reset).powered = false := by decide +kernel

/-! ### Traps and system registers -/

theorem witness_TrapDelivery :
    (let s := missed
     let c := s.cohort 0
     let k := missedTrap
     dueTrap c = some k ∧ c.kind ≠ .vacant ∧ c.waits = [] ∧ betweenWords c = true ∧ c.pend = [] ∧ c.reds = [] ∧ k.redo = none ∧
      entOf c k.frag ∈ c.ents ∧ (entOf c k.frag).id = k.frag ∧ (entOf c k.frag).join = none ∧ (∀ f ∈ c.ents, f.id < c.nextEnt) ∧ (entOf c k.frag).widx < 4096 ∧
      c.tcause.getLsbD 63 = false ∧ (s.ctx c.ctx).traphdr.getLsbD 0 = true) ∧
    (∀ p ∈ [(0x8000000000000000, 1), (0x8000000000000000, 0), (0, 0)],
      let s := { one { missed.cohort 0 with tcause := dw p.1 } with ctxs := [(0, { Ctx.reset with traphdr := dw p.2 })] }
      let c := s.cohort 0
      dueTrap c = some missedTrap ∧ c.waits = [] ∧ betweenWords c = true ∧ c.pend = [] ∧ c.reds = [] ∧
      (c.tcause.getLsbD 63 = true ∨ (s.ctx c.ctx).traphdr.getLsbD 0 = false)) := by decide +kernel
/-- The handler of that trap, and a cohort that is in none. -/
theorem witness_ReturnFromTrap :
    (one base).me.tcause.getLsbD 63 = false ∧
    (let s : State := { ran (.trapDelivery 0) missed with cur := ⟨0, 1, false⟩ }
     let c := s.me
     c.handler = some (1, 0) ∧ c.tcause.getLsbD 63 = true ∧ c.tcause.getLsbD 62 = false ∧ c.doomed = false ∧ c.again = none ∧ (1 : Nat) ≠ 0 ∧
     entOf c 0 ∈ c.ents ∧ (entOf c 0).id = 0 ∧ (entOf c 0).st ≠ .header ∧ (entOf c 0).st ≠ .fetch ∧ (entOf c 0).st ≠ .joined ∧ (entOf c 0).blk.words ≠ [] ∧ (entOf c 0).xfer = none ∧
     (s.core 0).matq = [] ∧ c.lost = [] ∧ (0x400018 : DWord).toNat % 8 = 0 ∧ (0x400004 : DWord).toNat % 8 ≠ 0) := by decide +kernel
/-- Every register number with its ends of the unassigned ranges, in a context with PRIV and in one without. -/
theorem witness_SystemRegisters : (∀ n ∈ [0, 1, 2, 3, 4, 5, 6, 7, 8, 0xF, 0x10, 0x11, 0x12, 0x13, 0x14, 0x15, 0x16, 0x17, 0x1F, 0x20, 0x21, 0x22, 0x2F, 0x30, 0x31, 0x7FFF],
      (BitVec.ofNat 15 n).toNat = n) ∧ (one base).me.pend = [] ∧ (one base).me.priv = false ∧ (one { base with priv := true }).me.priv = true ∧
    (∀ i, opFree i (one { base with priv := true }) = true) := by
  refine ⟨by decide, rfl, rfl, rfl, fun _ => opFree_of _ _ rfl rfl⟩
theorem witness_TrapsRaisedAndRecorded :
    (∀ p ∈ [(Cause.illegal, 1), (.pair, 0x16)], causeCode p.1 = (BitVec.ofNat 15 p.2).toNat ∧ 1 ≤ p.2 ∧ p.2 ≤ 0x16) ∧
    ((0 : BitVec 15).toNat = 0 ∧ 0x16 < (0x17 : BitVec 15).toNat) ∧ (one base).me.pend = [] ∧ (one base).me.reds = [] ∧
    (let s := ringed { State.reset with ctxs := [(0, { Ctx.reset with records := [[1]] })] }
     (s.ctx 0).records = [[1]] ∧ trapRing s 0 = some (0x1000, 4, 0, 0) ∧ ((0 : DWord) - 0).toNat < 2 ^ 4 ∧ (isHost (sysKey s 0x1000) = false ∨ hostUp s = true)) ∧
    (State.reset.ctx 0).traphdr.getLsbD 0 = false ∧ (missed.ctx 0).traphdr.getLsbD 0 = true := by decide +kernel

/-! ### Lane ops -/

theorem witness_RegisterWritesLand : (∀ m ∈ [0, 63], m < 64) ∧ 63 ∈ [0, 63] ∧ 1 ∉ [0, 63] := by decide
/-- SAT on and off, and a `vcvti` of each relation of widths. -/
theorem witness_VectorInteger : satOf 0 = false ∧ satOf 4 = true ∧
    (∀ ty : BitVec 3, (intTy ty).signed = true ∨ (intTy ty).signed = false) ∧ (intTy 0).signed = true ∧ (intTy 1).signed = false ∧
    (∀ p ∈ [(0, 8, 0), (6, 0, 0), (2, 0, 6), (4, 16, 6), (0, 16, 0), (0, 80, 0), (2, 32, 0)],
      legalVcvti ⟨g 0, BitVec.ofNat 3 p.1, BitVec.ofNat 7 p.2.1, 8, 10, BitVec.ofNat 8 p.2.2⟩ = true) ∧ (∀ n : Fin 5, fnOf (BitVec.ofNat 7 (8 * n.val)) = n.val) := by decide
theorem witness_PredicateOps : (∀ l ∈ (one base).active (g 0), l < 64) ∧ (∀ n : Fin 6, fnOf (BitVec.ofNat 7 (8 * n.val)) = n.val) ∧
    ((one base).active (g 0)).filter (fun l => prd (one base).me 1 l) = [] ∧
    ((one lanes4).active (g 0)).filter (fun l => prd (one lanes4).me 1 l) = 0 :: [1, 2, 3] := by decide +kernel
theorem readsFree_of (i : Instr) (r : List (Nat × Nat)) (s : State) (h : (s.core (coreOf s.cur.cid)).matq = []) (hl : s.me.lost = []) :
    readsFree i r s = true := by
  simp [readsFree, accHeld, lostAt, h, hl]
/-- Indices within the bound and at it; J registers reached, to be waited for, poisoned and out of reach. -/
theorem witness_OtherLanesAndJRegisters :
    (∀ i r, readsFree i r (one base) = true) ∧ ((one base).active (g 0)).Nodup ∧
    (let bad (s : State) : List Nat := (s.active (g 0)).filter fun l => decide ((xrd s.me 2).bound < (vrd s.me 11 l).toNat + 1)
     bad (one { base with xr := [(2, ⟨16, 32⟩)], vr := fill 11 31 }) = [] ∧ bad (one { base with xr := [(2, ⟨16, 32⟩)], vr := [(706, 32)] }) = [2]) ∧
    accHeld (.vred ⟨g 0, 0, 0, 1, 2, 0⟩) (one base) = false ∧ (one base).me.lost = [] ∧
    (let k : Cohort := { base with reds := [⟨0, 1, 11, false, 0xF⟩, ⟨1, 1, 12, true, 0xF⟩] }
     k.reds = ⟨0, 1, 11, false, 0xF⟩ :: [⟨1, 1, 12, true, 0xF⟩] ∧ (∀ q ∈ [(⟨1, 1, 12, true, 0xF⟩ : RedPend)], q.vid ≠ 0) ∧ k.pend = []) ∧
    (let near (q want : Word) : Bool := decide ((q - want).toNat < 2 ^ 31)
     near 0 0 = true ∧ near 0x7FFFFFFF 0 = true ∧ near 0x80000000 0 = false ∧ near 0 1 = false ∧ near (0 + BitVec.ofNat 32 1) 1 = true) := by
  refine ⟨fun _ _ => readsFree_of _ _ _ rfl rfl, by decide +kernel, by decide +kernel, by decide +kernel, rfl, by decide, by decide⟩

/-! ### Floating point, quantisers -/

theorem witness_FloatArithmetic : fltFmt 0 ≠ .f64 ∧ fltFmt 2 ≠ .f64 ∧ ¬ (fltElems (fltFmt (vfcvtSt 0x20)) = 2 ∧ fltElems (fltFmt 2) = 1) ∧
    (BitVec.ofNat 7 0x40).getLsbD 6 = true ∧ (∀ i, opFree i (one base) = true) := by
  refine ⟨by decide, by decide, by decide, by decide, witness_opFree.1⟩
theorem witness_FloatFlagsAndNans : (∃ i, i < 5 ∧ (0x10 : BitVec 6).getLsbD i = true ∧ (0x3F : DWord).getLsbD i = true) ∧
    ¬ (∃ i, i < 5 ∧ (0x20 : BitVec 6).getLsbD i = true ∧ (0x3F : DWord).getLsbD i = true) ∧ isNan (.fin false 1 1) = false ∧ (1 : Nat) ≠ 0 := by
  refine ⟨⟨4, by decide⟩, ?_, by decide, by decide⟩
  rintro ⟨i, h, h1, -⟩
  have : ∀ i < 5, (0x20 : BitVec 6).getLsbD i = false := by decide
  rw [this i h] at h1; exact absurd h1 (by decide)
/-- The largest code, the smallest subnormal and zero of a format. -/
theorem witness_ExactValuesRoundToThemselves : decodeFloat .f32 0x7F7FFFFF = .fin false ((2 ^ 24 - 1) * 2 ^ 104) 1 ∧ decodeFloat .f32 1 = .fin false 1 (2 ^ 149) ∧
    decodeFloat .e4m3 0x7E = .fin false 448 1 ∧ (∃ d, decodeFloat .e2m1 8 = .fin true 0 d) ∧ 0x7F7FFFFF < 2 ^ fmtBits .f32 := by
  refine ⟨by decide +kernel, by decide +kernel, by decide +kernel, ⟨_, rfl⟩, by decide +kernel⟩
theorem witness_SpecialFunctions : fltFmt 0 ≠ .f64 ∧ (∀ i, opFree i (one base) = true) ∧ 128 * 1 ≤ 128 ∧ 9 * 1 ≤ 9 ∧ (1 : Nat) ≠ 0 := by
  refine ⟨by decide, witness_opFree.1, by decide, by decide, by decide⟩
/-- A slot that fails R37; unscaled, scaled and wide slots; runs that end at the register count. -/
theorem witness_QuantisersComplete :
    slotOf { base with fslots := [0x01F] } 0 = none ∧
    ([0x004, 0x8C4, 0x001].all fun w => (slotOf { base with fslots := [w] } 0).isSome) = true ∧
    ((slotOf { base with fslots := [0x004] } 0).map fun p => p.1.sf) = some 0 ∧ ((slotOf { base with fslots := [0x8C4] } 0).map fun p => (p.1.sf, p.1.elem)) = some (1, .e4m3) ∧
    ((slotOf { base with fslots := [0x001] } 0).map fun p => p.1.elem) = some .f32 ∧
    base.nreg ≤ (BitVec.ofNat 8 225).toNat + 31 ∧ (BitVec.ofNat 8 224).toNat + 31 < base.nreg ∧ base.lost = [] ∧
    accHeld (.vqsc ⟨g 0, 0, 0, 7, 32, 0⟩) (one base) = false ∧ accHeld (.vqnt ⟨g 0, 0, 0, 8, 32, 7⟩) (one base) = false ∧ accHeld (.vdqnt ⟨g 0, 0, 0, 40, 8, 7⟩) (one base) = false := by
  decide +kernel

/-! ### Matrix -/

/-- Slots E2M1, doublets with scales and E4M3 with scales, a base address in scratch. -/
def mat : Cohort := { base with fslots := [0x006, 0x0C9, 0x8C4, 0x003], sr := [(10, 0x10000), (11, 0x10004)] }
theorem witness_MatrixPlanes :
    slotOf { mat with fslots := [0x01F] } 0 = none ∧ ((slotOf mat 2).map fun p => (groupOf p.1.elem, p.1.sf)) = some (some .b, 1) ∧
    ((slotOf mat 0).map fun p => p.1.sf) = some 0 ∧ (srd mat 11).toNat % 8 ≠ 0 ∧ (srd mat 11).toNat % 32 ≠ 0 ∧
    (let s := scr mat
     okWith (checkPlane s 1 8 0x10000 ((List.range 64).flatMap fun k => (List.range 2).map fun j => 0x10000 + dw (k * 16) + dw (8 * j)))
      fun _ s' => matRoom s' 0) = true ∧
    (let s := scr { mat with shd := ⟨.valid, 2, [], [], .none0, 0⟩ }
     okWith (checkPlane s 1 32 0x10000 ((List.range 2).flatMap fun k => (List.range 2).map fun j => 0x10000 + dw (k * 16) + dw (8 * j)))
      (fun _ s' => matRoom s' 0) = true ∧ s.me.shd.st ≠ .empty ∧ s.me.shd.slot = 2) ∧
    (mat.shd.st = .empty ∧ mat.shd.st ≠ .failed ∧ ({ mat with shd := ⟨.failed, 2, [], [], .poison, 8⟩ }).shd.st = .failed) := by decide +kernel
/-- A load of either kind with one unit left, of poison and not. -/
theorem witness_MatrixPlanes_load :
    (∀ i ∈ [Instr.mld ⟨g 0, 2, 0, 0, true, 1, 0, 10, 0⟩ none, .mldsc ⟨g 0, 2, 0, 0, true, 1, 0, 10, 0⟩],
      let e : MatEnt := { MatEnt.empty i with units := [(scrKey 0, 0x10000)], todo := [0], sp := 1 }
      ∀ b ∈ [false, true], let s := { scr mat with cores := [(0, { CoreSt.reset with matq := [e] })], pois := if b then [(2 ^ 70 + scrKey 3, true)] else [] }
      (s.core 0).matq = e :: [] ∧ isLoad e.op = true ∧ e.done = false ∧ e.todo = [0] ∧ e.units[0]? = some (scrKey 0, 0x10000) ∧
      unitCan s 0 e (scrKey 0, 0x10000) = true ∧ (slotOf (s.cohort 0) 2).isSome = true ∧ (e.readUnit s 0 0).bad.isEmpty = !b) := by decide +kernel
/-- `mswp` with a plane that holds, one that failed, and a load that has yet to read. -/
theorem witness_MatrixPlanes_swap :
    (∀ st ∈ [PlaneSt.valid, .failed],
      let s := one { base with shd := ⟨st, 2, [], [], .poison, 8⟩ }
      matRoom s 0 = true ∧ ∀ e ∈ (s.core 0).matq, e.cid = 0 → isLoad e.op = true → e.done = true) ∧
    (let e : MatEnt := { MatEnt.empty (.mld ⟨g 0, 2, 0, 0, true, 1, 0, 10, 0⟩ none) with todo := [0], units := [(scrKey 0, 0x10000)] }
     let s := { one base with cores := [(0, { CoreSt.reset with matq := [e] })] }
     matRoom s 0 = true ∧ e ∈ (s.core 0).matq ∧ e.cid = 0 ∧ isLoad e.op = true ∧ e.done = false) := by decide +kernel
/-- The example's plane and slots; a slot of another group; registers that end at the count; a full queue and a free one. -/
theorem witness_MatrixUnit_ops :
    let c : Cohort := { mat with nreg := 48, act := ⟨.valid, 1, [], [], .none0, 0⟩ }
    slotOf { mat with fslots := [0x01F] } 0 = none ∧ mat.act.st = .empty ∧ c.lost = [] ∧ c.act.st ≠ .empty ∧
    ((slotOf c 0).bind fun p => groupOf p.1.elem) = some .q ∧ ((slotOf c 1).bind fun p => groupOf p.1.elem) = some .q ∧
    ((slotOf c 3).bind fun p => groupOf p.1.elem) = some .h ∧
    (groupK .q < 255 ∧ 128 ≤ groupK .q) ∧ ((8 : BitVec 8).toNat % 2 = 0) ∧ max (32 + 16 - 1) (16 + 15) < c.nreg ∧ c.nreg ≤ max (33 + 16 - 1) (16 + 15) ∧
    matRoom (one c) 0 = true ∧ (one c).me.dtraps = [] ∧ (matLeft (one c) 0).length ≤ 0 ∧
    0 < (matLeft { one c with cores := [(0, { CoreSt.reset with matq := [MatEnt.empty (.mmac ⟨g 0, 0, 0, 16, 32, 0⟩ none)] })] } 0).length := by decide +kernel
/-- Two entries of different charge, with RATE 0 and without, the credit enough, too little, and CAP below the charge; a run that has ended. -/
theorem witness_MatrixUnit_unit :
    let e (cid seq u : Nat) : MatEnt := { MatEnt.empty (.mmac ⟨g 0, 0, 0, 16, 32, 0⟩ none) with cid := cid, seq := seq, u := u, c := 8, lanes := [0, 1] }
    (∀ p ∈ [((0x80 : BitVec 16), (64 : BitVec 16), (5 : Int)), (0, 64, 5), (0x80, 64, 1), (0x80, 1, 1)],
      let s := { one base with cores := [(0, { CoreSt.reset with rate := p.1, cap := p.2.1, cred := p.2.2 * 256, matq := [e 3 0 8, e 9 1 2] })] }
      let k := s.core 0
      k.matRun = none ∧ e 9 1 2 ∈ matCandidates (matPrune s k.matq) ∧
      (k.matPick = none ∧ ∀ x ∈ matCandidates (matPrune s k.matq), x.seq < 2 ^ 64 ∧ x.since = none ∧ (x ≠ e 9 1 2 → (2 : Nat) < x.u ∨ ((2 : Nat) = x.u ∧ 1 < x.seq))) ∧
      (let cap : Int := k.cap.toNat * 256
       let cred : Int := min cap (k.cred + k.rate.toNat * (((s.cycOf 0 : Nat) : Int) - k.credAt))
       k.rate = 0 ∨ (2 * 256 ≤ cred ∨ (cap < 2 * 256 ∧ cred = cap)) ∨ (k.rate ≠ 0 ∧ cred < 2 * 256 ∧ ¬ (cap < 2 * 256 ∧ cred = cap)))) ∧
    (let s := { one base with cores := [(0, { CoreSt.reset with matPick := some 1, matq := [e 3 0 8, e 9 1 2] })] }
     (s.core 0).matPick = some (e 9 1 2).seq ∧ e 9 1 2 ∈ matCandidates (matPrune s (s.core 0).matq) ∧
      ∀ x ∈ matCandidates (matPrune s (s.core 0).matq), x.seq = 1 → x = e 9 1 2) ∧
    (let r : MatRun := ⟨{ e 0 0 2 with vid := some 0 }, 0, [⟨.v 16 0, 7⟩, ⟨.v 16 1, 8⟩], 0⟩
     let s := { one { base with pend := [⟨0, .matrix, [], none, 0, 3, 0, none, []⟩] } with cores := [(0, { CoreSt.reset with matRun := some r })] }
     (s.core 0).matRun = some r ∧ r.endAt ≤ s.cycOf 0 ∧ maskOf r.ent.lanes &&& 2 ≠ 0 ∧ maskOf r.ent.lanes &&& 4 = 0) := by decide +kernel
theorem witness_MatrixSums : (∀ x ∈ [(1 : Int), -2 ^ 63, 2 ^ 64 - 1], x ≠ 0 ∧ x.natAbs < 2 ^ 64) ∧
    (∀ v ∈ [FV.inf false, .fin false 1 1] ++ [.fin false 1 1, .fin true 2 1], isNan v = false) ∧
    FV.inf false ∈ ([FV.inf false, .fin false 1 1].zip [.fin false 1 1, .fin true 2 1]).filterMap (fun p => mulV p.1 p.2) := by decide +kernel

/-! ### Memory -/

/-- Whether a check refuses. -/
def refuses (k : Chk) : Bool := match k with | .ok _ _ => false | .bad _ => true
/-- One misaligned unit of two, one outside, one with no translation, one without W, one to ask the host for; each the lowest of its kind. -/
theorem witness_AccessChecksInOrder :
    (let us : List Acs := [⟨0, 0x10003, 4⟩, ⟨1, 0x10001, 4⟩]
     let u : Acs := ⟨1, 0x10001, 4⟩
     u ∈ us ∧ u.addr.toNat % u.size ≠ 0 ∧ ∀ v ∈ us, v.addr.toNat % v.size ≠ 0 → u.addr.toNat ≤ v.addr.toNat) ∧
    (let us : List Acs := [⟨0, 0x15000, 4⟩, ⟨1, 0x10000, 4⟩]
     let tr (u : Acs) := translate (scr base) 0 0 ((scr base).blk 0) 1 .write u.addr
     (∀ v ∈ us, v.addr.toNat % v.size = 0) ∧ tr ⟨0, 0x15000, 4⟩ = .outside ∧ tr ⟨1, 0x10000, 4⟩ ≠ .outside) ∧
    (∀ p ∈ [(0, (0x500000 : DWord), Tr.xlate), (0x4000000000000000, 0x400000, .protect), (4, 0x400004, .park)],
      let s := { one base with tlb := [⟨0, 0, 0x400000, 4096, p.1⟩] }
      let us : List Acs := [⟨0, p.2.1, 4⟩]
      translate s 0 0 (s.blk 0) 0 .write p.2.1 = p.2.2 ∧ (∀ v ∈ us, v.addr.toNat % v.size = 0) ∧ refuses (checkMine s 0 .write false true us) = true) ∧
    (let s := scr { base with sr := [(8, 0x10001)] }
     let o : M := ⟨g 0, 2, 0, 0, false, 1, 4, 8, 0⟩
     let og : MG := ⟨g 0, 2, 0, 0, false, 1, 4, 12, 8⟩
     refuses (checkMine s 1 .read true false (strideUnits s o none (szBytes o.sz))) = true ∧ refuses (checkMine s 1 .write false true (strideUnits s o none (szBytes o.sz))) = true ∧
     refuses (checkMine s 1 .read true false (gatherUnits s og)) = true ∧ refuses (checkMine s 1 .write false true (gatherUnits s og)) = true ∧
     opFree (.ld o none) s = true ∧ opFree (.st o none) s = true ∧ opFree (.ldg og) s = true ∧ opFree (.stg og) s = true) := by decide +kernel
/-- Every form and size on scratch. -/
theorem witness_ScratchAccesses :
    let s := scr { base with sr := [(8, 0x10000)], vr := (List.range 16).map fun l => (64 * 12 + l, BitVec.ofNat 32 (16 * l)) }
    (∀ z : Fin 6,
      let o : M := ⟨g 0, BitVec.ofNat 3 z.val, 0, 0, false, 1, 4, 8, 1⟩
      let og : MG := ⟨g 0, BitVec.ofNat 3 z.val, 0, 0, false, 1, 4, 12, 8⟩
      (∀ us ∈ [[⟨0, memAddr s.me o none (szBytes o.sz), szBytes o.sz⟩], strideUnits s o none (szBytes o.sz), strideUnits s o none 16, gatherUnits s og],
        ∀ k ∈ [checkMine s 1 .write false true us, checkMine s 1 .read true false us],
          okWith k (fun l s' => !leaseHolds s' 0 0 l && !atomLate s' 0 (unitKeys l) && !readLate s' 0 (unitKeys l) &&
            l.all fun a => isScratch a.2.1 && (s.gran a.2.1).cls != 1 && (List.range a.1.size).all fun i => !s.scratchPois (a.2.1 + i)) = true) ∧
      opFree (.sst o none) s = true ∧ opFree (.st o none) s = true ∧ opFree (.stq o none) s = true ∧ opFree (.stg og) s = true ∧
      opFree (.sld o none) s = true ∧ opFree (.ld o none) s = true ∧ opFree (.ldq o none) s = true) ∧ isRel 0 = false ∧ isAcq 0 = false := by decide +kernel
/-- Each operand misaligned; two units that fit, with a barrier and a mark and without; a scope that releases. -/
theorem witness_CopyUnit_ops :
    (∀ p ∈ [((0x10008 : DWord), (0x11000 : DWord), 32, (0 : DWord)), (0x10000, 0x11004, 32, 0), (0x10000, 0x11000, 32, 8)],
      ∃ v, [p.1, p.2.1, dw p.2.2.1, p.2.2.2].find? (fun v => v.toNat % 16 != 0) = some v) ∧
    (let b := { (scr base).blk 0 with bars := [(3, some ⟨0, true, false, 32, 0, [], 0, false, 0⟩)] }
     let s := { scr { base with sr := [(20, 0x10000), (8, 0x11000), (22, 0x12000), (23, 7)] } with blks := [(0, b)] }
     let w : BitVec 46 := 0x1F + (3 <<< 12) + (1 <<< 20) + (1 <<< 21) + (22 <<< 22) + (23 <<< 28)
     bits (w.zeroExtend 64) 0 12 + 1 = 32 ∧ bits (w.zeroExtend 64) 12 8 = 3 ∧ w.getLsbD 20 = true ∧ w.getLsbD 21 = true ∧
     srd s.me (bits (w.zeroExtend 64) 22 6) = 0x12000 ∧ (32 : Nat) % 16 = 0 ∧ 32 < 2 ^ 13 ∧
     translate s 0 0 b 1 .read 0x12000 ≠ .outside ∧
     (∀ u, u < 32 * 1 / 16 → translate s 0 0 b 1 .read (0x10000 + dw (16 * u)) ≠ .outside ∧ translate s 0 0 b 1 .read (0x11000 + dw (16 * u / 32) * 0 + dw (16 * u % 32)) ≠ .outside) ∧
     (barOf b 3).map (·.byteMode) = some true ∧ (s.copies.filter (·.core == 0)).length < 48 ∧ atomsOut s 0 = false ∧
     dstLate s (copyReq s ⟨g 0, 0, 0, 0, false, 1, 20, 8, 0⟩ ⟨true, 32, 1, 0, some 3, none⟩) = false ∧ (s.release 0 1).1 = true ∧ (s.release 0 0).1 = true ∧
     opFree (.cpIn ⟨g 0, 0, 0, 0, false, 1, 20, 8, 0⟩ (some w)) s = true ∧ opFree (.cpOut ⟨g 0, 0, 2, 0, false, 1, 20, 8, 0⟩ none) s = true ∧
     opFree (.cpTile ⟨g 0, 1, 0, 0, false, 1, 20, 8, 0⟩ none) s = true) := by
  refine ⟨?_, by decide +kernel⟩
  intro p h
  simp only [List.mem_cons, List.not_mem_nil, or_false] at h
  rcases h with rfl | rfl | rfl
  · exact ⟨0x10008, by decide⟩
  · exact ⟨0x11004, by decide⟩
  · exact ⟨8, by decide⟩
theorem witness_CopyUnit_unit :
    (let b := { (scr base).blk 0 with bars := [(3, some ⟨0, true, false, 32, 0, [], 0, false, 0⟩)] }
     let st (r : CopyReq) : State := { scr base with blks := [(0, b)], copies := [r] }
     let r := twoUnits
     ((st { r with started := false }).copies.find? fun q => q.core == 0 && !q.started) = some { r with started := false } ∧
     (st r).copies.head? = some r ∧ r.started = true ∧ r.paused = none ∧ r.called = [] ∧ r.markDue = false ∧ 1 ∈ r.todo ∧ copyLowest (st r) r true = none ∧ copyLowest (st r) r false = none ∧
     r.trans (st r) (!r.toNear) .read (r.srcAddr 1) = .ok (scrKey 0x1010) 2 ∧ r.trans (st r) r.toNear .write (r.dstAddr 1) = .ok (scrKey 0x10) 2 ∧ isScratch (scrKey 0x10) = true ∧
     ((st r).gran (scrKey 0x10)).cls ≠ 1 ∧ claimedBy (st r) (scrKey 0x1010) (some r.id) = false ∧ atomLate (st r) r.cid [(scrKey 0x1010, 16)] = false ∧
     (barOf ((st r).blk 0) 3).map (·.byteMode) = some true ∧ ([1].filter (· != 1)) = [] ∧
     (∀ n ∈ [some 3, none], copyLowest (st { r with far := 0x14FF0, bar := n }) { r with far := 0x14FF0, bar := n } true = some 0x15000) ∧
     (let m := { r with todo := [], markDue := true, mark := some (0x12008, 7) }
      m.markDue = true ∧ m.trans (st m) true .write 0x12008 = .ok (scrKey 0x2008) 2 ∧ (st m).lapsed (scrKey 0x2008) m.nearSp b 0x12008 = false)) := by decide +kernel
/-- Barriers of both modes and an aborted one; sums that fit and do not; phases reached and not; words that differ and do not. -/
theorem witness_ByteBarriersAndWaits :
    (let s := { scr { base with sr := [(6, 4096), (7, 0xFFFFFFFF)] } with
        blks := [(0, { (scr base).blk 0 with bars := [(0, some ⟨0, false, true, 0, 0, [], 0, false, 0⟩), (3, some ⟨0, true, false, 1, 5000, [], 0, false, 0⟩), (4, some ⟨0, true, false, 0, 0, [], 0, true, 0x77⟩)] })] }
     let b := s.blk 0
     barOf b 9 = none ∧ (barOf b 0).map (·.byteMode) = some false ∧ (barOf b 3).map (fun y => (y.byteMode, y.exp, y.abt)) = some (true, 1, false) ∧ (barOf b 4).map (·.abt) = some true ∧
     2 ^ 32 ≤ 1 + (sreg s.me 7).toNat % 2 ^ 32 ∧ 1 + (sreg s.me 6).toNat % 2 ^ 32 < 2 ^ 32 ∧ reached (BitVec.ofNat 32 0) 0 = true ∧ reached (BitVec.ofNat 32 0) 1 = false ∧
     opFree (.bcbExp ⟨g 0, 0, 0, 0, 3, 6⟩) s = true ∧ opFree (.bcbWt ⟨g 0, 0, 0, 5, 3, 6⟩) s = true) ∧
    (∀ p ∈ [(0x10000, 1), (0x400000, 0)],
      let s := glo { base with sr := [(8, dw p.1), (5, 1)] }
      okWith (checkMine s (BitVec.ofNat 2 p.2) .read true false [⟨0, dw p.1, 4⟩]) (fun l s' => decide (l.length = 1) && l.all fun a =>
        (!isScratch a.2.1 || (List.range 4).all fun i => !s'.scratchPois (a.2.1 + i)) &&
        (isScratch a.2.1 || (!ownDirty s' 0 a.2.1 4 && !s'.poisoned (lineOf a.2.1) && !unitDown s' a.2.1)) &&
        !claimedBy s' a.2.1 none && !atomLate s' 0 [(a.2.1, 4)]) = true ∧
      opFree (.wadr ⟨g 0, 2, 0, 0, false, BitVec.ofNat 2 p.2, 5, 8, 0⟩) s = true) ∧
    ((0 + 2 ^ 32 - 1) % 2 ^ 32 < 2 ^ 31 ↔ False) ∧ ((5 + 2 ^ 32 - 1) % 2 ^ 32 < 2 ^ 31) ∧ isAcq 1 = true := by decide +kernel
theorem witness_ByteBarriersAndWaits_poll :
    let o : M := ⟨g 0, 2, 0, 0, false, 1, 5, 8, 0⟩
    let s := State.reset.withFetchWord 96 (encode (.wadr o)).toNat
    let s := s.setMe { s.me with waits := [.op (.word 0 true)], ents := s.me.ents.map fun e => { e with inWord := true, runA := true } }
    Wait.op (.word 0 true) ∈ (s.cohort 0).waits ∧ ((wake s 0 0).map (·.1)) = some (.wadr o) ∧
      nexts (match wake s 0 0 with | some p => exec p.1 p.2 | none => .fault .noPower) = true := by decide +kernel
/-- Descriptors: misaligned, unreadable, poisoned, not as R298 asks, good; a transfer's pieces; the completion store. -/
theorem witness_TransfersComplete :
    (let s := { glo { base with sr := [(8, 0x400000)] } with mem := [(16, 1)] }
     let w (m : Tbl Byte) (i : Nat) : DWord := dw (leNat ((List.range 8).map fun j => srcByte { s with mem := m } 0 (0 + 8 * i + j)))
     (s.xdmas.filter (·.core == 0)).length < 16 ∧ (s.release 0 5).1 = true ∧ (32 : DWord).toNat % 64 ≠ 0 ∧ translateG s 0 0 0x600000 .read = .xlate ∧
     translateG s 0 0 0x400000 .read = .ok 0 0 ∧ atomsOut s 0 = false ∧ srcPois s 0 64 = false ∧ srcPois { s with pois := [(0, true)] } 0 64 = true ∧ claimedBy s 0 none = false ∧
     w [(16, 1)] 2 = 1 ∧ (w [(16, 1)] 3).toNat % 8 = 0 ∧ (w [(16, 1)] 4).getLsbD 63 = false ∧ w [(16, 1)] 5 = 0 ∧ w [(16, 1)] 6 = 0 ∧ w [(16, 1)] 7 = 0 ∧ w [] 2 = 0 ∧
     opFree (.xdma ⟨g 0, 0, 0, 0, false, 0, 4, 8, 0⟩ none) s = true) ∧
    (let q : Xdma := ⟨4, 0, 0, 0, 0, 0, 0, 0x400000, 0x401010, 300, 0x401200, 9, [(100, 200)], none, false, [], [], 0⟩
     let st (q : Xdma) : State := { glo base with xdmas := [q], ptime := 160 }
     ((st q).xdmas.find? (·.id == q.id)) = some q ∧ (∀ off ∈ [100, 299], q.spans.find? (fun p => p.1 ≤ off && off < p.1 + p.2) = some (100, 200)) ∧
     translateG (st q) 0x10000 0 (0x400000 + dw 100) .read = .ok 100 0 ∧ translateG (st q) 0x10000 0 (0x401010 + dw 100) .write = .ok (hostKey 0x74) 1 ∧
     isHost (hostKey 0x74) = true ∧ hostUp (st q) = true ∧ claimedBy (st q) 100 (some q.id) = false ∧
     (∀ p ∈ [(true, [(100, 200)]), (false, [])], ({ q with abort := p.1, spans := p.2 }).abort = true ∨ ({ q with abort := p.1, spans := p.2 }).spans = []) ∧
     translateG (st q) 0x10000 0 0x401200 .write = .ok (hostKey 0x200) 1 ∧ q.called = [] ∧ 160 ≤ ((st q).ptime - q.issued).toNat ∧
     portReady (st q) (hostKey 0x200) (toksFor (st q) (some 5) (12 + q.io) ((List.range 8).map (hostKey 0x200 + ·))) = true) := by decide +kernel
/-- Handle 0 free, handle 0 taken on one die, all taken; a handle of the context, of another, and too large a number; ranges of both spaces; an until granule of each. -/
theorem witness_ResidencyComplete :
    (let free (s : State) (h : Nat) : Bool := (List.range 12).all fun d => !(handleOf s d h).2.getLsbD 63
     let taken (n : Nat) : State := { one base with dies := [(3, { Die.reset with handles := (List.range n).map fun h => (h, (0, 0x8000000000000000)) })] }
     free (taken 0) 0 = true ∧ free (taken 1) 0 = false ∧ free (taken 1) 1 = true ∧ (List.range 256).all (fun h => !free (taken 256) h) = true ∧
     (0x1000 : DWord).toNat % 4096 = 0 ∧ (0x1000 : DWord) ≠ 0 ∧ 0x1000 + 0x1000 ≤ 2 ^ 48) ∧
    (let s := { one base with dies := [(0, { Die.reset with handles := [(255, (0, 0x8000000000000000)), (1, (0x0001000000000000, 0x8000000000000000))] })] }
     let mine (h : Nat) : Bool := (handleOf s (dieOf 0) h).2.getLsbD 63 && bits (handleOf s (dieOf 0) h).1 48 16 == 0
     255 < (256 : DWord).toNat ∧ mine 255 = true ∧ mine 1 = false ∧ mine 0 = false ∧
     opFree (.resSetPrio ⟨g 0, 3, 0, 0, 5, 0⟩) s = true ∧ opFree (.resDrop ⟨g 0, 3, 0, 0, 5, 0⟩) s = true ∧ opFree (.resBind ⟨g 0, 3, 0, 4, 5, 6⟩) s = true) ∧
    (let s := glo base
     (∀ j, j < 3 → translate s 0 0 (s.blk 0) 1 .write (0x12000 + dw (4096 * j)) = .ok (scrKey 0x2000 + 4096 * j) 2 ∧
       s.lapsed (scrKey 0x2000 + 4096 * j) 1 (s.blk 0) (0x12000 + dw (4096 * j)) = false ∧ ∀ m, m < j → (scrKey 0x2000 + 4096 * m) / 4096 ≠ (scrKey 0x2000 + 4096 * j) / 4096) ∧
     (∀ j, j < 2 → (0x1000 + dw (4096 * j)).toNat / 2 ^ 30 = (0x1000 : DWord).toNat / 2 ^ 30 ∧ translate s 0 0 (s.blk 0) 3 .write (0x1000 + dw (4096 * j)) = .ok (carveKey 0 0x1000 + 4096 * j) 0 ∧
       s.lapsed (carveKey 0 0x1000 + 4096 * j) 3 (s.blk 0) (0x1000 + dw (4096 * j)) = false) ∧
     readLate s 0 ((List.range 3).map fun j => (scrKey 0x2000 + 4096 * j, 4096)) = false ∧ (s.timeOf 0).toNat < (16000000 : DWord).toNat ∧
     (0x12004 : DWord).toNat % 4096 ≠ 0 ∧ opFree (.resSetLifeS ⟨g 0, 2, 8, 7, 4, 5⟩) s = true ∧ opFree (.resSetLifeM ⟨g 0, 2, 8, 7, 4, 5⟩) s = true) ∧
    (∀ k ∈ [2 ^ 28, scrKey 0x2000 / 4096],
      let s := { scr base with grans := [(k, ⟨2, 0, 5, false⟩)], dies := [(0, { Die.reset with time := 5 })] }
      (s.gran (k * 4096)).cls = 2 ∧ (s.gran (k * 4096)).lapsed = false ∧ (s.gran (k * 4096)).deadline.toNat ≤ (s.timeOf (homeDie (k * 4096))).toNat ∧
      (isCarve (k * 4096) = true ∨ granOwner s k = some (0, 2))) := by decide +kernel

/-! ### Atomics, leases, coherence -/

/-- Lanes 1 and 2 take 16 bytes each at s8. -/
def apart : Cohort := { base with pr := [(1, 6)], vr := [(64 * 12 + 1, 0), (64 * 12 + 2, 16)] }
/-- An atomic of those lanes in a space. -/
def atomOp (sp : BitVec 2) (sz : BitVec 3) : MG := ⟨g 1, sz, 0, 0, false, sp, 4, 12, 8⟩
theorem witness_Atomics : isNan (decodeFloat .f32 0x3F800000) = false ∧ (0 : BitVec 2) = 0 ∧
    (let s := scr { apart with sr := [(8, 0x10000)] }
     ∀ p ∈ [((2 : BitVec 3), 4), (3, 8), (0, 16)],
      okWith (checkMine s 1 .write true false (atomUnits s (atomOp 1 p.1) p.2) (fun k => isHost k && !hostAtom .cas)) (fun l s' =>
        decide (l.length = 2) && relScope s false 0 == none && !leaseHolds s' 0 0 l && !readLate s' 0 (unitKeys l) && !atomLate s' 0 (unitKeys l) &&
        l.all (fun a => isScratch a.2.1 && !s.expired (s.timeOf (homeDie a.2.1)) a.2.1 && (List.range p.2).all fun i => !s.scratchPois (a.2.1 + i)) &&
        decide (l.Pairwise (fun a b => a.2.1 + p.2 ≤ b.2.1 ∨ b.2.1 + p.2 ≤ a.2.1))) = true ∧
      ∀ o ∈ [atomOp 1 p.1], opFree (.am o none) s = true ∧ opFree (.red o none) s = true ∧ opFree (.amcas o none) s = true ∧ opFree (.amgts o none) s = true ∧
        opFree (.amvcs o none) s = true ∧ opFree (.ampcs o none) s = true ∧ opFree (.amf o none) s = true ∧ opFree (.redf o none) s = true) := by decide +kernel
/-- One lane at a line of HBM4E; a line no core holds; an answer to come; two lanes of ordered reductions. -/
theorem witness_FarAtomics :
    (let s := glo { base with pr := [(1, 2)], sr := [(8, 0x400000)] }
     ∀ p ∈ [((2 : BitVec 3), 4), (3, 8), (0, 16)],
      okWith (checkMine s 0 .write true false (atomUnits s (atomOp 0 p.1) p.2) (fun k => isHost k && !hostAtom .cas)) (fun l s' =>
        decide (l.length = 1) && !leaseHolds s' 0 0 l && !readLate s' 0 (unitKeys l) && !atomLate s' 0 (unitKeys l) && !portsFull s' 0 l &&
        l.all fun a => placeOf s' 0 0 a.2.1 a.2.2 false == .far && placeOf s' 0 0 a.2.1 a.2.2 true == .near && !ownDirty s' 0 a.2.1 p.2 &&
          !(s'.lc 0 (lineOf a.2.1)).rel) = true ∧ opFree (.am (atomOp 0 p.1) none) s = true) ∧
    (∀ b ∈ [false, true], let s := { State.reset with pois := if b then [(0, true)] else [] }
      s.dirEnt (lineOf 8) = DirEnt.none ∧ deferred s (sliceOf (lineOf 8)) = [] ∧ unitDown s 8 = false ∧ s.expired (s.timeOf (homeDie 8)) 8 = false ∧ s.poisoned (lineOf 8) = b) ∧
    (let p : Pend := ⟨0, .atom 1 [], [], none, 0, 0, 0, none, []⟩
     (one { base with pend := [p] }).me.pend.find? (·.vid == 0) = some p) ∧
    (let s := glo { apart with sr := [(8, 0x400000)] }
     okWith (checkMine s 0 .write true false (atomUnits s (atomOp 0 2) 16) (fun k => isHost k || isPeer k)) (fun l s' =>
       decide (l.length = 2) && !leaseHolds s' 0 0 l && !portsFull s' 0 l && !readLate s' 0 (unitKeys l) && !atomLate s' 0 (unitKeys l) &&
       l.all fun a => a.2.2 != 2 && !ownDirty s' 0 a.2.1 16) = true ∧ opFree (.redo (atomOp 0 2) none) s = true) := by
  decide +kernel
/-- Tags at NEXT, ahead at both ends, behind; a buffer with room and a full one; a refused request before its time and at it; a grid whose cohorts have ended. -/
theorem witness_OrderedReductions :
    (∀ n ∈ [0, 63, 64], let l := List.replicate n (Deferred.get 0 0 0x5000 0 0)
      let s := { State.reset with defer := [(0, l)], mem := [(8, 5)], dies := [(0, { Die.reset with cyc := 256 })] }
      let next := BitVec.ofNat 32 (leNat (s.bytes (0 + 8) 4))
      s.dirEnt (lineOf 0) = DirEnt.none ∧ deferred s (sliceOf (lineOf 0)) = l ∧ (l.all fun d => match d with | .redo q => lineOf q.key != 0 | _ => true) = true ∧
      s.poisoned (lineOf 0) = false ∧ (5 - next).toNat = 0 ∧ (6 - next).toNat = 1 ∧ (0x80000004 - next).toNat = 2 ^ 31 - 1 ∧ (0x80000005 - next).toNat = 2 ^ 31 ∧
      (4 - next).toNat = 2 ^ 32 - 1 ∧ s.expired (s.timeOf (homeDie 0)) 0 = false ∧ 0 + 256 ≤ s.cycOf (dieOf 0) ∧ s.cycOf (dieOf 0) < 1 + 256) ∧
    (∀ e ∈ [none, some 0],
      let r : RedoReq := ⟨3, 0, 0, 0, false, 1, 0, 0, 1, 7, 0, 0, false, Carry.none⟩
      let s := { State.reset with blks := [(7, { Blk.none with used := true, kind := .grid, gid := 1, cids := [3] })], grids := [(1, { Grid.none with active := true, ended := e.map dw })],
                                  defer := [(0, [.redo r])], ptime := 16000000 }
      let x := s.grid 1
      let mine := (tkeys s.blks).filter fun b => (s.blk b).used && (s.blk b).kind == .grid && (s.blk b).gid == 1
      x.active = true ∧ x.gang = false ∧ x.slices = [] ∧ s.saved = [] ∧ s.defer = [(0, [.redo r])] ∧ r.grid = 1 ∧ mine = [7] ∧ cohortsEnded s 7 = true ∧ blockDrained s 7 = true ∧ redosHeld s 7 = true ∧
      x.ended = e.map dw ∧ 16000000 ≤ (s.ptime - 0).toNat) := by decide +kernel
/-- A lease of cohort 0 on line 0 with n cycles of its length gone. -/
def leaseOf (e : Option Nat) : State :=
  { glo { base with sr := [(8, 0x400000)] } with cores := [(0, { CoreSt.reset with leases := [⟨0, some 0, 32, 0, [], e, false⟩] })] }
/-- A line that may be leased, one of the host; a grant that has come, slots full and one of that line; a lease not held, ended, held; its length over and not; the home's side. -/
theorem witness_Leases :
    (let s := glo { base with sr := [(8, 0x400000)] }
     let o : M := ⟨g 0, 0, 0, 0, false, 0, 6, 8, 0⟩
     let slot (v : DWord) (l : Nat) (e : Option Nat) : LeaseSlot := ⟨v, l, e, none⟩
     opFree (.lsa o) s = true ∧ opFree (.lsr o) s = true ∧ ((srd s.me 8 + BitVec.ofInt 64 (128 * 0)) >>> 7) <<< 7 = 0x400000 ∧
     translate s 0 0 (s.blk 0) 0 .write 0x400000 = .ok 0 0 ∧ translate s 0 0 (s.blk 0) 0 .write 0x401000 = .ok (hostKey 0) 1 ∧ isHost (hostKey 0) = true ∧
     s.lapsed 0 0 (s.blk 0) 0x400000 = false ∧ s.expired (s.timeOf 0) 0 = false ∧
     (grantedLease s.me ((leaseOf none).core 0) 0 0).map (·.len) = some 32 ∧ grantedLease s.me (s.core 0) 0 0 = none ∧
     (∃ y ∈ [slot 0x400000 0 none], y.vline = 0x400000) ∧ 4 ≤ (List.replicate 4 (slot 0 0 none)).length ∧
     ([slot 0x400080 1 none].find? (·.vline == 0x400000)) = none ∧ ([slot 0x400000 0 (some 1)].find? (·.vline == 0x400000)) = some (slot 0x400000 0 (some 1)) ∧
     ((leaseOf none).core 0).leases.find? (fun l => l.line == 0 && l.cid == some 0) = some ⟨0, some 0, 32, 0, [], none, false⟩ ∧
     leaseAsked s 0 0 = false ∧ s.poisoned 0 = false ∧ (s.lc 0 0).rel = false) ∧
    (∀ c ∈ [31, 32],
      let s : State := { leaseOf (some 32) with dies := [(0, { Die.reset with cyc := dw c })] }
      let l : Lease := ⟨0, some 0, 32, 0, [], some 32, false⟩
      (s.core 0).leases.find? (·.line == 0) = some l ∧ (l.start + l.len ≤ s.cycOf (dieOfCore 0) ↔ c = 32) ∧ ((s.core 0).leases.find? (fun l => l.endAt.any (· ≤ s.cycOf (dieOfCore 0))) = some l ↔ c = 32)) ∧
    (State.reset.dirEnt 0 = DirEnt.none ∧ deferred State.reset (sliceOf 0) = [] ∧ State.reset.poisoned 0 = false ∧ dieOfCore (coreOf 0) = homeDie (0 * 128)) ∧
    (let s := { State.reset with dir := [(0, { DirEnt.none with lse := some (0, some 0, 5), hold := [0], wrt := [0] })], dies := [(0, { Die.reset with cyc := 5 })] }
     s.dirEnt 0 = { DirEnt.none with lse := some (0, some 0, 5), hold := [0], wrt := [0] } ∧ deferred s (sliceOf 0) = [] ∧ 5 ≤ s.cycOf (homeDie (0 * 128)) ∧ (s.core 0).leases = [] ∧ s.net = []) ∧
    (let s := { State.reset with dir := [(0, { DirEnt.none with lse := some (0, some 0, 5) })] }
     s.dirEnt 0 = { DirEnt.none with lse := some (0, some 0, 5) }) := by decide +kernel
/-- A cohort that waits for its grant, which the op then takes. -/
theorem witness_Leases_grant :
    let o : M := ⟨g 0, 0, 0, 0, false, 3, 6, 8, 0⟩
    let s := State.reset.withFetchWord 96 (encode (.lsa o)).toNat
    let s := s.setMe { s.me with waits := [.op .lease], ents := s.me.ents.map fun e => { e with inWord := true, runA := true } }
    let s := { s with dies := [(0, { Die.reset with mcSize := 1 })], cores := [(0, { CoreSt.reset with leases := [⟨lineOf (carveKey 0 0), some 0, 32, 0, [], none, false⟩] })] }
    ((wake s 0 0).map (·.1)) = some (.lsa o) ∧ wake State.reset 0 0 = none ∧
      (match wake s 0 0 with
        | some p => decide (translate p.2 0 p.2.me.ctx (p.2.blk p.2.me.blk) 3 .write (leaseLine p.2.me o) = .ok (carveKey 0 0) 0) && nexts (exec p.1 p.2)
        | none => false) = true := by decide +kernel
/-- A home with one entry for line 7. -/
def homeOf (e : DirEnt) : State := { State.reset with dir := [(7, e)] }
/-- Lines with no holder, the sender alone, another holder; a claim, a lease; an invalidation of each answer; an engine that may move now. -/
theorem witness_HomeActsOnMessages :
    (∀ e ∈ [DirEnt.none, { DirEnt.none with hold := [3] }, { DirEnt.none with hold := [3, 4] }, { DirEnt.none with clm := [9] }, { DirEnt.none with clm := [9], recalled := true },
        { DirEnt.none with lse := some (3, none, 5) }, { DirEnt.none with hold := [3], txns := [⟨2, [3], [], .wback 4 1⟩] }],
      (homeOf e).dirEnt 7 = e ∧ e.held = [] ∧ deferred (homeOf e) (sliceOf 7) = [] ∧ unitDown (homeOf e) (7 * 128) = false) ∧
    (∀ c ∈ [3], c = 3) ∧ (∃ c ∈ [3, 4], c ≠ 3) ∧
    (let m : Instr := .wb 3 7 1 0xAB false ⟨6, Carry.none⟩
     m ∈ ({ homeOf DirEnt.none with net := [m] }).net) ∧
    (let r : CopyReq := { twoUnits with toNear := false, farSp := 0, far := 0x400000, bar := none }
     let s := { glo base with copies := [r] }
     (s.copies.find? (·.id == r.id)) = some r ∧ r.started = true ∧ r.paused = none ∧
     (r.todo.filter fun u => match r.trans s r.toNear .write (r.dstAddr u) with | .ok k _ => lineOf k == 0 | _ => false) = [0, 1] ∧ (s.copyUnit r 0).isSome = true) := by
  decide +kernel
/-- Core 0 with line 7: asked for, with a load that waits for it, dirty, in a write-back, leased, self-invalidating; the beacons of an epoch. -/
theorem witness_CoreActsOnMessages :
    (∀ al ∈ [false, true],
      let p : Pend := ⟨0, .load [⟨896, 0x400380, 4, false, [.v 9 0]⟩] [] [(7, 2)], [], none, 0, 0, 0, none, []⟩
      let x : Miss := ⟨2, 7, al, false, false, 0, 0, []⟩
      let s := { one { base with pend := [p], nextVid := 1 } with cores := [(0, { CoreSt.reset with miss := [x] })] }
      (s.core 0).miss.find? (·.line == 7) = some x ∧ x.alloc = al ∧ coreOf 0 = 0 ∧ p ∈ (s.cohort 0).pend ∧ p.kind = .load [⟨896, 0x400380, 4, false, [.v 9 0]⟩] [] [(7, x.n)]) ∧
    (∀ m ∈ [0, 5], ∀ w ∈ [[], [(⟨7, 2, 1, 0xAB, [0], [], false⟩ : WbBuf)]],
      let e : LcEnt := { LcEnt.none with valid := 7, dirty := BitVec.ofNat 128 m }
      let s := ({ State.reset with cores := [(0, { CoreSt.reset with wbufs := w })] }).setLc 0 7 e
      s.lc 0 7 = e ∧ leased s 0 7 = none ∧ mayLeave s 0 7 = true ∧ e.wbn = none ∧ chanFull s (dieOfCore 0) (homeAgent s 7 (dieOfCore 0)) = false ∧ (s.core 0).wbufs.find? (·.line == 7) = w.head?) ∧
    (let e : LcEnt := { LcEnt.none with valid := 7, dirty := 5, rel := true, deps := [8] }
     let b : LcEnt := { LcEnt.none with valid := 7, dirty := 5, writers := [0] }
     mayLeave ((State.reset.setLc 0 7 e).setLc 0 8 b) 0 7 = false ∧ leased ((State.reset.setLc 0 7 e).setLc 0 8 b) 0 7 = none) ∧
    (∀ n ∈ [1, 16],
      let l : Lease := ⟨7, some 0, 32, 0, List.replicate n (.fwd 0 7 ⟨1, 1⟩), none, false⟩
      let s := { State.reset with cores := [(0, { CoreSt.reset with leases := [l] })] }
      leased s 0 7 = some l ∧ (((s.core 0).leases.map (·.probes.length)).sum < 16 ↔ n = 1)) ∧
    (let e : LcEnt := { LcEnt.none with valid := 7, selfInv := true, fill := 10 }
     let s := ({ State.reset with dies := [(0, { Die.reset with cyc := 2058 })] }).setLc 0 7 e
     s.lc 0 7 = e ∧ e.dirty = 0 ∧ e.valid ≠ 0 ∧ (∀ l ∈ (s.core 0).leases, l.line ≠ 7) ∧ e.fill + 2048 ≤ s.cycOf (dieOfCore 0)) ∧
    (1 ≠ (State.reset.die 3).epoch ∧ ([(0, 5), (1, 6)].map (·.1 : Nat × Nat → Nat)).Nodup) := by decide +kernel

/-! ### Barriers, fences, futures -/

/-- Counts that end no phase, one and several; live threads arrived and not; byte barriers at their expectation and short of it. -/
theorem witness_Barriers_test :
    (∀ b ∈ [(⟨0, false, false, 3, 7, [], 1, false, 0⟩ : Bar), ⟨0, false, false, 3, 2, [], 1, false, 0⟩], b.byteMode = false ∧ b.all = false ∧ 0 < b.exp) ∧
    (let b : Bar := ⟨0, false, true, 0, 0, [4], 1, false, 0⟩
     b.all = true ∧ b.arr ≠ [] ∧ (∀ t ∈ [4], t ∈ b.arr) ∧ (∃ t ∈ [4, 5], t ∉ b.arr) ∧ (∀ t ∈ [5], t ∉ b.arr)) ∧
    (∀ b ∈ [(⟨0, true, false, 16, 16, [], 1, false, 0⟩ : Bar), ⟨0, true, false, 0, 16, [], 1, false, 0⟩, ⟨0, true, false, 16, 15, [], 1, false, 0⟩],
      b.byteMode = true ∧ ((0 < b.exp ∧ b.exp ≤ b.got) ∨ (b.exp = 0 ∨ b.got < b.exp))) := by decide +kernel
/-- Entries free, bound, waited on; the last arrival, an earlier one, a wait that is over. -/
theorem witness_Barriers_block :
    (∀ arr ∈ [(List.range 24).map (· + 16), [16]],
      let s := bars base arr
      let b := s.blk 0
      let o : G3 := ⟨g 0, 0, 0, 5, 0, 0⟩
      (barOf b 0).isSome = true ∧ barBusy s 0 0 = false ∧ (barOf b 1).isSome = false ∧ poolUsed s (b.cores.headD 0) < 256 ∧
      (∀ i ∈ [Instr.barIniArv o, .barIniByte o, .barIniFree o, .barArv o, .barWt o, .barSync o, .barCl o, .barDie o], opFree i s = true) ∧
      (barOf b 0).map (·.byteMode) = some false ∧ (s.release 0 1).1 = true ∧ joined s = none ∧
      (∃ x y, barOf b 0 = some x ∧ arrive x ((lanesOf s.frag.mask s.me.w).map (s.me.cidx * s.me.w + ·)) = some y ∧
        reached (BitVec.ofNat 32 (barTest (liveThreads b) y).ph) (BitVec.ofNat 32 ((x.ph + 1) % 2 ^ 32)) = decide (arr.length = 24)) ∧
      reached (BitVec.ofNat 32 0) 0 = true ∧ reached (BitVec.ofNat 32 0) 1 = false) ∧
    (let k : Cohort := { base with ents := base.ents.map fun e => { e with wait := some ⟨some 0, some 0, false⟩ } }
     joined (bars k []) = some 0 ∧ barBusy (bars k []) 0 0 = true ∧ (bars k []).frag.wait = some ⟨some 0, some 0, false⟩ ∧ opFree (.barSync ⟨g 0, 0, 0, 5, 0, 0⟩) (bars k []) = true) ∧
    (barOf ((scr base).blk 0) 0 = none) := by
  refine ⟨?_, by decide +kernel, by decide +kernel⟩
  intro arr h
  simp only [List.mem_cons, List.not_mem_nil, or_false] at h
  rcases h with rfl | rfl
  · exact ⟨by decide +kernel, by decide +kernel, by decide +kernel, by decide +kernel, by decide +kernel, by decide +kernel, by decide +kernel, by decide +kernel,
      ⟨_, _, rfl, rfl, by decide +kernel⟩, by decide, by decide⟩
  · exact ⟨by decide +kernel, by decide +kernel, by decide +kernel, by decide +kernel, by decide +kernel, by decide +kernel, by decide +kernel, by decide +kernel,
      ⟨_, _, rfl, rfl, by decide +kernel⟩, by decide, by decide⟩
/-- A die-gang grid of one block on die 0 with n threads. -/
def gang (n : Nat) : State :=
  let rcd : List DWord := (List.replicate 32 0).set 5 0x8000000000000000
  let slice : Slice := ⟨0, 0, 0, [], none, false, false, [], none, none, ⟨0, false, true, 0, 0, [], 0, false, 0⟩⟩
  { one { base with kind := .grid, gid := 1, blk := 0 } with
    blks := [(0, { Blk.none with used := true, kind := .grid, gid := 1, cids := [0], threads := n, cores := [0] })], grids := [(1, { Grid.none with active := true, rcd := rcd, slices := [slice] })] }
theorem witness_Barriers_group :
    (∀ n ∈ [16, 17], let s := gang n
      let ts := ((lanesOf s.frag.mask s.me.w).map (s.me.cidx * s.me.w + ·)).map (4096 * (s.blk 0).idx + ·)
      let o : G3 := ⟨g 0, 0, 0, 5, 0, 0⟩
      s.me.kind = .grid ∧ dieGang (s.grid 1) = true ∧ ((s.grid 1).slices.find? (·.die == (s.blk 0).die)).isSome = true ∧ joined s = none ∧
      (s.release 0 2).1 = true ∧ (s.release 0 3).1 = true ∧ ts ≠ [] ∧ tget none (s.grid 1).cbars 0 = none ∧
      (groupLive (s.gridBlks 1 (·.cluster == 0))).all (fun t => ts.contains t) = decide (n = 16) ∧ (groupLive (s.gridBlks 1 (·.die == 0))).all (fun t => ts.contains t) = decide (n = 16) ∧
      opFree (.barCl o) s = true ∧ opFree (.barDie o) s = true) ∧
    (one { base with kind := .task }).me.kind ≠ .grid ∧ dieGang ((one base).grid 0) = false := by decide +kernel
/-- Nothing to release or acquire; a load that has still to read; a word at its home, another core's, a poisoned one. -/
theorem witness_FencesComplete :
    (∀ sc ∈ [0, 5], ((glo base).release 0 sc).1 = true) ∧ lastReadOut (glo base) 0 = false ∧ atomsOut (glo base) 0 = false ∧
    (let p : Pend := ⟨0, .load [⟨0, 0x400000, 4, false, [.v 9 0]⟩] [] [(0, 1)], [], none, 0, 0, 0, none, []⟩
     let s := glo { base with pend := [p], lastVid := some 0 }
     (s.release 0 3).1 = false ∧ lastReadOut s 0 = true) ∧
    (∀ w ∈ [[], [0], [5]], ∀ b ∈ [false, true],
      let s := { glo { base with sr := [(8, 0x400000)] } with dir := [(0, { DirEnt.none with wrt := w })], pois := if b then [(0, true)] else [] }
      okWith (checkMine s 0 .read true false [⟨0, sreg s.me 8, 8⟩]) (fun l s' => decide (l.length = 1) && !leaseHolds s' 0 0 l && l.all fun a =>
        a.2.2 == 0 && homeDie a.2.1 == 0 && srcPois s' a.2.1 8 == b && !claimedBy s' a.2.1 none && !atomLate s' 0 [(a.2.1, 8)] && (s'.dirEnt (lineOf a.2.1)).txns.isEmpty && (s'.dirEnt (lineOf a.2.1)).wrt == w) = true ∧
      opFree (.fenceRacq ⟨g 0, 3, 24, 4, 0, 8⟩) s = true ∧ opFree (.fenceRel ⟨g 0, 3, 0, 0, 0, 0⟩) s = true ∧ opFree (.fenceAcq ⟨g 0, 3, 8, 0, 0, 0⟩) s = true ∧
      opFree (.fenceFull ⟨g 0, 3, 16, 0, 0, 0⟩) s = true) := by decide +kernel

/-- A check of a future's address passes with a key and a state that meet a condition. -/
def futWith (k : FutChk) (p : Nat → State → Bool) : Bool := match k with | .ok key s => p key s | .bad _ => false
/-- A future's line that no held redo waits on, its granule live, the op's request arrived. -/
def still (s : State) (k : Nat) : Bool := travelled s k && !s.expired (s.timeOf (homeDie k)) k &&
  (deferred s (sliceOf (lineOf k))).all fun d => match d with | .redo r => lineOf r.key != lineOf k | _ => true
/-- A future in each state that nothing holds, with `fut.get`s deferred at its home and without, in a full buffer and one with room. -/
theorem witness_Futures :
    (∀ w : Fin 4, ∀ n ∈ [0, 1, 64],
      let s := { fut { base with sr := [(5, 42)] } (BitVec.ofNat 8 w.val) 9 with defer := [(0, List.replicate n (Deferred.get 0 0 (carveKey 0 0) 0 0))] }
      let o : M := ⟨g 0, 0, 2, 4, false, 3, 5, 0, 0⟩
      let calm (k : Nat) (t : State) : Bool := !ownDirty t 0 k 16 && homeFree t (lineOf k) && !atomLate t 0 [(k, 16)] && !readLate t 0 [(k, 16)] && !t.poisoned (lineOf k) && still t k
      futWith (checkFut s 3 .write 16 0) (fun k t => decide (k = carveKey 0 0) && calm k t && (t.release 0 4).1 && t.me.relDue == none && decide (futState (t.word k) = w.val) &&
        decide ((deferred t (sliceOf (lineOf k))).length = n) && hasGets t k == decide (n ≠ 0)) = true ∧
      futWith (checkFut s 3 .read 16 0) calm = true ∧ s.me.bound.length < 8 ∧ isAcq 0 = false ∧
      (∀ i ∈ [Instr.futNew o, .futNewBind o, .futSet o, .futSetAbn o, .futGet o, .futReg o], opFree i s = true)) ∧
    (8 ≤ (List.replicate 8 ((0 : DWord), 0)).length) ∧
    (let s := fut { base with pend := [⟨3, .futGet 0 (carveKey 0 0) 7 none 256, [], none, 0, 0, 0, none, []⟩] } 0 0
     getOf (carveKey 0 0) (.get 0 3 (carveKey 0 0) 0 0) = some (0, 3) ∧ (⟨3, .futGet 0 (carveKey 0 0) 7 none 256, [], none, 0, 0, 0, none, []⟩ : Pend) ∈ (s.cohort 0).pend) ∧
    (∀ w : Fin 4,
      let s := fut { base with sr := [(5, 64)] } (BitVec.ofNat 8 w.val) 9
      futWith (checkFut s 3 .write 16 0) (fun k t => futWith (checkFut t 3 .write 64 64) fun rk u => decide (recCtx u rk = 0) && (u.release 0 4).1 && !ownDirty u 0 k 16 &&
        homeFree u (lineOf k) && !atomLate u 0 [(k, 16)] && !readLate u 0 [(k, 16)] && !u.poisoned (lineOf k) && !u.poisoned (lineOf rk) && homeFree u (lineOf rk) && still u k && still u rk &&
        decide (futState (u.word k) = w.val) && decide (k + 16 ≤ rk)) = true ∧ (sreg s.me 5).toNat % 64 = 0) := by decide +kernel
/-- A refused `fut.get` whose time has come, at a future of each state; a bound future of each; records of the context, of another, and one that stands already as written. -/
theorem witness_Tasks :
    (∀ w : Fin 4, ∀ n ∈ [63, 64],
      let p : Pend := ⟨3, .futGet 0 (carveKey 0 0) 7 (some 5) 256, [], none, 0, 0, 0, none, []⟩
      let s : State := { fut { base with pend := [p] } (BitVec.ofNat 8 w.val) 9 with
        dies := [(0, { Die.reset with mcSize := 1, cyc := 5 })], defer := [(0, List.replicate n (Deferred.get 1 0 (carveKey 0 16) 0 0))] }
      (s.cohort 0).pend.find? (·.vid == 3) = some p ∧ 5 ≤ s.cycOf (dieOf 0) ∧ homeFree s (lineOf (carveKey 0 0)) = true ∧ s.poisoned (lineOf (carveKey 0 0)) = false ∧ still s (carveKey 0 0) = true ∧
      futState (s.word (carveKey 0 0)) = w.val ∧ (deferred s (sliceOf (lineOf (carveKey 0 0)))).length = n) ∧
    (∀ x ∈ [0, 1], let s := { fut { base with ctx := x, sr := [(8, 64)] } 0 0 with dies := [(0, { Die.reset with mcSize := 1, mcCtx := BitVec.ofNat 16 x })] }
      futWith (checkFut s 3 .write 64 64) (fun k t => recCtx t k == 0 && !t.poisoned (lineOf k) && (t.release 0 4).1 && homeFree t (lineOf k)) = true ∧
      opFree (.tskSpawn ⟨g 0, 0, 2, 4, false, 3, 0, 8, 0⟩) s = true) ∧
    (∀ b ∈ [false, true],
      let bs := recordBytes base 0xFFFF ((List.replicate 64 0).set 0x10 (if b then 1 else 0) |>.set 0x20 7)
      let m := (if b then bs.set 0x10 0x21 else bs)
      let s := { one { base with sr := [(8, 0)] } with dies := [(0, { Die.reset with mcSize := 1 })], mem := ((List.range m.length).map fun i => (carveKey 0 0 + i, m.getD i 0)) }
      let head := (List.range 64).map fun i => srcByte s 0 (carveKey 0 0 + i)
      let bs' := recordBytes s.me s.frag.mask head
      futWith (checkFut s 3 .write 64 0) (fun k t => decide (k = carveKey 0 0) && decide (t = s)) = true ∧ atomLate s 0 [(carveKey 0 0, 64)] = false ∧ srcPois s (carveKey 0 0) 64 = false ∧ lanesBusy s.me s.frag.mask = false ∧ s.me.relDue = none ∧
      parkLegal s.me head = !b ∧ s.me.pend = [] ∧ s.me.reds = [] ∧ sreg s.me 0 = 0 ∧ opFree (.tskPark ⟨g 0, 0, 2, 4, false, 3, 0, 8, 0⟩) s = true ∧
      (b = false → (match areaKeys s 3 0 bs'.length with
        | .inl ks => !readLate s 0 (ks.map fun k => (k, 8)) && (List.range ks.length).all fun j =>
            decide (((List.range 8).map fun i => srcByte s 0 (ks.getD j 0 + i)) = (bs'.drop (8 * j)).take 8)
        | .inr _ => false) = true ∧ (s.release 0 4).1 = true)) := by decide +kernel

/-! ### Time, accounts, self-test -/

/-- Event rings too small, with room and full. -/
theorem witness_Clocks : (bits 3 0 5 < 4 ∧ 16 < bits 17 0 5 ∧ 4 ≤ bits 0x1004 0 5 ∧ bits 0x1010 0 5 ≤ 16) ∧
    ((bits 5 0 32 + 2 ^ 32 - bits 5 32 32) % 2 ^ 32 < 2 ^ 4 ∧ 2 ^ 4 ≤ (bits 16 0 32 + 2 ^ 32 - bits 16 32 32) % 2 ^ 32) ∧
    (State.reset.bar4 = [] ∧ hostUp State.reset = true ∧ State.reset.me.ctx < 2 ^ 16 ∧ 0 < 12 * 88 * 2048) ∧ (∀ i, opFree i (one base) = true) :=
  ⟨by decide, by decide, by decide +kernel, witness_opFree.1⟩
/-- A cohort that waits for its barrier's bytes, or for a future. -/
def idling (w : List Wait) (p : List Pend) (x : Ctx) (t : DWord) : State :=
  { scr { base with waits := w, pend := p, ents := base.ents.map fun e => { e with wait := if w = [] then some ⟨some 3, some 0, false⟩ else none } } with blks := [(0, { (scr base).blk 0 with bars := [(3, some ⟨0, true, false, 1, 0, [], 0, false, 0⟩)] })], ctxs := [(0, x)], ptime := t }
/-- Steps due and not; an accounting area; a count that starts, goes on and ends, for an op and for a `fut.get`. -/
theorem witness_Accounts :
    (∀ p ∈ [((3 : Int), 80000), (0, 80000), (3, 79999)],
      let d : Die := { Die.reset with vmOfs := p.1 }
      (d.vmAct ≠ d.vmOfs ∧ 5 * 16000 ≤ (dw p.2 - d.vmAt).toNat ↔ p = (3, 80000))) ∧
    (let s := { State.reset with dies := [(0, { Die.reset with acctBase := 1 })] }
     (s.die 0).acctBase.getLsbD 0 = true ∧ s.bar4 = [] ∧ hostUp s = true ∧ ∀ i, i < 13 → s.poisoned (lineOf (sysKey s (128 + 8 * i))) = false) ∧
    (∀ p ∈ [([Wait.op (.bytes 3)], ([] : List Pend)), ([], []), ([.switch [4]], [⟨4, .futGet 0x40 (carveKey 0 0x40) 7 none 256, [], none, 0, 0, 0, none, []⟩])],
      ∀ t ∈ [49, 50],
      let x : Ctx := { Ctx.reset with idleSince := some (0, [(0, 0)]) }
      let s := idling p.1 p.2 x (dw (t * 16000000))
      let held := internalWait (s.setCtx 0 { x with idleSince := none }) 0
      x.wdogcfg.getLsbD 0 = true ∧ stalled s 0 = true ∧ issued s 0 = [(0, 0)] ∧ (bits x.wdogcfg 16 16 * 16000000 ≤ (s.ptime - 0).toNat ↔ t = 50) ∧
      (s.cohort 0).trap = none ∧
      (held = some (.op 3) ∧ (nextFrag (s.cohort 0)).isSome = true ∨ held = some (.bar 0 3) ∨
        held = some (.get 4 0x40) ∧ (s.cohort 0).pend.find? (·.vid == 4) = some ⟨4, .futGet 0x40 (carveKey 0 0x40) 7 none 256, [], none, 0, 0, 0, none, []⟩)) ∧
    (∀ i ∈ [none, some ((0 : DWord), [(0, 7)])], stalled (idling [.op (.bytes 3)] [] { Ctx.reset with idleSince := i } 0) 0 = true) ∧ stalled (one base) 0 = false := by
  decide +kernel
/-- Each privilege, suites and units in range and at the first past it, a result that stands, a unit in use and a free one. -/
theorem witness_SelfTest :
    (let s := one { base with priv := true }
     (∀ o, opFree (.bist o) (one base) = true ∧ opFree (.bist o) s = true) ∧ s.me.priv = true ∧ (one base).me.priv = false ∧
     (0 : BitVec 15).toNat = 0 ∧ 5 < (6 : BitVec 15).toNat ∧ 23 < (24 : DWord).toNat ∧ 19 < (20 : DWord).toNat ∧ bistUnit 0 4 23 = some 23 ∧ bistUnit 0 5 19 = some 19 ∧ bistUnit 0 3 0 = some 0 ∧
     bistBusy s 0 3 0 = false ∧ bistBusy { s with cohorts := s.cohorts ++ [(1, { base with bist := some ⟨3, 0, [], 0, none⟩ })] } 0 3 0 = true ∧
     (∀ n : Fin 5, (s.core 0).leases = [] ∨ n.val + 1 ≠ 3) ∧ s.me.bist = none) ∧
    (∀ n : Fin 5, let s := one { base with bist := some ⟨n.val + 1, 0, [(9, 1)], 0, none⟩ }
      (s.cohort 0).bist = some ⟨n.val + 1, 0, [(9, 1)], 0, none⟩ ∧ ∀ l ∈ s.linesOf (coreOf 0), (s.lc (coreOf 0) l).dirty = 0) := by
  refine ⟨⟨fun o => ⟨witness_opFree.1 _, opFree_of _ _ rfl rfl⟩, ?_⟩, ?_⟩ <;> decide +kernel

/-! ### Contexts -/

/-- An area whose length can be read is handed on as the checks leave it. -/
theorem withArea_of {s : State} {a : DWord} {kind : Acc} {u : Acs} {key : Nat} {coh : BitVec 2} {l m : List (Acs × Nat × BitVec 2)} {n : Nat}
    (h1 : checkMine s 0 kind true false (areaUnits a 8) = .ok ((u, key, coh) :: l) s) (h2 : srcPois s key 8 = false)
    (h3 : leNat ((List.range 8).map fun i => srcByte s (coreOf s.cur.cid) (key + i)) = n) (h4 : checkMine s 0 kind true false (areaUnits a n) = .ok m s) :
    ∀ k, withArea s a kind k = k n s := by
  intro k
  simp only [withArea, h1, h2, h3, h4, Bool.false_eq_true, if_false]
/-- A privileged cohort of context 0 that names an area of 16 bytes, or of n·256, and context 1, which is valid and has one block where `b`. -/
def saving (n : Byte) (b : Bool) (x : Ctx) : State :=
  { glo { base with priv := true, sr := [(8, 0x400000), (4, 1)] } with
    mem := (if n = 0 then [(0, 16)] else [(1, n)]) ++ [(hostKey 64, 1)], ctxs := [(1, x)],
    blks := [(0, (scr base).blk 0)] ++ if b then [(1, { Blk.none with used := true, kind := .task, ctx := 1 })] else [] }
/-- The op of both. -/
def areaOp : M := ⟨g 0, 0, 0, 0, false, 0, 4, 8, 0⟩
theorem witness_ContextImages_areas : ∀ (n : Byte) (x : Ctx) (b : Bool), n = 0 ∨ n = 0x20 → x = Ctx.reset →
    ∀ kind ∈ [Acc.write, .read], ∃ m, ∀ k, withArea (saving n b x) 0x400000 kind k = k m (saving n b x) := by
  rintro n x b (rfl | rfl) rfl kind hk
  · refine ⟨16, withArea_of (u := ⟨0, 0x400000, 8⟩) (key := 0) (coh := 0) (l := []) (m := [(⟨0, 0x400000, 8⟩, 0, 0)]) ?_ ?_ ?_ ?_⟩ <;>
      revert hk <;> revert kind <;> revert b <;> decide +kernel
  · refine ⟨0x2000, withArea_of (u := ⟨0, 0x400000, 8⟩) (key := 0) (coh := 0) (l := []) (m := [(⟨0, 0x400000, 8⟩, 0, 0), (⟨0, 0x401000, 8⟩, hostKey 0, 1)]) ?_ ?_ ?_ ?_⟩ <;>
      revert hk <;> revert kind <;> revert b <;> decide +kernel
/-- Nothing to save, too little room, room; a save that is over but for its image. -/
theorem witness_ContextImages_save :
    (areaAddr (saving 0 true Ctx.reset).me areaOp = 0x400000 ∧ (0x400000 : DWord).toNat % 4096 = 0 ∧ (sreg (saving 0 true Ctx.reset).me 4).toNat % 2 ^ 16 = 1) ∧
    (∀ n ∈ [0, 32], ∀ b ∈ [false, true], let s := saving (BitVec.ofNat 8 n) b Ctx.reset
      1 ≠ s.me.ctx ∧ ctxV s 1 = true ∧ ctxV s 2 = false ∧ (s.ctx 1).saver ≠ some (saverId s) ∧ (s.ctx 1).image = none ∧ (ctxBlks s 1 = [] ↔ b = false) ∧ 16 < ctxSize s 1 + 1 ∧
      (b = true → 16 < ctxSize s 1 ∧ ctxSize s 1 ≤ 0x2000) ∧ opFree (.ctxSave areaOp) s = true ∧ opFree (.ctxLoad areaOp) s = true) := by decide +kernel
theorem witness_ContextImages_image :
    (let s : State := { saving 0 false { Ctx.reset with image := some 7, saver := some 0 } with images := [⟨7, 1, 5, 80⟩] }
     let ks := imageKeys s 0x400000 9 .write
     saverId s = 0 ∧ (s.ctx 1).saver = some (saverId s) ∧ ctxBlks s 1 = [] ∧ s.images.find? (·.id == 7) = some ⟨7, 1, 5, 80⟩ ∧ imageLen ⟨7, 1, 5, 80⟩ = 9 ∧ ks.length = 9 ∧
     (∀ d, d < 12 → (s.die d).acctBase.getLsbD 0 = false) ∧ (s.release 0 5).1 = true ∧ s.me.relDue = none ∧ (∀ k ∈ ks, ownDirty s 0 (lineOf k * 128) 128 = false ∧ homeFree s (lineOf k) = true ∧ s.expired (s.timeOf (homeDie k)) k = false ∧
       (deferred s (sliceOf (lineOf k))).isEmpty = true) ∧
     (∀ j, j < 9 → ∀ i, i < j → ks.getD i 0 + 8 ≤ ks.getD j 0 ∨ ks.getD j 0 + 8 ≤ ks.getD i 0)) := by decide +kernel
/-- An area that holds an image of one word after its length. -/
def loading : State :=
  { saving 0 false { Ctx.reset with image := some 7 } with
    images := [⟨7, 1, 5, 16⟩], mem := (0, 16) :: (List.range 8).map fun i => (8 + i, (Config.word 5).extractLsb' (8 * i) 8) }
/-- No image; one whose words stand in the area; one too long for it. -/
theorem witness_ContextImages_load :
    imageOf (saving 0 false Ctx.reset) 1 = none ∧ imageOf loading 1 = some ⟨7, 1, 5, 16⟩ ∧ imageKeys loading 0x400000 (imageLen ⟨7, 1, 5, 16⟩) .read = [8] ∧
    (∀ k ∈ [8], srcPois loading k 8 = false ∧ claimedBy loading k none = false) ∧ 16 < ctxSize loading 1 + 1 ∧ (16 : Nat) ≤ 16 ∧
    [8].map (fun k => dw (leNat ((List.range 8).map fun i => srcByte loading 0 (k + i)))) = imageWords 5 (imageLen ⟨7, 1, 5, 16⟩) := by
  refine ⟨by decide +kernel, by decide +kernel, by decide +kernel, by decide +kernel, by decide, by decide, ?_⟩
  have h : ((List.range 8).map fun i => srcByte loading 0 (8 + i)) = (List.range 8).map fun i => (Config.word 5).extractLsb' (8 * i) 8 := rfl
  simp only [List.map_cons, List.map_nil, h, imageWords, imageLen, dw]
  simp only [leNat, List.range_succ, List.range_zero, List.nil_append, List.map_cons, List.map_nil, List.cons_append, Nat.reduceDiv, Nat.reduceSub, Nat.add_zero]
  generalize Config.word 5 = x
  apply congrArg (fun y => [y])
  apply BitVec.eq_of_toNat_eq
  simp only [BitVec.toNat_ofNat, BitVec.extractLsb'_toNat, Nat.shiftRight_eq_div_pow]
  have := x.isLt
  omega

/-! ### Pre-emption and the host's context commands -/

/-- A slice with one cluster to place on die 0. -/
def sliceDue (t : Option DWord) : Slice := { Slice.fresh 0 0 1 with since := t }
/-- Die 0 with core 0 full but for bay 0, and the context's quota of 64 granules a core used up on the others; blocks of grid 1 on it besides. Relocation is enabled. -/
def crowded (gs : Tbl Grid) (bs : List (Nat × Blk)) : State :=
  { one { base with gid := 1, blk := 1 } with
    grids := gs,
    blks := [(0, { Blk.none with used := true, kind := .grid, gid := 9, ctx := 5, cores := [0], areas := [⟨0, 64, 6080⟩] }),
             (3, { Blk.none with used := true, kind := .grid, gid := 9, cores := (List.range 87).map (· + 1), areas := (List.range 87).map fun c => ⟨c + 1, 0, 64⟩ })] ++ bs,
    dies := [(0, { Die.reset with dqent := [(0, dw (64 + 3 * 2 ^ 44))] })] }
/-- A grid that asks for 32 granules of scratch, of which a block of a grid of lower priority holds the place. -/
theorem witness_Preemption_request :
    (let s := crowded [(1, { Grid.none with active := true, rcd := recordOf 0 1 0 0 }), (2, { Grid.none with active := true, rcd := recordOf 0 3 100 (40 * 4096), slices := [sliceDue (some 0)] })]
       [(1, { Blk.none with used := true, kind := .grid, gid := 1, cids := [0], cores := [0], regs := [⟨0, 30, 1⟩] })]
     s.slice 2 0 = some (sliceDue (some 0)) ∧ (s.grid 2).active = true ∧ rPlb (s.grid 2).rcd ≠ 0 ∧ ctxStopped s (rCtx (s.grid 2).rcd) = false ∧
     nextUp s 2 (sliceDue (some 0)) ≠ none ∧ (s.placeNext 2 (sliceDue (some 0)) (dieCores 0)).isNone = true ∧ (∀ p ∈ s.blks, p.2.option = 0) ∧
     victims 2 0 (candidates s 0 (rPrio (s.grid 2).rcd)) s [] = some [[1]]) ∧
    (∃ p ∈ [(1, (⟨5, 2⟩ : Est)), (2, ⟨3, 1⟩)], p.2.num ≤ 3 * p.2.den) ∧ (∀ p ∈ [(1, (⟨5, 1⟩ : Est)), (2, ⟨4, 1⟩)], 0 < p.2.den ∧ 3 * p.2.den < p.2.num) := by decide +kernel
/-- A cohort that stands at a header. -/
def atHeader : Cohort := { base with gid := 1, blk := 1, ents := base.ents.map fun e => { e with st := .header } }
/-- Block 1 of grid 1 with an option and a cohort. -/
def optioned (o : Nat) (k : Cohort) : State :=
  { one k with
    blks := [(1, { Blk.none with used := true, kind := .grid, gid := 1, cids := [0], cores := [0], entered := some 0, option := o })],
    grids := [(1, { Grid.none with active := true, slices := [sliceDue none] })] }
/-- A block to be saved that has drained and one that has not; one to be flushed with a cohort between words, and with none left. -/
theorem witness_Preemption_block :
    (((optioned 2 atHeader).blk 1).option = 2 ∧ blkSavable (optioned 2 atHeader) 1 = true ∧ liveCohorts (optioned 2 atHeader) 1 = [0] ∧ allAtHeaders base = true ∧
     allAtHeaders { base with trap := some missedTrap } = false ∧ blkSavable (optioned 2 { atHeader with reds := [⟨0, 1, 0, false, 0⟩] }) 1 = false ∧
     cohortsEnded (optioned 3 atHeader) 1 = false ∧ betweenWords atHeader = true ∧ ((optioned 3 atHeader).core 0).leases = [] ∧ ((optioned 3 atHeader).core 0).matq = [] ∧ ((optioned 3 atHeader).core 0).matRun = none ∧
     cohortsEnded (optioned 3 Cohort.vacant) 1 = true ∧ blockDrained (optioned 3 Cohort.vacant) 1 = true ∧ ((optioned 3 atHeader).blk 1).askedBy ≠ ((optioned 3 atHeader).blk 1).gid ∧
     (tkeys (optioned 3 atHeader).blks) = [1] ∧ (optioned 3 atHeader).slice 1 0 = some (sliceDue none)) := by decide +kernel
/-- CTXCMD with a command for context 0, die 0, core 0, slot 0. -/
def cmdOf (n : Nat) : DWord := dw (n * 2 ^ 43)
theorem witness_ContextCommands :
    (∀ n ∈ [1, 2, 3, 4, 5], bits (cmdOf n) 43 3 = n ∧ bits (cmdOf n) 48 16 = 0) ∧
    (∀ n ∈ [false, true], ∀ kd ∈ [Kind.grid, .task],
      let s := { scr { base with kind := kd, gid := 1, waits := [.host n] } with grids := [(1, { Grid.none with active := true })] }
      recovery s = false ∧ s.ctxcmd.getLsbD 31 = false ∧ stoppedCohort s (cmdOf 1) = some (0, n) ∧ (s.cohort 0).doomed = false ∧ (s.cohort 0).again = none ∧
      (s.grid (s.cohort 0).gid).active = true ∧ 0 ∈ liveCohorts s (s.cohort 0).blk) ∧ stoppedCohort (scr base) (cmdOf 1) = none ∧
    (let s := ringed (scr base)
     let big := { s with mem := [(hostKey 0, 1), (hostKey 26, 0x10), (hostKey 32, 4), (hostKey 33, 0x10)] }
     let none' := { big with blks := [], cohorts := [] }
     saveStatus State.reset 0 0 = 3 ∧ saveStatus none' 0 (poolFree none' 0) = 1 ∧ saveStatus s 0 (poolFree s 0) = 2 ∧ saveStatus big 0 (poolFree big 0) = 0) ∧
    (let r := { State.reset with ctxcmd := cmdOf 4 ||| 0x80000000 }
     recovery r = false ∧ r.ctxcmd.getLsbD 31 = true ∧ bits r.ctxcmd 43 3 = 4 ∧ ctxBlks r 0 = []) ∧
    (imageOf State.reset 0 = none ∧ imageOf { State.reset with images := [⟨7, 0, 5, 16⟩], ctxs := [(0, { Ctx.reset with image := some 7 })] } 0 = some ⟨7, 0, 5, 16⟩) := by
  decide +kernel
/-- The eight bytes of a word read back as the word. -/
theorem word_of_bytes (x : DWord) : dw (leNat ((List.range 8).map fun i => x.extractLsb' (8 * i) 8)) = x := by
  apply BitVec.eq_of_toNat_eq
  simp only [leNat, List.range_succ, List.range_zero, List.nil_append, List.map_cons, List.map_nil, List.cons_append, dw, BitVec.toNat_ofNat,
    BitVec.extractLsb'_toNat, Nat.shiftRight_eq_div_pow]
  have := x.isLt
  omega
/-- One word of the image's place in the pool is right, or it is not. -/
def pooled (x : DWord) : State :=
  { State.reset with images := [⟨7, 0, 5, 16⟩], ctxs := [(0, { Ctx.reset with image := some 7 })],
                     mem := (List.range 8).map fun i => (hostKey (8 + i), x.extractLsb' (8 * i) 8) }
/-- That word stands there. -/
theorem witness_ContextCommands_restore : ∀ x : DWord, ∃ s : State, imageOf s 0 = some ⟨7, 0, 5, 16⟩ ∧
    (List.range (imageLen ⟨7, 0, 5, 16⟩)).map (fun i => sysWord s ((poolOf s 0).1 + 8 + 8 * i)) = [x] := by
  intro x
  refine ⟨pooled x, rfl, ?_⟩
  have h : (poolOf (pooled x) 0).1 = 0 := by
    simp [poolOf, ctxWord, sysWord, sysKey, ctxEntryAddr, pooled, State.bytes, State.byte, tget, List.range_succ, leNat, hostKey, bits, State.reset]
  simp only [imageLen, Nat.reduceDiv, Nat.reduceSub, List.range_succ, List.range_zero, List.nil_append, List.map_cons, List.map_nil, List.cons.injEq, and_true]
  have e := word_of_bytes x
  rw [h]
  simp only [List.range_succ, List.range_zero, List.nil_append, List.map_cons, List.map_nil, List.cons_append] at e
  refine Eq.trans ?_ e
  simp [sysWord, sysKey, pooled, State.bytes, State.byte, tget, List.range_succ, leNat, hostKey, State.reset, dw]

/-! ### Errors, resets, translation -/

theorem witness_Errors :
    ((one base).cohort 0).kind ≠ .vacant ∧ 255 < ((one base).cohort 0).nreg ∧ 15 < ((one base).cohort 0).w ∧ (∀ k ∈ [2 ^ 42, scratchKey (12 * 88) 0 - 1], 2 ^ 42 ≤ k ∧ k < scratchKey (12 * 88) 0) ∧
    (∀ d ∈ [0, 5], ((State.reset.setLc 0 7 { LcEnt.none with valid := 7, dirty := BitVec.ofNat 128 d }).lc 0 7).valid ≠ 0) ∧
    (∀ l ∈ [0, lineOf (carveKey 0 0)], (isHbm (l * 128) || isCarve (l * 128)) = true ∧ homeDie (l * 128) < 12) ∧ 3 ≤ (3 : BitVec 8).toNat ∧ (5 : BitVec 8).toNat ≤ 5 := by decide +kernel
theorem witness_Resets : recovery State.reset = false ∧ (State.reset.die 11).stopped = false ∧ ({ Die.reset with rstBusy := true }).rstBusy = true ∧
    (3 : BitVec 4) ≠ 1 ∧ (State.reset.fw.state ≠ 4) ∧ ({ Firmware.reset with state := 4 }).state = 4 := by decide +kernel
/-- Context 0 with a four-level table at 0x10000 that maps 0x400000 with leaf `e`, or not at all. -/
def paged (e : List (Nat × Byte)) : State :=
  { State.reset with
    mem := e ++ [(hostKey 0, 1), (hostKey 2, 1), (hostKey 32, 4), (hostKey 33, 0x10), (hostKey 0x10000, 1), (hostKey 0x10002, 2), (hostKey 0x20000, 1), (hostKey 0x20002, 3),
                 (hostKey 0x30010, 1), (hostKey 0x30012, 4)] }
/-- A leaf that a write may use, one it may not, and none. -/
theorem witness_TranslationEvents_walk :
    let w : Bool := true
    (∀ p ∈ [([(hostKey 0x40000, 9), (hostKey 0x40007, 0x20)], w), ([(hostKey 0x40000, 9)], !w)],
      let s := paged p.1
      globalAddr 0x400000 = true ∧ ctxValid s 0 = true ∧ unreadEntry s 0x400000 4 (bits (ctxWord s 0 0) 12 52 * 4096) = none ∧ tlbHit s 0 0 0x400000 = none ∧
      walk s 0 0x400000 = .leaf (if p.2 then 0x2000000000000009 else 9) 4096) ∧ walk (paged []) 0 0x400000 = .none false := by decide +kernel
/-- A fragment parked on a request to read or write; TINV of each granularity; a carve region to be zero-filled. -/
theorem witness_TranslationEvents :
    (∀ w ∈ [false, true],
      let e : Ent := { (base.ents.headD Ent.none) with st := .parked ⟨4, 0x400010, w⟩ }
      let p : PageReq := ⟨4, 0, 0x400000, w, 0, true⟩
      let s := { one { base with ents := [e] } with preqs := [p] }
      s.preqs.find? (·.n == 4) = some p ∧ (s.cohort 0).ctx = p.ctx ∧ (s.cohort 0).ents = [e] ∧ e.park = none ∧ s.copies = [] ∧ s.xdmas = [] ∧ s.queues = [] ∧ s.grids = []) ∧
    (State.reset.tinv.getLsbD 0 = false ∧ (1 : DWord).getLsbD 0 = true ∧ tinvRange 1 = some (0, 4096) ∧ tinvRange 0xC01 = none ∧ State.reset.cohorts = []) ∧
    (384 < ((385 : DWord).extractLsb' 0 9).toNat ∧ ((384 : DWord).extractLsb' 0 9).toNat ≤ 384 ∧ (384 : DWord).extractLsb' 0 9 ≠ (State.reset.die 0).mcSize) ∧
    (let s := { State.reset with dies := [(0, { Die.reset with mcSize := 1, mcPend := true })] }
     (s.die 0).mcPend = true ∧ s.dir = [] ∧ carveBusy s 0 = false) := by decide +kernel

/-! ### Events at a home and a die, walks, errors -/

/-- A copy request and a transfer that hold a claim; a retried probe before its time and at it; a transaction of each kind. -/
theorem witness_HomeActsOnMessages_engines :
    (let r : CopyReq := { twoUnits with claims := [7] }
     let s := { glo base with copies := [r] }
     s.copies.find? (·.id == r.id) = some r ∧ 7 ∈ r.claims) ∧
    (let x : Xdma := ⟨4, 0, 0, 0, 0, 0, 0, 0x400000, 0x401010, 300, 0x401200, 9, [(100, 200)], none, false, [7], [], 0⟩
     let s := { glo base with xdmas := [x] }
     s.copies.find? (·.id == x.id) = none ∧ s.xdmas.find? (·.id == x.id) = some x ∧ 7 ∈ x.claims) ∧
    (let s := { State.reset with dies := [(0, { Die.reset with cyc := 64 })] }
     64 ≤ s.cycOf (homeDie (7 * 128)) ∧ s.cycOf (homeDie (7 * 128)) < 65) := by decide +kernel
/-- A channel with all performed and one with two operations on their way; a beacon of the sender's epoch and of an earlier one. -/
theorem witness_Beacons :
    chanOut State.reset 0 1 = [] ∧ chanOut { State.reset with chanOpen := [(1, [5, 6])] } 0 1 = [5, 6] ∧ (1 : Nat) ≠ (State.reset.die 3).epoch ∧
    ([(0, 0, 5), (1, 0, 6)].map (·.1 : Nat × Nat × Nat → Nat)).Nodup := by decide +kernel
/-- Barriers of a count and of every thread, with threads that have arrived and that have not. -/
theorem witness_Barriers_arrive :
    (let b : Bar := ⟨0, false, true, 0, 0, [4], 1, false, 0⟩
     b.all = true ∧ (∀ t ∈ [5, 6], t ∉ b.arr) ∧ ∃ t ∈ [4, 5], t ∈ b.arr) ∧ (⟨0, false, false, 3, 2, [], 1, false, 0⟩ : Bar).all = false := by decide +kernel
/-- A future to be abandoned: empty, full, poisoned, and one whose line is being invalidated. -/
theorem witness_TasksComplete_abandon :
    (∀ w : Fin 4, let s := fut base (BitVec.ofNat 8 w.val) 9
      s.poisoned (lineOf (carveKey 0 0)) = false ∧ homeFree s (lineOf (carveKey 0 0)) = true ∧ futState (s.word (carveKey 0 0)) = w.val ∧
      s.expired (s.timeOf (homeDie (carveKey 0 0))) (carveKey 0 0) = false ∧ deferred s (sliceOf (lineOf (carveKey 0 0))) = []) ∧
    ({ State.reset with pois := [(0, true)] }).poisoned (lineOf 0) = true ∧ homeFree { State.reset with dir := [(0, { DirEnt.none with clm := [9] })] } (lineOf 0) = false := by
  decide +kernel
/-- A fragment whose lanes wait for a result, and records not to be parked. -/
theorem witness_TasksComplete_park :
    (let p : Pend := ⟨3, .known, [⟨.v 4 1, 0⟩], none, 0, 2, 0, none, []⟩
     lanesBusy (one { base with pend := [p] }).me (one { base with pend := [p] }).frag.mask = true) ∧ opFree (.tskPark ⟨g 0, 0, 2, 4, false, 3, 0, 8, 0⟩) (one base) = true := by
  decide +kernel
/-- Lines in the slice's SRAM and in the memory-side cache, and lines of the carve region and of HBM4E. -/
theorem witness_Errors_home :
    (let s := { State.reset with sram := [(sliceOf 7, [(7, false)])], msc := [(homeDie (7 * 128), [(7, false)])] }
     7 ∈ (sramOf s (sliceOf 7)).map (·.1) ∧ 7 ∈ (mscOf s (homeDie (7 * 128))).map (·.1) ∧ isHbm (7 * 128) = true ∧ homeDie (7 * 128) < 12) ∧
    isCarve (lineOf (carveKey 0 0) * 128) = true ∧ homeDie (lineOf (carveKey 0 0) * 128) < 12 := by decide +kernel
/-- An entry of the table that cannot be read: its line is poisoned. -/
theorem witness_TranslationEvents_bad :
    (walkBad { paged [] with pois := [(lineOf (hostKey 0x10000), true)] } 0 0x400000).isSome = true ∧ walkBad (paged []) 0 0x400000 = none ∧
    globalAddr (0x400000 : DWord) = true := by decide +kernel
/-- A fragment parked on a page that a walk maps for reads and writes, for reads alone, and not at all. -/
theorem witness_TranslationEvents_response :
    ∀ m ∈ [[], [(hostKey 0x40000, (9 : Byte)), (hostKey 0x40007, 0x20)], [(hostKey 0x40000, 9)]], ∀ w ∈ [false, true],
      let e : Ent := { (base.ents.headD Ent.none) with st := .parked ⟨4, 0x400010, w⟩ }
      let s := { paged m with cohorts := [(0, { base with ents := [e] })], preqs := [⟨4, 0, 0x400000, w, 0, true⟩] }
      (s.preqs.find? (·.n == 4)).map (·.page) = some 0x400000 ∧ (s.cohort 0).ctx = 0 ∧ (s.cohort 0).ents = [e] ∧ e.park = none ∧
      (walk s 0 0x400000 = if m = [] then .none false else .leaf (if m.length = 2 then 0x2000000000000009 else 9) 4096) := by decide +kernel
/-- An access that an ended cohort left. -/
theorem witness_TranslationEvents_left :
    (let s := { State.reset with tinv := 1, cohorts := [(0, Cohort.vacant)],
                                 cores := [(0, { CoreSt.reset with wbufs := [⟨7, 2, 1, 0xAB, [0], [0], false⟩] })] }
     s.tinv.getLsbD 0 = true ∧ ∃ p ∈ s.cohorts, leftOut s p.1 = true) ∧
    (∀ cid, let s := { State.reset with tinv := 1 }
      leftOut s cid = false ∧ (s.cohort cid).kind = .vacant) := by
  refine ⟨⟨by decide +kernel, (0, Cohort.vacant), by decide +kernel, by decide +kernel⟩, fun cid => ⟨?_, rfl⟩⟩
  simp [leftOut, storesHome, atomsMoving, State.reset, State.core, State.linesOf, State.heldAll, tget, tkeys, CoreSt.reset]

/-! ### Queues, head records, dispatch, placement -/

/-- Queue 0 with a descriptor of those words at 0x10000 and its ring at 0x400000. -/
def queued (w : List DWord) : State :=
  { glo { base with sr := [(4, 0), (5, 0x400800)] } with qtbase := 0x10001, mem := [(hostKey 0, 1), (hostKey 32, 4), (hostKey 33, 0x10)] ++ wordsAt (hostKey 0x10000) w }
/-- Descriptors: in append mode open, full, not in use, halted; read by polls; overrun; malformed; of another context; with a ring that does not translate. -/
theorem witness_QueueAppends_descriptors :
    (∀ w ∈ [[0x400004, 3, 5, 0], [0x400004, 3, 16, 0], [0x400004, 0, 5, 0], [0x400004, 3, 5, 0, 0x100], [0x400004, 1, 16, 0], [0x400004, 1, 17, 0], [0x600004, 3, 5, 0],
        [0x400004, 0x0001000000000003, 5, 0]],
      let s := queued (w ++ List.replicate (8 - w.length) 0)
      let ws := (List.range 8).map fun i => sysWord s (queueDesc s 0 + 8 * i)
      s.qtbase.getLsbD 0 = true ∧ (∀ i, i < 8 → sysOk s (queueDesc s 0 + 8 * i) = true) ∧ ws = w ++ List.replicate (8 - w.length) 0 ∧ queueDescOk ws = true ∧
      (s.queue 0).known = false) ∧
    (let s := queued [0x400003, 3, 5, 0, 0, 0, 0, 0]
     queueDescOk ((List.range 8).map fun i => sysWord s (queueDesc s 0 + 8 * i)) = false ∧ ∀ i, i < 8 → sysOk s (queueDesc s 0 + 8 * i) = true) ∧
    (State.reset.qtbase.getLsbD 0 = false ∧ recovery State.reset = false) := by decide +kernel
/-- A `launch` whose record can be read and whose slot can be written; one with no record, one with no slot; by QAPPEND too. -/
theorem witness_QueueAppends_launch :
    (let o : G3 := ⟨g 0, 0, 0, 6, 4, 5⟩
     ∀ p ∈ [(0x400004, true), (0x600004, false)],
      let s := queued [dw p.1, 3, 5, 0, 0, 0, 0, 0]
      let y := s.relMade.readQueue 0
      opFree (.launch o) s = true ∧ sreg s.me o.va = 0 ∧ sreg s.me o.vb = 0x400800 ∧ s.me.relDue = none ∧ (s.release 0 4).1 = true ∧ (s.release 0 5).1 = true ∧
      (svcWords y (qCtx (y.queue 0)) 0x400800 32).isSome = true ∧ svcWords y (qCtx (y.queue 0)) 0x600000 32 = none ∧
      (((svcWords y (qCtx (y.queue 0)) 0x400800 32).bind fun r => y.svcWrite (qCtx (y.queue 0)) (slotAddr (y.queue 0) (qWidx (y.queue 0))) r).isSome = p.2)) ∧
    (let s := queued [0x400004, 3, 5, 0, 0, 0, 0, 0]
     let y := ({ s with qappend := tput 0 s.qappend 0 0x400800 } : State).readQueue 0
     recovery s = false ∧ hostUp s = true ∧ (svcWords y (qCtx (y.queue 0)) 0x600000 32) = none ∧
     ((svcWords y (qCtx (y.queue 0)) 0x400800 32).bind fun r => y.svcWrite (qCtx (y.queue 0)) (slotAddr (y.queue 0) (qWidx (y.queue 0))) r).isSome = true) := by
  decide +kernel
/-- A state whose queue 0 holds one record, those words, at 0x400000. -/
def headed (ctx : Byte) (ring : DWord) (r : List DWord) : State :=
  { glo base with
    qtbase := 0x10001, ctxtbase := 1, mem := [(hostKey 0, ctx), (hostKey 32, 4), (hostKey 33, 0x10)] ++ wordsAt 0 r,
    queues := [(0, { Queue.zero with known := true, ctl := [ring, 1, 1, 0, 0, 0, 0, 0] })] }
/-- A context that is not valid, a ring that does not translate, a record not of its form, of another context, and a good one. -/
theorem witness_HeadRecords :
    (∀ p ∈ [((0 : Byte), (0x400004 : DWord), recordOf 0 1 0 0), (1, 0x600004, recordOf 0 1 0 0), (1, 0x400004, List.replicate 32 0),
        (1, 0x400004, (recordOf 0 1 0 0).set 6 0x0001000000000000), (1, 0x400004, recordOf 0 1 0 0)],
      let s := headed p.1 p.2.1 p.2.2
      let x := s.queue 0
      queueOn s x = true ∧ x.head = none ∧ qCount x ≠ 0 ∧ s.ctxtbase.getLsbD 0 = true ∧ (s.ctx (qCtx x)).torn = false ∧ x.ctl.length = 8 ∧
      (∀ i, i < 8 → sysOk s (ctxEntryAddr s (qCtx x) + 8 * i) = true) ∧ ctxValid s (qCtx x) = decide (p.1 = 1) ∧
      svcWords s (qCtx x) (slotAddr x (qRidx x)) 32 = (if p.2.1 = 0x600004 then none else some p.2.2)) ∧
    (recordOk (List.replicate 32 0) = false ∧ recordOk ((recordOf 0 1 0 0).set 6 0x0001000000000000) = true ∧ rCtx ((recordOf 0 1 0 0).set 6 0x0001000000000000) ≠ 0 ∧
      recordOk (recordOf 0 1 0 0) = true ∧ rCtx (recordOf 0 1 0 0) = 0 ∧ ∀ i, i < 4 → waitAddr (recordOf 0 1 0 0) i = 0) := by decide +kernel
/-- A head record whose first wait is for a word to reach a value. -/
def waitRec (p : DWord × DWord) : List DWord := ((recordOf 0 1 0 0).set 8 p.1).set 12 p.2
/-- Queue 0 with that head. -/
def waiting (p : DWord × DWord) : State :=
  { glo base with queues := [(0, { Queue.zero with known := true, head := some (waitRec p), latched := [false, true, true, true] })] }
/-- What such a wait finds: whether its word is the host's, and whether it has reached its value. -/
def finds (s : State) (r : List DWord) : Option (Bool × Bool) := match svcTr s (rCtx r) (waitAddr r 0) .read with
  | .ok k _ => if s.poisoned (lineOf k) || unitDown s k then none else some (isHost k, reached (BitVec.ofNat 32 (s.word k).toNat) (waitVal r 0))
  | _ => none
/-- A head that waits for a word, in HBM4E or at the host, which has come or has not; a head that is ready. -/
theorem witness_HeadRecords_waits :
    (∀ q ∈ [(0x400003, 0), (0x400003, 1), (0x401005, 0), (0x401005, 1)],
      let p : DWord × DWord := (dw q.1, dw q.2)
      (((waiting p).queue 0).latched.getD 0 true = false ∧ ((waiting p).queue 0).readyAt = none ∧ ((waiting p).queue 0).head = some (waitRec p) ∧
        finds (waiting p) (waitRec p) = some (decide (p.1 = 0x401005), decide (p.2 = 0)))) ∧
    (({ State.reset with queues := [(0, { Queue.zero with head := some (recordOf 0 1 0 0), readyAt := some 5 })] } : State).queue 0).readyAt = some 5 := by decide +kernel

/-! ### Dispatch, placement, entry, completion -/

/-- A ready head of queue 0, in a context that is valid; die 0 may be held in reset. -/
def ready (r : List DWord) (held : Bool) : State :=
  { glo base with
    qtbase := 0x10001, ctxtbase := 1, mem := [(hostKey 0, 1), (hostKey 32, 4), (hostKey 33, 0x10)], dies := if held then [(0, { Die.reset with stopped := true })] else [],
    queues := [(0, { Queue.zero with known := true, ctl := [0x400004, 1, 1, 0, 0, 0, 0, 0], head := some r, readyAt := some 0 })] }
/-- A record of one cluster for the die that launched it, die-gang or not. -/
def oneDie (gang : Nat) : List DWord := ((recordOf 0 1 0 0).set 6 (dw (2 * 2 ^ 25))).set 5 (dw (16 + 2 ^ 13 + 2 ^ 26 + 2 ^ 60 + gang * 2 ^ 63))
/-- What dispatch finds. -/
def found (s : State) : State := (tkeys s.queues).foldl (fun (s : State) q => s.ageQueue q) s
/-- A candidate with a die that holds it, die-gang too, and with none. -/
theorem witness_DispatchAndPlacement_dispatch : ∀ p ∈ [(0, false), (1, false), (0, true)],
    let s := found (ready (oneDie p.1) p.2)
    ((s.grids.filter (·.2.active)).length < 1024 ∧ s.ctxtbase.getLsbD 0 = true ∧ candidate s = some 0 ∧ ctxValid s (rCtx (oneDie p.1)) = true ∧ (s.queue 0).ctl.length = 8 ∧
      (s.queue 0).head = some (oneDie p.1) ∧ rGang (oneDie p.1) = decide (p.1 = 1) ∧
      chosenDies s (oneDie p.1) 0 none none = (if p.2 then none else some [0]) ∧
      (p.2 = false → ∀ z ∈ slicesOf (oneDie p.1) [0], z.stop - z.next ≤ capOf s (oneDie p.1) z.die)) := by decide +kernel
/-- A die-gang grid that has reached its die, of a cluster that fits and of one that does not. -/
def gangDue (nreg scr : Nat) (t : Option DWord) : State :=
  { glo base with grids := [(2, { Grid.none with active := true, gang := true, here := true, rcd := recordOf nreg 1 0 scr, slices := [sliceDue t] })], dies := [(0, { Die.reset with time := 16000000, dqent := [(0, dw (64 + 2 ^ 44))] })],
                  blks := [(0, { Blk.none with used := true, kind := .grid, gid := 9, cores := List.range 88, areas := ⟨0, 16, 48⟩ :: (List.range 87).map fun c => ⟨c + 1, 0, 64⟩ })] }
theorem witness_DispatchAndPlacement_gang :
    (∀ p ∈ [(0, 4096), (0, 64 * 4096)], let s := gangDue p.1 p.2 none
      (s.grid 2).active = true ∧ (s.grid 2).gang = true ∧ (s.grid 2).here = true ∧ ctxStopped s (rCtx (s.grid 2).rcd) = false ∧ heldBack s 2 0 = false ∧
      (s.placeWhole 1 2 0).isSome = decide (p.2 = 4096)) ∧
    (let s := gangDue 0 4096 (some 0)
     s.slice 2 0 = some (sliceDue (some 0)) ∧ 16000000 ≤ (s.timeOf 0 - 0).toNat) ∧
    (let s := gangDue 0 4096 none
     s.slice 2 0 = some (sliceDue none) ∧ (sliceDue none).reserved = false) ∧
    (let s := gangDue 0 4096 none
     heldBack { s with grids := s.grids ++ [(3, { Grid.none with active := true, here := true, rcd := recordOf 0 3 0 0, slices := [{ sliceDue (some 0) with reserved := true }] })] }
       2 0 = true) := by decide +kernel
/-- A block that fits, and one that brings scratch. -/
theorem witness_DispatchAndPlacement_block :
    (let s := gangDue 0 4096 none
     (s.placeBlk (gridSpec s 2 0 0 0) 1 (dieCores 0)).isSome = true ∧ 0 < (gridSpec s 2 0 0 0).w ∧
     ((s.placeBlocks 2 0 0 1 (dieCores 0) [0]).bind fun t => (t.blk (s.next + 1)).scratch).isSome = true) := by decide +kernel
/-- A block of two cohorts that is placed and has not been entered. -/
def placed : State :=
  let c : Cohort := { Cohort.vacant with kind := .grid, blk := 1, gid := 2, w := 16 }
  { State.reset with
    cohorts := [(0, c), (1, { c with cidx := 1 })], grids := [(2, { Grid.none with active := true, rcd := recordOf 0 1 0 0 })],
    blks := [(1, { Blk.none with used := true, kind := .grid, gid := 2, cids := [0, 1], threads := 20, cores := [0] })] }
theorem witness_CohortEntryState : (placed.blk 1).used = true ∧ (placed.blk 1).kind = .grid ∧ (placed.blk 1).entered = none ∧ (placed.blk 1).cids.Nodup ∧ (placed.grid 2).toks = [] ∧
    (∀ c ∈ (placed.blk 1).cids, (placed.cohort c).sr = [] ∧ (placed.cohort c).vr = [] ∧ (placed.cohort c).pr = [] ∧ (placed.cohort c).xr = [] ∧ (placed.cohort c).jr = [] ∧
      (placed.cohort c).w ≤ 64) := by decide +kernel
/-- A grid with a completion word of its own, or none, all of whose blocks have retired. -/
def retired (caddr : DWord) : State :=
  { glo base with
    ptime := 160, grids := [(2, { Grid.none with active := true, rcd := (recordOf 0 1 0 0).set 2 caddr })],
    blks := [(1, { Blk.none with used := true, kind := .grid, gid := 2, cids := [5], entered := some 0, cores := [0] })] }
theorem witness_RetirementAndSizes :
    (let s := retired 0
     (s.blk 1).used = true ∧ (s.blk 1).kind = .grid ∧ (s.blk 1).option ≠ 3 ∧ (s.blk 1).entered ≠ none ∧ cohortsEnded s 1 = true ∧ blockDrained s 1 = true ∧ redosHeld s 1 = false ∧
     (s.grid (s.blk 1).gid).active = true ∧ (s.grid 2).left = 0 ∧ 160 ≤ (s.ptime - (s.grid 2).retAt).toNat ∧ s.xdmas = [] ∧ s.copies = [] ∧ dw (rf (s.grid 2).rcd 2 3 61 * 8) = 0) ∧
    (let s := retired 0x400004
     let x := s.grid 2
     dw (rf x.rcd 2 3 61 * 8) = 0x400000 ∧ (match svcTr s (rCtx x.rcd) 0x400000 .write with
       | .ok k _ => decide (k = 0) && portReady s k ((List.range 8).map fun i => (k + i, gridToks s x)) && !unitDown s k && !s.poisoned (lineOf k) && homeFree s (lineOf k)
       | _ => false) = true ∧ deferred s (sliceOf (lineOf 0)) = []) ∧
    (bits (17 : DWord) 0 5 = 17 ∧ bits (16 : DWord) 0 5 = 16 ∧ recovery State.reset = false) ∧
    (let s := { State.reset with dies := [(0, { Die.reset with lcb := 6 })] }
     dieOfCore 3 < 12 ∧ (s.core 3).lcb ≠ (s.die (dieOfCore 3)).lcb.toNat ∧ (s.core 3).leases = [] ∧ s.blks = [] ∧ s.linesOf 3 = []) := by decide +kernel
/-- A cohort held at a barrier, whose register block stands between two runs of core 0 too short for a waiting cluster, in a context that allows moves and fills its
quota of the other cores. -/
def apartRuns : State :=
  { crowded [(1, { Grid.none with active := true, rcd := recordOf 0 1 0 0 }),
             (2, { Grid.none with active := true, here := true, rcd := recordOf 0 3 100 (40 * 4096), slices := [{ sliceDue (some 0) with stalled := true }] })]
      [(1, { Blk.none with used := true, kind := .grid, gid := 1, cids := [0], cores := [0], regs := [⟨0, 30, 1⟩] })] with
    cohorts := [(0, { base with gid := 1, blk := 1, ents := base.ents.map fun e => { e with wait := some ⟨some 0, some 0, false⟩ } })] }
theorem witness_RetirementAndSizes_relocate :
    let s := apartRuns
    let x := s.blk 1
    (s.cohort 0).kind ≠ .vacant ∧ mayRelocate s 0 = true ∧ relOf s 0 (s.cohort 0).ctx = true ∧ curesStall s 0 = false ∧ 4 + 1 ≤ allocatable (s.core 0).lcb ∧
      4 % 64 + 1 ≤ 64 ∧ runFree (coreOcc (s.setBlk 1 { x with regs := x.regs.set 0 ⟨0, 0, 0⟩ }) 0 none) 4 1 = true ∧
      curesStall (s.setBlk 1 { x with regs := x.regs.set 0 ⟨0, 4, 1⟩ }) 0 = true := by decide +kernel

/-! ### Monitors, registers, bridges, the host, firmware, sessions, memory -/

/-- A bridge at rest and one whose dwell of 10 µs goes on and is over; a channel that samples; ports up. -/
theorem witness_MonitorsAndRegisters :
    (recovery State.reset = false ∧ (0x8000000000000000 : DWord).getLsbD 63 = true ∧ (State.reset.bridge 3).ctl.getLsbD 63 = false) ∧
    (∀ t ∈ [159999, 160000], let s := { State.reset with ptime := dw t, bridges := [(3, ⟨0x8000000000000001, 5, 0⟩)] }
      (s.bridge 3).ctl.getLsbD 63 = true ∧ (max 1 (bits (s.bridge 3).ctl 0 8) * 10 * 16000 ≤ (s.ptime - (s.bridge 3).dwellAt).toNat ↔ t = 160000)) ∧
    (∀ q ∈ [(0x0005000000000015, 5), (0x0005000000000015, 6), (0x0005000000000011, 5)],
      let p : DWord × BitVec 16 := (dw q.1, BitVec.ofNat 16 q.2)
      let s := { State.reset with ptime := 16000, evring := 4, mons := [(0, ⟨p.1, 7, 3, p.2, [], 0⟩)] }
      let x := s.mon 0
      x.ctl.getLsbD 0 = true ∧ bits x.ctl 4 12 * 16000 ≤ (s.ptime - x.sampleAt).toNat ∧ 4 ≤ bits s.evring 0 5 ∧ bits s.evring 0 5 ≤ 16 ∧
      x.ctl.getLsbD 2 = decide (p.1 = 0x0005000000000015) ∧ (x.last.toInt ≤ (x.ctl.extractLsb' 48 16 : BitVec 16).toInt ↔ p.2 = 5)) ∧
    (portUp State.reset 0 = true ∧ portUp State.reset 1 = true ∧ portUp { State.reset with links := [] } 0 = false ∧
      recovery { State.reset with fw := { Firmware.reset with running := none } } = true) := by decide +kernel
/-- DCLK and VMARG within and outside their ranges; PMAP of 64 and 65. -/
theorem witness_RegisterWrites : (bits (0x076C0320 : DWord) 16 16 = 1900 ∧ bits (0x076C0320 : DWord) 0 16 = 800 ∧ bits (0x076D0320 : DWord) 16 16 = 1901 ∧ bits (0x0320076C : DWord) 16 16 = 800) ∧
    (((0x14 : DWord).extractLsb' 0 8 : BitVec 8).toInt = 20 ∧ ((0x15 : DWord).extractLsb' 0 8 : BitVec 8).toInt = 21 ∧ ((0xEC : DWord).extractLsb' 0 8 : BitVec 8).toInt = -20 ∧
      ((0xEB : DWord).extractLsb' 0 8 : BitVec 8).toInt = -21) ∧ bits (64 : DWord) 0 7 = 64 ∧ bits (65 : DWord) 0 7 = 65 := by decide +kernel
/-- Data on its way from die 1 to die 0 over bridge 0; a port up and one down; reads of a host line and of a peer's, tried as often as may be and less. -/
theorem witness_BridgesAndHost_messages :
    (let m : Instr := .data 0 (2 ^ 29) 5 ⟨false, []⟩
     let s := { State.reset with net := [m] }
     s.net[0]? = some m ∧ (receiver s m 0).isSome = true) ∧
    (portUp State.reset 0 = true ∧ portUp { State.reset with links := [] } 1 = false) ∧
    (∀ p ∈ [(hostKey 0, 0, 160), (peerKey 0, 0, 159999), (peerKey 0, 0, 160000), (peerKey 0, 7, 160000), (peerKey 0, 8, 160000)].map fun p => (p.1, p.2.1, dw p.2.2),
      let m : Instr := .rd 0 (lineOf p.1) true
      let s := { State.reset with ptime := p.2.2, net := [m], sentAt := [0], tries := if p.2.1 = 0 then [] else [(m, p.2.1)] }
      s.net[0]? = some m ∧ mayArrive s 0 m = true ∧ hostUp s = true ∧ isHost (lineOf p.1 * 128) = isHost p.1 ∧ isPeer (lineOf p.1 * 128) = isPeer p.1 ∧
      ((s.tries.find? (·.1 == m)).map (·.2)).getD 0 = p.2.1 ∧ (s.ptime - s.sentAt.getD 0 0) = p.2.2) := by decide +kernel
/-- The interleaved space of one GiB a die, as the host and as peer 0, with IN and without, write, read and update it. -/
theorem witness_BridgesAndHost_space :
    (let s := { State.reset with pmap := 1, peers := [(1, 1)] }
     recovery s = false ∧ portUp s 0 = true ∧ 4096 + 8 ≤ ilvSize s ∧ homeFree s (lineOf (ilvKey s 4096)) = true ∧ s.poisoned (lineOf (ilvKey s 4096)) = false ∧
     deferred s (sliceOf (lineOf (ilvKey s 4096))) = [] ∧ (∀ l ∈ ilvLines s 4096 8, (s.dirEnt l).clm = []) ∧
     (peerWord s 0 1).getLsbD 0 = true ∧ (peerWord State.reset 0 1).getLsbD 0 = false ∧
     ((atomStep (.int 0 false) 8 (leNat (s.bytes (ilvKey s 4096) 8)) 5 0 0).1).isSome = true) ∧ (2 ^ 20 : Int).natAbs ≤ 2 ^ 20 ∧ bits State.reset.terr 32 4 = 0 := by
  decide +kernel
/-- Commands taken, an image staged or none, a verification and a commit that go on. -/
theorem witness_FirmwareAndSessions_firmware :
    (State.reset.fw.state ≠ 3 ∧ State.reset.fw.state ≠ 4 ∧ State.reset.fw.staged = none) ∧ (∀ n ∈ [1, 2, 3], bits (dw n) 0 2 = n) ∧
    (({ Firmware.reset with state := 3 }).state = 3 ∧ ({ Firmware.reset with state := 4 }).state = 4 ∧ ({ Firmware.reset with staged := some [1] }).staged = some [1]) := by
  decide +kernel
/-- Port 0 with n sessions, the first at its handshake or up, and k key sets. -/
def talking (n k : Nat) (up : Bool) : State :=
  { State.reset with sess := (List.range n).map fun i => ⟨0, i + 1, up, 0, 0, []⟩, ide := (List.range k).map fun i => ⟨0, i, 5, false⟩ }
theorem witness_FirmwareAndSessions_sessions :
    portUp State.reset 0 = true ∧ recovery State.reset = false ∧ tget [] State.reset.signed 0 = [] ∧ tget [] ({ State.reset with signed := [(0, [3, 0, 5])] }).signed 0 ≠ [] ∧
    (∀ n ∈ [3, 4], ((talking n 0 true).sess.filter (·.io == 0)).length = n) ∧
    (sessOf (talking 1 0 false) 0 1 = some ⟨0, 1, false, 0, 0, []⟩ ∧ upSess (talking 1 0 false) 0 1 = none ∧ upSess (talking 1 0 true) 0 1 = some ⟨0, 1, true, 0, 0, []⟩) ∧
    (∀ n ∈ [3, 4], (ideOf (talking 1 n true) 0).length = n ∧ ideKey (talking 1 n true) 0 9 = none ∧ ideKey (talking 1 n true) 0 2 = some ⟨0, 2, 5, false⟩) := by decide +kernel
/-- A memory in canonical form that lists a byte, and a state from which a step and an instruction go on. -/
theorem witness_StepKeepsMemoryCanonical :
    memWf { State.reset with mem := [(5, 1)] } = true ∧ memWf { State.reset with mem := [(5, 0)] } = false ∧ nexts (exec (.clockChange 0 1000) { State.reset with mem := [(5, 1)] }) = true ∧
      nexts (step { State.reset with mem := [(5, 1)], sched := [.outside (hostKey 0) [1]] }) = true := by decide +kernel

end Sys2Proof.Tests
end

section
/-! PROOF. Fields of a word, a queue unit's view through writes and errors, and the waits of a head record (02 R30, 04 R83-R88). -/
namespace Sys2Proof.Proofs
open Sys2Proof Sys2Proof.Machine Sys2Proof.Laws

/-! ### Fields of a word -/

/-- A field of a word depends on the bits up to its end only. -/
theorem bits_eq_mod_div (v : DWord) (lo n : Nat) : bits v lo n = v.toNat % 2 ^ (lo + n) / 2 ^ lo := by
  rw [bits, Nat.pow_add, Nat.mod_mul_right_div_self]

/-- A field that has been replaced reads as its new value, cut to its width. -/
theorem bits_setBits_same (v : DWord) (lo n x : Nat) (h : lo + n ≤ 64) : bits (setBits v lo n x) lo n = x % 2 ^ n := by
  have hlow : v.toNat % 2 ^ lo / 2 ^ lo = 0 := Nat.div_eq_of_lt (Nat.mod_lt _ (Nat.two_pow_pos lo))
  have hsum : v.toNat % 2 ^ lo + 2 ^ lo * (x % 2 ^ n) + v.toNat / 2 ^ (lo + n) * 2 ^ (lo + n)
      = v.toNat % 2 ^ lo + 2 ^ lo * (x % 2 ^ n + 2 ^ n * (v.toNat / 2 ^ (lo + n))) := by
    rw [Nat.pow_add]; ring
  rw [bits_eq_mod_div, setBits, BitVec.toNat_ofNat, Nat.mod_mod_of_dvd _ (Nat.pow_dvd_pow 2 h), Nat.pow_add,
    Nat.mod_mul_right_div_self, ← Nat.pow_add, hsum, Nat.add_mul_div_left _ _ (Nat.two_pow_pos lo), hlow, Nat.zero_add,
    Nat.add_mul_mod_self_left, Nat.mod_mod]

/-- Replacing a field leaves every field below it. -/
theorem bits_setBits_below (v : DWord) {lo n x lo' n' : Nat} (h : lo' + n' ≤ lo) (hl : lo ≤ 64) :
    bits (setBits v lo n x) lo' n' = bits v lo' n' := by
  have hd : 2 ^ (lo' + n') ∣ 2 ^ lo := Nat.pow_dvd_pow 2 h
  have hup : v.toNat / 2 ^ (lo + n) * 2 ^ (lo + n) = 2 ^ lo * (2 ^ n * (v.toNat / 2 ^ (lo + n))) := by rw [Nat.pow_add]; ring
  have hlow : (setBits v lo n x).toNat % 2 ^ lo = v.toNat % 2 ^ lo := by
    rw [setBits, BitVec.toNat_ofNat, Nat.mod_mod_of_dvd _ (Nat.pow_dvd_pow 2 hl), hup, Nat.add_mul_mod_self_left,
      Nat.add_mul_mod_self_left, Nat.mod_mod]
  rw [bits_eq_mod_div, bits_eq_mod_div, ← Nat.mod_mod_of_dvd _ hd, hlow, Nat.mod_mod_of_dvd _ hd]

/-- R30's test of a sequence value, on numbers. -/
theorem reached_iff (m : DWord) (w : Word) :
    reached (BitVec.ofNat 32 m.toNat) w = decide ((m.toNat % 2 ^ 32 + 2 ^ 32 - w.toNat) % 2 ^ 32 < 2 ^ 31) := by
  have hw : w.toNat < 2 ^ 32 := w.isLt
  rw [reached, BitVec.toNat_sub, BitVec.toNat_ofNat]
  congr 3
  omega

/-! ### Queues through writes of the services -/

@[simp] theorem queue_setQueue (s : State) (q : Nat) (x : Queue) : (s.setQueue q x).queue q = x := tget_tput_same _ _ _ _
@[simp] theorem setQueue_mem (s : State) (q : Nat) (x : Queue) : (s.setQueue q x).mem = s.mem := rfl
@[simp] theorem setQueue_out (s : State) (q : Nat) (x : Queue) : (s.setQueue q x).out = s.out := rfl
@[simp] theorem setQueue_ioCyc (s : State) (q : Nat) (x : Queue) : (s.setQueue q x).ioCyc = s.ioCyc := rfl
@[simp] theorem queue_emit (s : State) (q : Nat) (o : Out) : (s.emit o).queue q = s.queue q := rfl

/-- The queue units' views and what has left the package: what a write of system memory by a service does not touch. -/
def viewsOut (s : State) : Tbl Queue × List Out := (s.queues, s.out)

theorem setBytes_viewsOut (s : State) (k : Nat) (l : List Byte) : viewsOut (s.setBytes k l) = viewsOut s := by
  induction l generalizing s k with
  | nil => rfl
  | cons b t ih => exact ih _ _

theorem dropCopies_viewsOut (s : State) (line : Nat) : viewsOut (s.dropCopies line) = viewsOut s := by
  unfold State.dropCopies
  simp only []
  split
  · rfl
  · exact foldl_same viewsOut (fun (s : State) c => s.send (.inv c line s.next)) (fun _ _ => rfl) _ s

theorem dirtySram_viewsOut (s : State) (line : Nat) : viewsOut (s.dirtySram line) = viewsOut s := by
  unfold State.dirtySram
  simp only []
  split <;> rfl

theorem setSysWord_viewsOut (s : State) (a : Nat) (v : DWord) : viewsOut (s.setSysWord a v) = viewsOut s := by
  unfold State.setSysWord
  simp only []
  split
  · rfl
  · rw [dirtySram_viewsOut, dropCopies_viewsOut, setBytes_viewsOut]; rfl

@[simp] theorem setSysWord_out (s : State) (a : Nat) (v : DWord) : (s.setSysWord a v).out = s.out :=
  congrArg Prod.snd (setSysWord_viewsOut s a v)

@[simp] theorem putCtl_queue (s : State) (q i : Nat) (v : DWord) : (s.putCtl q i v).queue q = (s.queue q).put i v :=
  queue_setQueue _ _ _

@[simp] theorem putCtl_out (s : State) (q i : Nat) (v : DWord) : (s.putCtl q i v).out = s.out := setSysWord_out s _ v

/-- A field of another control word than the one replaced. -/
theorem qf_put_ne (x : Queue) {i j : Nat} (v : DWord) (lo n : Nat) (h : i ≠ j) : qf (x.put i v) j lo n = qf x j lo n := by
  simp only [qf, Queue.put, List.getD_eq_getElem?_getD, List.getElem?_set_ne h]

theorem ctl_put_same (x : Queue) {i : Nat} (v : DWord) (h : i < x.ctl.length) : (x.put i v).ctl.getD i 0 = v := by
  simp [Queue.put, h]

theorem ctl_put_ne (x : Queue) {i j : Nat} (v : DWord) (h : i ≠ j) : (x.put i v).ctl.getD j 0 = x.ctl.getD j 0 := by
  simp only [Queue.put, List.getD_eq_getElem?_getD, List.getElem?_set_ne h]

/-! ### Errors (R84) -/

/-- Word 0x20 of a descriptor with ERR set and HALTED = 1. -/
def haltWord (w : DWord) (err : Nat) : DWord := setBits (setBits w 0 8 err) 8 1 1

theorem haltWord_err (w : DWord) {err : Nat} (h : err < 256) : bits (haltWord w err) 0 8 = err := by
  rw [haltWord, bits_setBits_below _ (by decide) (by decide), bits_setBits_same _ _ _ _ (by decide), Nat.mod_eq_of_lt (by simpa using h)]

theorem haltWord_halted (w : DWord) (err : Nat) : bits (haltWord w err) 8 1 = 1 :=
  bits_setBits_same _ _ _ _ (by decide)

/-- The view of a queue that an error has halted. -/
def haltedView (x : Queue) (err : Nat) (idx : DWord) : Queue :=
  { (x.put 4 (haltWord (x.ctl.getD 4 0) err)).put 5 idx with head := none, latched := [], readyAt := none, aged := 0, waitReq := [] }

/-- A halting error leaves the halted view. -/
theorem queueError_queue (s : State) (q err : Nat) (idx : DWord) :
    (s.queueError q err idx true).queue q = haltedView (s.queue q) err idx := by
  unfold State.queueError
  simp only [if_true]
  split <;> simp [haltedView, haltWord]

/-- A halting error of an enabled queue sends its interrupt. -/
theorem queueError_out (s : State) (q err : Nat) (idx : DWord) (h : qEn (s.queue q) = true) :
    (s.queueError q err idx true).out = s.out ++ [.msix (qVec (s.queue q))] := by
  have hqf (lo n : Nat) (v w : DWord) : qf (((s.queue q).put 4 v).put 5 w) 1 lo n = qf (s.queue q) 1 lo n := by
    rw [qf_put_ne _ _ _ _ (by decide), qf_put_ne _ _ _ _ (by decide)]
  have hen (v w : DWord) : qEn (((s.queue q).put 4 v).put 5 w) = true := by rw [qEn, hqf]; exact h
  unfold State.queueError
  simp [hen, qVec, hqf]

section
variable (x : Queue) (err : Nat) (idx : DWord)

theorem haltedView_head : (haltedView x err idx).head = none := rfl

theorem haltedView_word4 (h : x.ctl.length = 8) : (haltedView x err idx).ctl.getD 4 0 = haltWord (x.ctl.getD 4 0) err :=
  (ctl_put_ne _ _ (by decide)).trans (ctl_put_same _ _ (by omega))

theorem haltedView_err (h : x.ctl.length = 8) (he : err < 256) : qf (haltedView x err idx) 4 0 8 = err := by
  rw [qf, haltedView_word4 _ _ _ h, haltWord_err _ he]

theorem haltedView_halted (h : x.ctl.length = 8) : qHalted (haltedView x err idx) = true := by
  rw [qHalted, qf, haltedView_word4 _ _ _ h, haltWord_halted]; rfl

theorem haltedView_idx (h : x.ctl.length = 8) : (haltedView x err idx).ctl.getD 5 0 = idx :=
  ctl_put_same _ _ (by simp [Queue.put, h])

end

/-- What a reader finds after an error has halted an enabled queue (R84). -/
theorem queueError_reports (s : State) (q : Nat) {err : Nat} (idx : DWord) (hl : (s.queue q).ctl.length = 8)
    (hen : qEn (s.queue q) = true) (he : err < 256) :
    let t := s.queueError q err idx true
    qf (t.queue q) 4 0 8 = err ∧ qHalted (t.queue q) = true ∧ (t.queue q).ctl.getD 5 0 = idx ∧ (t.queue q).head = none ∧
      t.out = s.out ++ [.msix (qVec (s.queue q))] := by
  simp only [queueError_queue]
  exact ⟨haltedView_err _ _ _ hl he, haltedView_halted _ _ _ hl, haltedView_idx _ _ _ hl, haltedView_head _ _ _, queueError_out s q err idx hen⟩

/-! ### Becoming ready (R86) -/

/-- A head that is not ready yet, whose waits have all latched and whose SER condition is met. -/
def headDue (x : Queue) : Bool := x.head.isSome && x.readyAt.isNone && x.latched.all id && (!qSer x || x.last.isNone)

theorem tryReady_of_due {s : State} {q : Nat} (h : headDue (s.queue q) = true) : s.tryReady q =
    s.setQueue q { s.queue q with readyAt := some s.ioCyc, aged := 0, pdie := paramDie s ((s.queue q).head.getD []) } :=
  if_pos h

theorem tryReady_of_not_due {s : State} {q : Nat} (h : headDue (s.queue q) = false) : s.tryReady q = s :=
  if_neg (Bool.eq_false_iff.1 h)

/-- Trying again changes nothing. -/
theorem tryReady_tryReady (s : State) (q : Nat) : (s.tryReady q).tryReady q = s.tryReady q := by
  cases h : headDue (s.queue q) with
  | false => rw [tryReady_of_not_due h, tryReady_of_not_due h]
  | true => exact tryReady_of_not_due (by rw [tryReady_of_due h]; simp [headDue])

/-- Becoming ready changes neither the head nor its latches nor memory. -/
theorem tryReady_keeps (s : State) (q : Nat) : ((s.tryReady q).queue q).head = (s.queue q).head ∧
    ((s.tryReady q).queue q).latched = (s.queue q).latched ∧ (s.tryReady q).mem = s.mem := by
  cases h : headDue (s.queue q) with
  | false => rw [tryReady_of_not_due h]; exact ⟨rfl, rfl, rfl⟩
  | true => rw [tryReady_of_due h]; simp

/-- When a head that was not ready is ready after the try. -/
theorem tryReady_readyAt (s : State) (q : Nat) (h : (s.queue q).readyAt = none) :
    ((s.tryReady q).queue q).readyAt = if headDue (s.queue q) = true then some s.ioCyc else none := by
  cases hd : headDue (s.queue q) with
  | false => rw [tryReady_of_not_due hd, h]; rfl
  | true => rw [tryReady_of_due hd]; simp

/-! ### Waits (R86) -/

/-- A latch that is still to be set holds the head back. -/
theorem all_of_unlatched {l : List Bool} {i : Nat} (h : l.getD i true = false) : l.all id = false := by
  have hi : i < l.length := by
    by_contra hn
    rw [List.getD_eq_default l true (Nat.le_of_not_lt hn)] at h
    cases h
  rw [List.getD_eq_getElem l true hi] at h
  exact List.all_eq_false.2 ⟨l[i], List.getElem_mem hi, by simp [h]⟩

/-- The last latch set makes all of them set. -/
theorem all_set_true {l : List Bool} {i : Nat} (h : ∀ j, j < l.length → j ≠ i → l.getD j false = true) : (l.set i true).all id = true := by
  refine List.all_eq_true.2 fun b hb => ?_
  obtain ⟨j, hj, rfl⟩ := List.getElem_of_mem hb
  rw [List.length_set] at hj
  by_cases hij : i = j
  · simp [hij]
  · have hl := h j hj (Ne.symm hij)
    rw [List.getD_eq_getElem l false hj] at hl
    simp [List.getElem_set_ne hij, hl]

theorem evalWait_of_latched {s : State} {q i : Nat} (h : (s.queue q).latched.getD i true = true) : s.evalWait q i = s := by
  unfold State.evalWait
  simp only [h, if_true]
  split <;> rfl

/-- A view with wait i latched and the tokens of its word taken up. -/
def latchView (x : Queue) (i : Nat) (ts : List Token) : Queue := { x with latched := x.latched.set i true, toks := addToks x.toks ts }

section
variable {s : State} {q i k : Nat} {r : List DWord} {coh : BitVec 2} (hh : (s.queue q).head = some r)
  (hl : (s.queue q).latched.getD i true = false) (htr : svcTr s (rCtx r) (waitAddr r i) .read = .ok k coh)
  (hp : s.poisoned (lineOf k) = false) (hd : unitDown s k = false)
include hh hl htr hp hd

/-- A wait word that can be read latches its wait or leaves all as it is. -/
theorem evalWait_of_read : s.evalWait q i =
    if reached (BitVec.ofNat 32 (s.word k).toNat) (waitVal r i) = true
    then (s.setQueue q (latchView (s.queue q) i (wordToks s k))).tryReady q else s := by
  unfold State.evalWait
  simp only [hh, hl, htr, hp, hd, Bool.or_self, Bool.false_eq_true, if_false, latchView]

/-- The evaluation of a wait whose word has reached its value. -/
theorem execWaitWordEval_of_reached (hi : i < 4) (hr : reached (BitVec.ofNat 32 (s.word k).toNat) (waitVal r i) = true) :
    execWaitWordEval q i s = .next ((s.setQueue q (latchView (s.queue q) i (wordToks s k))).tryReady q) := by
  rw [execWaitWordEval, if_pos hi, evalWait_of_read hh hl htr hp hd, if_pos hr, tryReady_tryReady]

/-- The evaluation of a wait whose word has not reached its value. -/
theorem execWaitWordEval_of_not_reached (hr : ¬ reached (BitVec.ofNat 32 (s.word k).toNat) (waitVal r i) = true) :
    execWaitWordEval q i s = .next s := by
  have hdue : headDue (s.queue q) = false := by simp only [headDue, all_of_unlatched hl, Bool.and_false, Bool.false_and]
  rw [execWaitWordEval, evalWait_of_read hh hl htr hp hd, if_neg hr, tryReady_of_not_due hdue, ite_self]

end

/-- A poll evaluates the wait where its word lies in host or peer memory, and does nothing elsewhere. -/
theorem execWaitWordPoll_of_read {s : State} {q i k : Nat} {r : List DWord} {coh : BitVec 2} (hh : (s.queue q).head = some r)
    (htr : svcTr s (rCtx r) (waitAddr r i) .read = .ok k coh) :
    execWaitWordPoll q i s = if isHost k = true ∨ isPeer k = true then execWaitWordEval q i s else .next s := by
  unfold execWaitWordPoll execWaitWordEval
  simp only [hh, htr, Bool.and_eq_true, Bool.or_eq_true, decide_eq_true_eq]
  by_cases hi : i < 4 <;> by_cases ho : isHost k = true ∨ isPeer k = true <;> simp [hi, ho]

/-- A head whose wait i latches: the latch and memory, and the time of becoming ready where it was the last condition. -/
theorem latch_tryReady {s : State} {q i : Nat} (ts : List Token) (hh : (s.queue q).head.isSome = true) (hn : (s.queue q).readyAt = none) :
    let t := (s.setQueue q (latchView (s.queue q) i ts)).tryReady q
    (t.queue q).latched = (s.queue q).latched.set i true ∧ t.mem = s.mem ∧
      ((∀ j, j < (s.queue q).latched.length → j ≠ i → (s.queue q).latched.getD j false = true) →
        qSer (s.queue q) = false ∨ (s.queue q).last = none → (t.queue q).readyAt = some s.ioCyc) := by
  obtain ⟨-, hl, hm⟩ := tryReady_keeps (s.setQueue q (latchView (s.queue q) i ts)) q
  refine ⟨hl.trans (by simp [latchView]), hm, fun hall hser => ?_⟩
  have hdue : headDue (latchView (s.queue q) i ts) = true := by
    have hser' : (!qSer (latchView (s.queue q) i ts) || (latchView (s.queue q) i ts).last.isNone) = true := by
      rcases hser with h | h
      · exact Bool.or_eq_true_iff.2 (.inl (congrArg not h))
      · exact Bool.or_eq_true_iff.2 (.inr (congrArg Option.isNone h))
    rw [headDue, hser']
    simp only [latchView, hh, hn, all_set_true hall, Option.isNone_none, Bool.and_self]
  rw [tryReady_readyAt _ _ (by simpa [latchView] using hn), queue_setQueue, if_pos hdue]
  rfl

/-! ### Reading the head record (R83, R84) -/

/-- The view of a queue as a record becomes its head. -/
def headView (x : Queue) (r : List DWord) : Queue :=
  { x with head := some r, latched := (List.range 4).map fun i => waitAddr r i == 0, waitReq := [none, none, none, none] }

/-- Nothing keeps the queue unit from reading a record: the queue is in use, has no head and is not empty, and the context table is in use. -/
structure MayTake (s : State) (x : Queue) : Prop where
  on : queueOn s x = true
  noHead : x.head = none
  notEmpty : qCount x ≠ 0
  table : s.ctxtbase.getLsbD 0 = true
  whole : (s.ctx (qCtx x)).torn = false

theorem MayTake.enabled {s : State} {x : Queue} (h : MayTake s x) : qEn x = true := by
  have hon := h.on
  simp only [queueOn, Bool.and_eq_true] at hon
  exact hon.1.2

section
variable {s : State} {q : Nat} (ho : MayTake s (s.queue q))
include ho

theorem MayTake.guard : (!queueOn s (s.queue q) || (s.queue q).head.isSome || qCount (s.queue q) == 0 || !s.ctxtbase.getLsbD 0 ||
    (s.ctx (qCtx (s.queue q))).torn) = false := by
  simp [ho.on, ho.noHead, ho.notEmpty, ho.table, ho.whole]

/-- The queue's context is not valid. -/
theorem headRecordRead_of_invalid_ctx (hv : ctxValid s (qCtx (s.queue q)) = false)
    (hok : ∀ i, i < 8 → sysOk s (ctxEntryAddr s (qCtx (s.queue q)) + 8 * i) = true) :
    execHeadRecordRead q s = .next (s.queueError q 2 (qRidx (s.queue q)) true) := by
  have hall : ((List.range 8).all fun i => sysOk s (ctxEntryAddr s (qCtx (s.queue q)) + 8 * i)) = true :=
    List.all_eq_true.2 fun i hi => hok i (List.mem_range.1 hi)
  simp only [execHeadRecordRead, ho.guard, hv, hall, Bool.not_false, Bool.false_eq_true, if_true, if_false]

/-- The slot cannot be read. -/
theorem headRecordRead_of_unread_slot (hv : ctxValid s (qCtx (s.queue q)) = true)
    (hr : svcWords s (qCtx (s.queue q)) (slotAddr (s.queue q) (qRidx (s.queue q))) 32 = none) :
    execHeadRecordRead q s = .next (s.queueError q 3 (qRidx (s.queue q)) true) := by
  simp only [execHeadRecordRead, ho.guard, hv, hr, Bool.not_true, Bool.false_eq_true, if_false]

variable {r : List DWord} (hv : ctxValid s (qCtx (s.queue q)) = true)
  (hr : svcWords s (qCtx (s.queue q)) (slotAddr (s.queue q) (qRidx (s.queue q))) 32 = some r)
include hv hr

/-- The record fails a check of R31. -/
theorem headRecordRead_of_bad_record (hok : recordOk r = false) :
    execHeadRecordRead q s = .next (s.queueError q 1 (qRidx (s.queue q)) true) := by
  simp only [execHeadRecordRead, ho.guard, hv, hr, hok, Bool.not_false, Bool.not_true, Bool.false_eq_true, if_true, if_false]

/-- The record is of another context than its queue. -/
theorem headRecordRead_of_other_ctx (hok : recordOk r = true) (hc : rCtx r ≠ qCtx (s.queue q)) :
    execHeadRecordRead q s = .next (s.queueError q 2 (qRidx (s.queue q)) true) := by
  simp only [execHeadRecordRead, ho.guard, hv, hr, hok, bne_iff_ne.2 hc, Bool.not_true, Bool.false_eq_true, if_true, if_false]

/-- The record becomes the head; its waits are evaluated. -/
theorem headRecordRead_of_good_record (hok : recordOk r = true) (hc : rCtx r = qCtx (s.queue q)) : execHeadRecordRead q s =
    .next (((List.range 4).foldl (fun s i => s.evalWait q i) (s.setQueue q (headView (s.queue q) r))).tryReady q) := by
  simp only [execHeadRecordRead, ho.guard, hv, hr, hok, hc, headView, bne_self_eq_false, Bool.not_true, Bool.false_eq_true, if_false]

end

/-- A record without waits has all its latches set. -/
theorem headView_latched {x : Queue} {r : List DWord} (h : ∀ i, i < 4 → waitAddr r i = 0) :
    (headView x r).latched = [true, true, true, true] := by
  have hmap : ((List.range 4).map fun i => waitAddr r i == 0) = (List.range 4).map fun _ => true :=
    List.map_congr_left fun i hi => by rw [h i (List.mem_range.1 hi)]; rfl
  exact hmap

/-- The waits of a record that has none change nothing as they are evaluated. -/
theorem evalWaits_of_latched {s : State} {q : Nat} (h : (s.queue q).latched = [true, true, true, true]) (l : List Nat) :
    l.foldl (fun s i => s.evalWait q i) s = s := by
  have hget (i : Nat) : (s.queue q).latched.getD i true = true := by
    rw [h]; rcases i with _ | _ | _ | _ | i <;> rfl
  induction l with
  | nil => rfl
  | cons i t ih => rw [List.foldl_cons, evalWait_of_latched (hget i), ih]

theorem headDue_headView {x : Queue} {r : List DWord} (hw : ∀ i, i < 4 → waitAddr r i = 0) (hn : x.readyAt = none) :
    headDue (headView x r) = true ↔ qSer x = false ∨ x.last = none := by
  have hser : qSer (headView x r) = qSer x := rfl
  rw [headDue, headView_latched hw, hser]
  simp [headView, hn]

/-! ### Aging (R88) -/

theorem execPriorityAging_of_ready {s : State} {q t : Nat} (h : (s.queue q).readyAt = some t) :
    execPriorityAging q s = .next (s.setQueue q { s.queue q with aged := (s.ioCyc - t) / (4096 * 16) }) := by
  simp only [execPriorityAging, State.ageQueue, h, agingStep]

theorem execPriorityAging_of_not_ready {s : State} {q : Nat} (h : (s.queue q).readyAt = none) : execPriorityAging q s = .next s := by
  simp only [execPriorityAging, State.ageQueue, h]

/-! ### The parts of the statement -/

/-- A record that cannot become the head halts its queue, with the error R84 names. -/
theorem headRecordRead_reports {s : State} {q : Nat} {err : Nat} (ho : MayTake s (s.queue q)) (hl : (s.queue q).ctl.length = 8)
    (he : err < 256) (h : execHeadRecordRead q s = .next (s.queueError q err (qRidx (s.queue q)) true)) :
    ∃ t : State, exec (.headRecordRead q) s = .next t ∧ qf (t.queue q) 4 0 8 = err ∧ qHalted (t.queue q) = true ∧
      (t.queue q).ctl.getD 5 0 = qRidx (s.queue q) ∧ (t.queue q).head = none ∧ t.out = s.out ++ [.msix (qVec (s.queue q))] :=
  ⟨_, h, queueError_reports s q _ hl ho.enabled he⟩

/-- A record without waits becomes the head, ready at once where SER asks for nothing. -/
theorem headRecordRead_takes {s : State} {q : Nat} {r : List DWord} (ho : MayTake s (s.queue q))
    (hv : ctxValid s (qCtx (s.queue q)) = true)
    (hr : svcWords s (qCtx (s.queue q)) (slotAddr (s.queue q) (qRidx (s.queue q))) 32 = some r) (hok : recordOk r = true)
    (hc : rCtx r = qCtx (s.queue q)) (hw : ∀ i, i < 4 → waitAddr r i = 0) (hn : (s.queue q).readyAt = none) :
    ∃ t : State, exec (.headRecordRead q) s = .next t ∧ (t.queue q).head = some r ∧
      (t.queue q).latched = [true, true, true, true] ∧ t.mem = s.mem ∧
      (t.queue q).readyAt = if qSer (s.queue q) = false ∨ (s.queue q).last = none then some s.ioCyc else none := by
  have hlat : ((s.setQueue q (headView (s.queue q) r)).queue q).latched = [true, true, true, true] := by
    rw [queue_setQueue, headView_latched hw]
  have hex := headRecordRead_of_good_record ho hv hr hok hc
  rw [evalWaits_of_latched hlat] at hex
  obtain ⟨hhead, hkeep, hmem⟩ := tryReady_keeps (s.setQueue q (headView (s.queue q) r)) q
  refine ⟨_, hex, hhead.trans (by simp [headView]), hkeep.trans hlat, hmem, ?_⟩
  rw [tryReady_readyAt _ _ (by simpa [headView] using hn), queue_setQueue]
  simp only [headDue_headView hw hn]
  rfl

/-- Settles O51, clause by clause: reading the head, its waits, R30's test, and aging. -/
theorem headRecords : Obligations.HeadRecords := by
  unfold Obligations.HeadRecords
  intro s q
  refine ⟨?head, ?waits, reached_iff, fun t => execPriorityAging_of_ready, execPriorityAging_of_not_ready, Nat.min_le_left _ _, ?prio⟩
  case head =>
    intro ⟨hon, hhead, hcount, htable, htorn⟩ hl
    have ho : MayTake s (s.queue q) := ⟨hon, hhead, hcount, htable, htorn⟩
    refine ⟨fun hv hok => headRecordRead_reports ho hl (by decide) (headRecordRead_of_invalid_ctx ho hv hok),
      fun hv hr => headRecordRead_reports ho hl (by decide) (headRecordRead_of_unread_slot ho hv hr), fun r hv hr => ⟨?_, ?_, ?_⟩⟩
    · exact fun hok => headRecordRead_reports ho hl (by decide) (headRecordRead_of_bad_record ho hv hr hok)
    · exact fun hok hc => headRecordRead_reports ho hl (by decide) (headRecordRead_of_other_ctx ho hv hr hok hc)
    · exact headRecordRead_takes ho hv hr
  case waits =>
    intro i r k coh hi hh hl htr hp hd hn
    have hsome : (s.queue q).head.isSome = true := by rw [hh]; rfl
    have hpoll := execWaitWordPoll_of_read hh htr
    refine ⟨fun hr => ⟨_, execWaitWordEval_of_reached hh hl htr hp hd hi hr, latch_tryReady _ hsome hn⟩,
      fun hr hout => ⟨_, (hpoll.trans (if_pos hout)).trans (execWaitWordEval_of_reached hh hl htr hp hd hi hr),
        latch_tryReady _ hsome hn⟩, fun hr => ?_⟩
    have heval := execWaitWordEval_of_not_reached hh hl htr hp hd hr
    exact ⟨heval, hpoll.trans (by rw [heval, ite_self])⟩
  case prio =>
    intro r t hh _
    show effPrio (s.queue q) = _
    rw [effPrio, hh]; rfl

end Sys2Proof.Proofs
end

section
/-! PROOF. Opcodes that the opcode map leaves unassigned: no op is decoded from one, so its word is illegal (07 R136, R146). -/
namespace Sys2Proof.Proofs
open Sys2Proof Sys2Proof.Machine

/-! ### The opcode map (07 R146) -/

/-- The ranges of R146: the opcodes of no row of R145. -/
def Unassigned (n : Nat) : Prop :=
  n = 0x00 ∨ (0x0C ≤ n ∧ n ≤ 0x0F) ∨ (0x26 ≤ n ∧ n ≤ 0x2F) ∨ (0x58 ≤ n ∧ n ≤ 0x5F) ∨ (0x7C ≤ n ∧ n ≤ 0x8F) ∨
  (0x97 ≤ n ∧ n ≤ 0x9F) ∨ (0xB1 ≤ n ∧ n ≤ 0xBF) ∨ (0xCB ≤ n ∧ n ≤ 0xCF) ∨ (0xDD ≤ n ∧ n ≤ 0xDF) ∨
  (0xE4 ≤ n ∧ n ≤ 0xE7) ∨ n = 0xEF ∨ 0xF0 ≤ n

/-- An unassigned opcode names no instruction, whatever the other bits of the op and its extension: one evaluation of the map for each of the
opcodes of R146, which eight bits bound. -/
theorem decodeOpc_of_unassigned {n : Nat} (h : Unassigned n) (hn : n < 2 ^ 8) (w : Op46) (x : Ext) : decodeOpc n w x = none := by
  rcases h with rfl | ⟨_, _⟩ | ⟨_, _⟩ | ⟨_, _⟩ | ⟨_, _⟩ | ⟨_, _⟩ | ⟨_, _⟩ | ⟨_, _⟩ | ⟨_, _⟩ | ⟨_, _⟩ | rfl | _
  · rfl
  iterate 9 (interval_cases n <;> rfl)
  · rfl
  · interval_cases n <;> rfl

theorem decodeOp_of_unassigned {w : Op46} (h : Unassigned (opcOf w).toNat) (x : Ext) : decodeOp w x = none :=
  decodeOpc_of_unassigned h (opcOf w).isLt w x

/-! ### Words with a slot that names no op (07 R136) -/

theorem decodeSingle_of_undecoded {w : IWord} (h : ∀ x, decodeOp (slotA w) x = none) (env : WordEnv) :
    decodeSingle env w = .error .illegal := by
  simp only [decodeSingle, h]

theorem decodeDouble_of_undecoded {w : IWord} (h : decodeOp (slotA w) none = none ∨ decodeOp (slotB w) none = none)
    (env : WordEnv) (joint : Bool) : decodeDouble env w joint = .error .illegal := by
  unfold decodeDouble
  split
  case h_1 i j ha hb => simp [ha, hb] at h
  case h_2 => rfl

/-- Slot A holds an op in every form. -/
theorem decodeWord_of_undecoded_slotA {w : IWord} (h : ∀ x, decodeOp (slotA w) x = none) (env : WordEnv) :
    decodeWord env w = .error .illegal := by
  simp only [decodeWord, decodeSingle_of_undecoded h, decodeDouble_of_undecoded (.inl (h none)), ite_self]

/-- Slot B holds an op in the forms 01 and 10. -/
theorem decodeWord_of_undecoded_slotB {w : IWord} (hf : formOf w ≠ 0) (h : decodeOp (slotB w) none = none) (env : WordEnv) :
    decodeWord env w = .error .illegal := by
  simp only [decodeWord, beq_eq_false_iff_ne.2 hf, decodeDouble_of_undecoded (.inr h), Bool.false_eq_true, if_false, ite_self]

/-! ### The trap of a word that fails its checks (07 R151) -/

theorem exec_illegalWord_of_error {s : State} {w : IWord} {cause : Cause} (h : decodeWord (wordEnv s.me s.frag) w = .error cause) :
    exec (.illegalWord w) s = .next (((s.setFrag { s.frag with triedB := true }).raise cause 0).slotFailed none) := by
  change execIllegalWord w s = _
  simp only [execIllegalWord, h]
  rfl

/-- Settles O3: slot A is decoded in every form and slot B in the forms 01 and 10, and neither decodes from an unassigned opcode. -/
theorem unassignedOpcodes : Obligations.UnassignedOpcodes := by
  unfold Obligations.UnassignedOpcodes
  exact fun env w =>
    ⟨fun hA => decodeWord_of_undecoded_slotA (decodeOp_of_unassigned hA) env,
      fun hf hB => decodeWord_of_undecoded_slotB hf (decodeOp_of_unassigned hB none) env,
      fun _ herr => exec_illegalWord_of_error herr⟩

end Sys2Proof.Proofs
end

section
/-! PROOF. The scalar ops 0x10 to 0x1C: exact arithmetic on the values of a type, written back, is bit-vector arithmetic (09 R184, R185). -/
namespace Sys2Proof.Proofs
open Sys2Proof Sys2Proof.Machine Sys2Proof.Laws Sys2Proof.Safety

/-! ### Exact results modulo 2^w, at every width

Each law turns the exact result of R185 on the values of two patterns into the operation on the patterns. -/

theorem ofInt_toNat {w : Nat} (a : BitVec w) : BitVec.ofInt w a.toNat = a := by
  rw [BitVec.ofInt_natCast, BitVec.ofNat_toNat, BitVec.setWidth_eq]

theorem ofInt_sub {w : Nat} (x y : Int) : BitVec.ofInt w (x - y) = BitVec.ofInt w x - BitVec.ofInt w y := by
  rw [sub_eq_add_neg, BitVec.ofInt_add, BitVec.ofInt_neg, BitVec.sub_eq_add_neg]

theorem ofInt_mul_two_pow {w : Nat} (x : Int) (n : Nat) : BitVec.ofInt w (x * 2 ^ n) = BitVec.ofInt w x <<< n := by
  have htwo : BitVec.ofInt w (2 ^ n) = BitVec.twoPow w n := BitVec.eq_of_toNat_eq (by simp; norm_cast)
  rw [BitVec.ofInt_mul, htwo, BitVec.shiftLeft_eq_mul_twoPow]

/-- Bits from `w` up of an exact result are those of its quotient by 2^w. -/
theorem extract_ofInt (w n : Nat) (r : Int) : (BitVec.ofInt (w + n) r).extractLsb' w n = BitVec.ofInt n (r.fdiv (2 ^ w)) := by
  have hw : (0 : Int) < 2 ^ w := by positivity
  have hnn : 0 ≤ r % (2 : Int) ^ (w + n) := Int.emod_nonneg _ (by positivity)
  have hsplit : r % 2 ^ (w + n) / 2 ^ w = r / 2 ^ w % 2 ^ n := by
    rw [pow_add, Int.emod_def, Int.emod_def, Int.ediv_ediv_of_nonneg hw.le, mul_assoc, Int.sub_mul_ediv_left _ _ hw.ne']
  apply BitVec.eq_of_toNat_eq
  rw [BitVec.extractLsb'_toNat, BitVec.toNat_ofInt, BitVec.toNat_ofInt, Int.fdiv_eq_ediv_of_nonneg _ hw.le, Nat.shiftRight_eq_div_pow]
  zify
  rw [← hsplit, Int.toNat_of_nonneg hnn, Int.toNat_of_nonneg (Int.ediv_nonneg hnn hw.le), hsplit, Int.emod_emod]

theorem ofInt_mulh_signed {w : Nat} (a b : BitVec w) :
    BitVec.ofInt w ((a.toInt * b.toInt).fdiv (2 ^ w)) = (a.signExtend (w + w) * b.signExtend (w + w)).extractLsb' w w := by
  rw [BitVec.signExtend, BitVec.signExtend, ← BitVec.ofInt_mul, extract_ofInt]

theorem ofInt_mulh_unsigned {w : Nat} (a b : BitVec w) :
    BitVec.ofInt w (((a.toNat : Int) * b.toNat).fdiv (2 ^ w)) = (a.zeroExtend (w + w) * b.zeroExtend (w + w)).extractLsb' w w := by
  have hext (v : BitVec w) : v.zeroExtend (w + w) = BitVec.ofInt (w + w) v.toNat := by rw [BitVec.ofInt_natCast, BitVec.ofNat_toNat]
  rw [hext, hext, ← BitVec.ofInt_mul, extract_ofInt]

theorem toInt_eq_zero_iff {w : Nat} (b : BitVec w) : b.toInt = 0 ↔ b = 0 :=
  ⟨fun h => BitVec.eq_of_toInt_eq (h.trans BitVec.toInt_zero.symm), fun h => h ▸ BitVec.toInt_zero⟩

theorem natCast_toNat_eq_zero_iff {w : Nat} (b : BitVec w) : (b.toNat : Int) = 0 ↔ b = 0 := by
  rw [Int.natCast_eq_zero, BitVec.toNat_eq]; rfl

/-- The quotient that leaves the range, -2^(w-1) / -1, wraps in both. -/
theorem ofInt_tdiv {w : Nat} (a b : BitVec w) : BitVec.ofInt w (a.toInt.tdiv b.toInt) = a.sdiv b :=
  BitVec.eq_of_toInt_eq (by rw [BitVec.toInt_ofInt, BitVec.toInt_sdiv])

theorem ofInt_div_signed {w : Nat} (a b : BitVec w) :
    BitVec.ofInt w (if b.toInt = 0 then -1 else a.toInt.tdiv b.toInt) = if b = 0 then BitVec.ofInt w (-1) else a.sdiv b := by
  simp only [toInt_eq_zero_iff, apply_ite (BitVec.ofInt w), ofInt_tdiv]

theorem ofInt_div_unsigned {w : Nat} (a b : BitVec w) :
    BitVec.ofInt w (if (b.toNat : Int) = 0 then -1 else (a.toNat : Int).tdiv b.toNat) =
      if b = 0 then BitVec.ofInt w (-1) else a / b := by
  simp only [natCast_toNat_eq_zero_iff, apply_ite (BitVec.ofInt w), ← Int.ofNat_tdiv, ← BitVec.toNat_udiv, ofInt_toNat]

/-- With the dividend for a zero divisor, as R185 has it, the remainder is `Int.tmod`. -/
theorem rem_eq_tmod (x y : Int) : (if y = 0 then x else x - y * x.tdiv y) = x.tmod y := by
  rw [Int.tmod_def]
  split
  case isTrue h => rw [h, Int.zero_mul, Int.sub_zero]
  case isFalse => rfl

theorem ofInt_rem_signed {w : Nat} (a b : BitVec w) :
    BitVec.ofInt w (if b.toInt = 0 then a.toInt else a.toInt - b.toInt * a.toInt.tdiv b.toInt) = a.srem b := by
  rw [rem_eq_tmod, ← BitVec.toInt_srem, BitVec.ofInt_toInt]

theorem ofInt_rem_unsigned {w : Nat} (a b : BitVec w) :
    BitVec.ofInt w (if (b.toNat : Int) = 0 then (a.toNat : Int) else a.toNat - b.toNat * (a.toNat : Int).tdiv b.toNat) = a % b := by
  rw [rem_eq_tmod, ← Int.ofNat_tmod, ← BitVec.toNat_umod, ofInt_toNat]

theorem ofInt_shr_signed {w : Nat} (a : BitVec w) (n : Nat) : BitVec.ofInt w (a.toInt.fdiv (2 ^ n)) = a.sshiftRight n := by
  rw [BitVec.sshiftRight_eq, Int.shiftRight_eq_div_pow, Int.fdiv_eq_ediv_of_nonneg _ (by positivity)]
  push_cast; rfl

theorem ofInt_shr_unsigned {w : Nat} (a : BitVec w) (n : Nat) : BitVec.ofInt w ((a.toNat : Int).fdiv (2 ^ n)) = a >>> n := by
  have hval : (a.toNat : Int).fdiv (2 ^ n) = ((a >>> n).toNat : Int) := by
    rw [Int.fdiv_eq_ediv_of_nonneg _ (by positivity), BitVec.toNat_ushiftRight, Nat.shiftRight_eq_div_pow]
    norm_cast
  rw [hval, ofInt_toNat]

theorem ofInt_min_signed {w : Nat} (a b : BitVec w) : BitVec.ofInt w (min a.toInt b.toInt) = if a.slt b then a else b := by
  simp only [min_def_lt, apply_ite (BitVec.ofInt w), BitVec.ofInt_toInt, BitVec.slt_iff_toInt_lt]

theorem ofInt_max_signed {w : Nat} (a b : BitVec w) : BitVec.ofInt w (max a.toInt b.toInt) = if a.slt b then b else a := by
  simp only [max_def_lt, apply_ite (BitVec.ofInt w), BitVec.ofInt_toInt, BitVec.slt_iff_toInt_lt]

theorem ofInt_min_unsigned {w : Nat} (a b : BitVec w) : BitVec.ofInt w (min (a.toNat : Int) b.toNat) = if a < b then a else b := by
  simp only [min_def_lt, apply_ite (BitVec.ofInt w), ofInt_toNat, BitVec.lt_def, Int.ofNat_lt]

theorem ofInt_max_unsigned {w : Nat} (a b : BitVec w) : BitVec.ofInt w (max (a.toNat : Int) b.toNat) = if a < b then b else a := by
  simp only [max_def_lt, apply_ite (BitVec.ofInt w), ofInt_toNat, BitVec.lt_def, Int.ofNat_lt]

/-! ### The four scalar types (R184) -/

/-- A scalar type of width `w`: `low` cuts a register to its pattern, `val` reads the pattern, `ext` extends a result to the register. -/
structure IsScalarTy (ty : BitVec 3) (w : Nat) (low : DWord → BitVec w) (val : BitVec w → Int) (ext : BitVec w → DWord) : Prop where
  width : (intTy ty).w = w
  dvd : w ∣ 2 ^ w
  low_toNat (v : DWord) : (low v).toNat = v.toNat % 2 ^ w
  sVal_eq (v : DWord) : sVal ty v = val (low v)
  sFit_eq (r : Int) : sFit ty false r = ext (BitVec.ofInt w r)
  ofInt_val (a : BitVec w) : BitVec.ofInt w (val a) = a

/-- A register's bits 31:0. -/
def low32 (v : DWord) : Word := v.extractLsb' 0 32
/-- A 32-bit result extended by its type: by its sign for i32, by zeros for n32. -/
def ext32 (ty : BitVec 3) (v : Word) : DWord := if ty = 0 then v.signExtend 64 else v.zeroExtend 64

theorem low32_toNat (v : DWord) : (low32 v).toNat = v.toNat % 2 ^ 32 := by
  rw [low32, BitVec.extractLsb'_toNat, Nat.shiftRight_zero]

theorem isScalarTy_i64 {ty : BitVec 3} (h : ty = 6) : IsScalarTy ty 64 id BitVec.toInt id := by
  subst h
  exact ⟨rfl, by norm_num, fun v => (Nat.mod_eq_of_lt v.isLt).symm, sVal_i64, sFit_i64, fun _ => BitVec.ofInt_toInt⟩

theorem isScalarTy_n64 {ty : BitVec 3} (h : ty = 7) : IsScalarTy ty 64 id (fun a => a.toNat) id := by
  subst h
  exact ⟨rfl, by norm_num, fun v => (Nat.mod_eq_of_lt v.isLt).symm, sVal_n64, sFit_n64, ofInt_toNat⟩

theorem isScalarTy_i32 {ty : BitVec 3} (h : ty = 0) : IsScalarTy ty 32 low32 BitVec.toInt (ext32 ty) := by
  subst h
  exact ⟨rfl, by norm_num, low32_toNat, sVal_i32, sFit_i32, fun _ => BitVec.ofInt_toInt⟩

theorem isScalarTy_n32 {ty : BitVec 3} (h : ty = 1) : IsScalarTy ty 32 low32 (fun a => a.toNat) (ext32 ty) := by
  subst h
  exact ⟨rfl, by norm_num, low32_toNat, sVal_n32, sFit_n32, ofInt_toNat⟩

/-- A pattern that fits its type is the fitted result of its own number. -/
theorem sExt_eq_sFit (ty : BitVec 3) (p : Nat) : sExt ty p = sFit ty false p := by
  have hfit : fitTy (intTy ty) false p = p % 2 ^ (intTy ty).w := by simp only [fitTy]; norm_cast
  simp only [sFit, sExt, tyVal, hfit, Nat.mod_mod]

/-! ### The ops without SAT (R185) -/

/-- The op, where nothing but itself decides its outcome, completes with `v` written to sD. -/
def Writes (i : Instr) (o : G3) (s : State) (v : DWord) : Prop :=
  opFree i s = true → exec i s = .next (s.setS o.vd.toNat v).slotDone

section
variable {o : G3} {s : State} {w : Nat} {low : DWord → BitVec w} {val : BitVec w → Int} {ext : BitVec w → DWord}
  (T : IsScalarTy o.ty w low val ext)
include T

theorem IsScalarTy.scalarBits_eq {i : Instr} (hfree : opFree i s = true) (f : Nat → Nat → Nat) (r : BitVec w)
    (hr : BitVec.ofNat w (f (low (sreg s.me o.va)).toNat (low (sreg s.me o.vb)).toNat) = r) :
    scalarBits i o s f = .next (s.setS o.vd.toNat (ext r)).slotDone := by
  rw [scalarBits, T.width, ← T.low_toNat, ← T.low_toNat, sExt_eq_sFit, T.sFit_eq, BitVec.ofInt_natCast, hr]
  exact op_done hfree _

theorem IsScalarTy.sCount_eq : sCount o s = (low (sreg s.me o.vb)).toNat % w := by
  rw [sCount, T.width, T.low_toNat, Nat.mod_mod_of_dvd _ T.dvd]

variable (hsat : satOf o.mod = false)
include hsat

theorem IsScalarTy.scalar3_eq {i : Instr} (hfree : opFree i s = true) (f : Int → Int → Int) (r : BitVec w)
    (hr : BitVec.ofInt w (f (val (low (sreg s.me o.va))) (val (low (sreg s.me o.vb)))) = r) :
    scalar3 i o s f = .next (s.setS o.vd.toNat (ext r)).slotDone := by
  rw [scalar3, hsat, T.sVal_eq, T.sVal_eq, T.sFit_eq, hr]
  exact op_done hfree _

/-- The ops whose result does not depend on the type's sign. -/
theorem IsScalarTy.sign_free_ops :
    let a := low (sreg s.me o.va)
    let b := low (sreg s.me o.vb)
    Writes (.sadd o) o s (ext (a + b)) ∧ Writes (.ssub o) o s (ext (a - b)) ∧ Writes (.smul o) o s (ext (a * b)) ∧
    Writes (.sand o) o s (ext (a &&& b)) ∧ Writes (.sor o) o s (ext (a ||| b)) ∧ Writes (.sxor o) o s (ext (a ^^^ b)) ∧
    Writes (.sshl o) o s (ext (a <<< (b.toNat % w))) := by
  intro a b
  refine ⟨fun h => T.scalar3_eq hsat h _ _ ?add, fun h => T.scalar3_eq hsat h _ _ ?sub, fun h => T.scalar3_eq hsat h _ _ ?mul,
    fun h => T.scalarBits_eq h _ _ ?and, fun h => T.scalarBits_eq h _ _ ?or, fun h => T.scalarBits_eq h _ _ ?xor,
    fun h => T.scalar3_eq hsat h (fun x _ => x * 2 ^ sCount o s) _ ?shl⟩
  case add => rw [BitVec.ofInt_add, T.ofInt_val, T.ofInt_val]
  case sub => rw [ofInt_sub, T.ofInt_val, T.ofInt_val]
  case mul => rw [BitVec.ofInt_mul, T.ofInt_val, T.ofInt_val]
  case and => rw [← BitVec.toNat_and, BitVec.ofNat_toNat, BitVec.setWidth_eq]
  case or => rw [← BitVec.toNat_or, BitVec.ofNat_toNat, BitVec.setWidth_eq]
  case xor => rw [← BitVec.toNat_xor, BitVec.ofNat_toNat, BitVec.setWidth_eq]
  case shl => rw [T.sCount_eq, ofInt_mul_two_pow, T.ofInt_val]

end

section
variable {o : G3} {s : State} {w : Nat} {low : DWord → BitVec w} {ext : BitVec w → DWord} (hsat : satOf o.mod = false)
include hsat

/-- The other ops, for a signed type. -/
theorem IsScalarTy.signed_ops (T : IsScalarTy o.ty w low BitVec.toInt ext) :
    let a := low (sreg s.me o.va)
    let b := low (sreg s.me o.vb)
    Writes (.smulh o) o s (ext ((a.signExtend (w + w) * b.signExtend (w + w)).extractLsb' w w)) ∧
    Writes (.sdiv o) o s (ext (if b = 0 then BitVec.ofInt w (-1) else a.sdiv b)) ∧
    Writes (.srem o) o s (ext (a.srem b)) ∧
    Writes (.sshr o) o s (ext (a.sshiftRight (b.toNat % w))) ∧
    Writes (.smin o) o s (ext (if a.slt b then a else b)) ∧
    Writes (.smax o) o s (ext (if a.slt b then b else a)) :=
  ⟨fun h => T.scalar3_eq hsat h (fun x y => Int.fdiv (x * y) (2 ^ (intTy o.ty).w)) _ (by rw [T.width, ofInt_mulh_signed]),
    fun h => T.scalar3_eq hsat h (fun x y => if y = 0 then -1 else x.tdiv y) _ (ofInt_div_signed _ _),
    fun h => T.scalar3_eq hsat h (fun x y => if y = 0 then x else x - y * x.tdiv y) _ (ofInt_rem_signed _ _),
    fun h => T.scalar3_eq hsat h (fun x _ => Int.fdiv x (2 ^ sCount o s)) _ (by rw [T.sCount_eq, ofInt_shr_signed]),
    fun h => T.scalar3_eq hsat h _ _ (ofInt_min_signed _ _), fun h => T.scalar3_eq hsat h _ _ (ofInt_max_signed _ _)⟩

/-- The other ops, for an unsigned type. -/
theorem IsScalarTy.unsigned_ops (T : IsScalarTy o.ty w low (fun a => a.toNat) ext) :
    let a := low (sreg s.me o.va)
    let b := low (sreg s.me o.vb)
    Writes (.smulh o) o s (ext ((a.zeroExtend (w + w) * b.zeroExtend (w + w)).extractLsb' w w)) ∧
    Writes (.sdiv o) o s (ext (if b = 0 then BitVec.ofInt w (-1) else a / b)) ∧
    Writes (.srem o) o s (ext (a % b)) ∧
    Writes (.sshr o) o s (ext (a >>> (b.toNat % w))) ∧
    Writes (.smin o) o s (ext (if a < b then a else b)) ∧
    Writes (.smax o) o s (ext (if a < b then b else a)) :=
  ⟨fun h => T.scalar3_eq hsat h (fun x y => Int.fdiv (x * y) (2 ^ (intTy o.ty).w)) _ (by rw [T.width, ofInt_mulh_unsigned]),
    fun h => T.scalar3_eq hsat h (fun x y => if y = 0 then -1 else x.tdiv y) _ (ofInt_div_unsigned _ _),
    fun h => T.scalar3_eq hsat h (fun x y => if y = 0 then x else x - y * x.tdiv y) _ (ofInt_rem_unsigned _ _),
    fun h => T.scalar3_eq hsat h (fun x _ => Int.fdiv x (2 ^ sCount o s)) _ (by rw [T.sCount_eq, ofInt_shr_unsigned]),
    fun h => T.scalar3_eq hsat h _ _ (ofInt_min_unsigned _ _), fun h => T.scalar3_eq hsat h _ _ (ofInt_max_unsigned _ _)⟩

end

/-! ### SAT (R185) -/

/-- The nearest number of a range. -/
def clampTo (lo hi r : Int) : Int := if r < lo then lo else if hi < r then hi else r

theorem clampTo_eq {lo hi : Int} (h : lo ≤ hi) (r : Int) : max lo (min hi r) = clampTo lo hi r := by
  unfold clampTo
  split_ifs <;> omega

/-- A value within its type's range is read back as it was written. -/
theorem tyVal_fit_of_range {t : IntTy} (hw : 0 < t.w) {r : Int} (hlo : tyMin t ≤ r) (hhi : r ≤ tyMax t) :
    tyVal t (fitTy t false r) = r := by
  obtain ⟨w, _ | _⟩ := t
  case false =>
    have hlt : r < 2 ^ w := Int.lt_of_le_sub_one hhi
    rw [tyVal_fit_unsigned, BitVec.toNat_ofInt]
    push_cast
    rw [Int.emod_eq_of_lt hlo hlt, Int.toNat_of_nonneg hlo]
  case true =>
    have hlt : r < 2 ^ (w - 1) := Int.lt_of_le_sub_one hhi
    rw [tyVal_fit_signed, BitVec.toInt_ofInt_eq_self hw hlo hlt]

theorem tyMin_le_tyMax (t : IntTy) : tyMin t ≤ tyMax t := by
  have hpos (n : Nat) : (0 : Int) < 2 ^ n := by positivity
  obtain ⟨w, _ | _⟩ := t
  case false => exact Int.le_sub_one_of_lt (hpos w)
  case true => exact Int.le_sub_one_of_lt ((neg_lt_zero.2 (hpos (w - 1))).trans (hpos (w - 1)))

theorem sFit_sat {ty : BitVec 3} (hw : 0 < (intTy ty).w) (r : Int) :
    sFit ty true r = BitVec.ofInt 64 (clampTo (tyMin (intTy ty)) (tyMax (intTy ty)) r) := by
  have hle := tyMin_le_tyMax (intTy ty)
  show BitVec.ofInt 64 (tyVal (intTy ty) (fitTy (intTy ty) false (max (tyMin (intTy ty)) (min (tyMax (intTy ty)) r)))) = _
  rw [tyVal_fit_of_range hw (le_max_left _ _) (max_le hle (min_le_left _ _)), clampTo_eq hle]

section
variable {o : G3} (s : State) {ty : BitVec 3} {lo hi : Int} (val : DWord → Int) (hsat : satOf o.mod = true) (hty : o.ty = ty)
  (hw : 0 < (intTy ty).w) (hval : ∀ v, sVal ty v = val v) (hlo : tyMin (intTy ty) = lo) (hhi : tyMax (intTy ty) = hi)
include hsat hty hw hval hlo hhi

theorem scalar3_sat {i : Instr} (hfree : opFree i s = true) (f : Int → Int → Int) : scalar3 i o s f =
    .next (s.setS o.vd.toNat (BitVec.ofInt 64 (clampTo lo hi (f (val (sreg s.me o.va)) (val (sreg s.me o.vb)))))).slotDone := by
  rw [scalar3, hsat, hty, hval, hval, sFit_sat hw, hlo, hhi]
  exact op_done hfree _

theorem saturating_ops :
    let a := val (sreg s.me o.va)
    let b := val (sreg s.me o.vb)
    Writes (.sadd o) o s (BitVec.ofInt 64 (clampTo lo hi (a + b))) ∧
    Writes (.ssub o) o s (BitVec.ofInt 64 (clampTo lo hi (a - b))) ∧
    Writes (.smul o) o s (BitVec.ofInt 64 (clampTo lo hi (a * b))) := by
  have hclamp {i : Instr} (hfree : opFree i s = true) := scalar3_sat s val hsat hty hw hval hlo hhi hfree
  exact ⟨fun hfree => hclamp hfree _, fun hfree => hclamp hfree _, fun hfree => hclamp hfree _⟩

end

/-- Settles O6: a type's arithmetic is that of bit vectors of its width, its SAT results are clamped to its range. -/
theorem scalarArithmetic : Obligations.ScalarArithmetic := by
  unfold Obligations.ScalarArithmetic
  refine ⟨fun o s hsat => ⟨fun hty => ?both64, fun hty => ?i64, fun hty => ?n64⟩,
    fun o s hsat hty => ?bits32, fun o s hsat => ⟨fun hty => ?sat_i64, fun hty => ?sat_n64, fun hty => ?sat_i32, fun hty => ?sat_n32⟩⟩
  case both64 =>
    rcases hty with hty | hty
    · exact (isScalarTy_i64 hty).sign_free_ops hsat
    · exact (isScalarTy_n64 hty).sign_free_ops hsat
  case i64 =>
    obtain ⟨hmulh, hdiv, hrem, hshr, hmin, hmax⟩ := (isScalarTy_i64 hty).signed_ops (s := s) hsat
    exact ⟨hmulh, hdiv, hrem, hshr, hmin, hmax⟩
  case n64 =>
    obtain ⟨hmulh, hdiv, hrem, hshr, hmin, hmax⟩ := (isScalarTy_n64 hty).unsigned_ops (s := s) hsat
    exact ⟨hmulh, hdiv, hrem, hshr, hmin, hmax⟩
  case bits32 =>
    obtain ⟨hadd, hsub, hmul, hand, hor, hxor, hshl⟩ := hty.elim (fun h => (isScalarTy_i32 h).sign_free_ops (s := s) hsat)
      fun h => (isScalarTy_n32 h).sign_free_ops hsat
    refine ⟨hadd, hsub, hmul, hand, hor, hxor, hshl, fun h => ?_, fun h => ?_⟩
    · obtain ⟨hmulh, hdiv, hrem, hshr, hmin, hmax⟩ := (isScalarTy_i32 h).signed_ops (s := s) hsat
      exact ⟨hmulh, hdiv, hrem, hshr, hmin, hmax⟩
    · obtain ⟨hmulh, hdiv, hrem, hshr, hmin, hmax⟩ := (isScalarTy_n32 h).unsigned_ops (s := s) hsat
      exact ⟨hmulh, hdiv, hrem, hshr, hmin, hmax⟩
  case sat_i64 => exact saturating_ops s (fun v => v.toInt) hsat hty (by decide) sVal_i64 rfl rfl
  case sat_n64 => exact saturating_ops s (fun v => v.toNat) hsat hty (by decide) sVal_n64 rfl rfl
  case sat_i32 => exact saturating_ops s (fun v => (v.extractLsb' 0 32).toInt) hsat hty (by decide) sVal_i32 rfl rfl
  case sat_n32 => exact saturating_ops s (fun v => (v.extractLsb' 0 32).toNat) hsat hty (by decide) sVal_n32 rfl rfl

end Sys2Proof.Proofs
end

section
/-! PROOF. The control ops: where a transfer goes, what `bv` does with the lanes of its fragment, and what a split makes of the split table
(08 R161, R162, 09 R194-R202). -/
namespace Sys2Proof.Proofs
open Sys2Proof Sys2Proof.Machine Sys2Proof.Laws Sys2Proof.Safety

/-! ### Transfers (09 R194-R199) -/

section
variable {i : Instr} {s s' : State} {hdr : DWord} {d : Dest} (hfree : opFree i s = true)
  (hd : destination s (joinHeader s.me s.frag) hdr = .ok (d, s'))
include hfree hd

theorem op_goTo (k : State → State) : op i s (goTo s hdr k) = .next ((k s').owe (.go d)).slotDone := by
  rw [goTo, hd]
  exact op_done hfree _

theorem op_goIndirect (halign : hdr.toNat % 8 = 0) : op i s (goIndirect s hdr) = .next (s'.owe (.go d)).slotDone := by
  rw [goIndirect, halign]
  exact op_goTo hfree hd id

end

/-- The condition of `bc` on a signed value holds (07 R141, 09 R196). -/
def BranchTaken (cc : BitVec 3) (v : Int) : Prop :=
  (cc = 0 ∧ v = 0) ∨ (cc = 1 ∧ v ≠ 0) ∨ (cc = 2 ∧ v < 0) ∨ (cc = 3 ∧ 0 ≤ v) ∨ (cc = 4 ∧ 0 < v) ∨ (cc = 5 ∧ v ≤ 0)

theorem BranchTaken.code_le {cc : BitVec 3} {v : Int} (h : BranchTaken cc v) : cc.toNat ≤ 5 := by
  rcases h with ⟨rfl, _⟩ | ⟨rfl, _⟩ | ⟨rfl, _⟩ | ⟨rfl, _⟩ | ⟨rfl, _⟩ | ⟨rfl, _⟩ <;> decide

/-- The codes of R141 are 0 to 5; the decoder admits no other. -/
theorem ccHolds_iff {cc : BitVec 3} (h : cc.toNat ≤ 5) (v : Int) : ccHolds cc v = true ↔ BranchTaken cc v := by
  have hcode : cc = 0 ∨ cc = 1 ∨ cc = 2 ∨ cc = 3 ∨ cc = 4 ∨ cc = 5 := by
    revert cc
    decide
  rcases hcode with rfl | rfl | rfl | rfl | rfl | rfl <;> simp [ccHolds, BranchTaken]

section
variable {o : C} {s : State}

theorem exec_bc_taken (hfree : opFree (.bc o) s = true) (h : BranchTaken o.cc (srd s.me o.sa.toNat).toInt) {d : Dest} {s' : State}
    (hd : destination s (joinHeader s.me s.frag) (target s o.tgt) = .ok (d, s')) :
    exec (.bc o) s = .next (s'.owe (.go d)).slotDone :=
  (congrArg (op (.bc o) s) (if_pos ((ccHolds_iff h.code_le _).2 h))).trans (op_goTo hfree hd id)

theorem exec_bc_not_taken (hfree : opFree (.bc o) s = true) (h : ¬ BranchTaken o.cc (srd s.me o.sa.toNat).toInt)
    (hcc : o.cc.toNat ≤ 5) : exec (.bc o) s = .next s.slotDone :=
  (congrArg (op (.bc o) s) (if_neg (mt (ccHolds_iff hcc _).1 h))).trans (op_done hfree s)

theorem exec_loop_goes_on (hfree : opFree (.loop o) s = true) (h : srd s.me o.sa.toNat - 1 ≠ 0) {d : Dest} {s' : State}
    (hd : destination s (joinHeader s.me s.frag) (target s o.tgt) = .ok (d, s')) :
    exec (.loop o) s = .next ((s'.setS o.sa.toNat (srd s.me o.sa.toNat - 1)).owe (.go d)).slotDone :=
  (congrArg (op (.loop o) s) (if_pos (bne_iff_ne.2 h))).trans (op_goTo hfree hd _)

theorem exec_loop_ends (hfree : opFree (.loop o) s = true) (h : srd s.me o.sa.toNat - 1 = 0) :
    exec (.loop o) s = .next (s.setS o.sa.toNat 0).slotDone := by
  refine (congrArg (op (.loop o) s) (if_neg (mt bne_iff_ne.1 (not_not_intro h)))).trans ?_
  rw [h]
  exact op_done hfree _

/-! ### End of a fragment, yield (09 R200, R201) -/

theorem exec_exit_of_quiet (hfree : opFree (.exit o) s = true) (h : lanesBusy s.me s.frag.mask = false) :
    exec (.exit o) s = .next (s.owe .exit).slotDone := by
  change op (.exit o) s (if lanesBusy s.me s.frag.mask then .hold ⟨none, none, true⟩ s else .done (s.owe .exit)) = _
  rw [h]
  exact op_done hfree _

theorem exec_exit_of_busy (hfree : opFree (.exit o) s = true) (h : lanesBusy s.me s.frag.mask = true) :
    exec (.exit o) s = .next (settle (.hold ⟨none, none, true⟩ s)) := by
  change op (.exit o) s (if lanesBusy s.me s.frag.mask then .hold ⟨none, none, true⟩ s else .done (s.owe .exit)) = _
  rw [h]
  exact op_free hfree _

theorem exec_yield (hfree : opFree (.yield o) s = true) :
    let n := min (srd s.me o.sa.toNat).toNat 65535
    exec (.yield o) s = .next (s.setMe { s.me with
      age := 0, waits := s.me.waits ++ if n = 0 then [] else [.yield (s.cycOf (dieOf s.cur.cid) + n)] }).slotDone := by
  intro n
  have hwaits (m : Nat) : (if n == 0 then s.me.waits else s.me.waits ++ [.yield m]) =
      s.me.waits ++ if n = 0 then [] else [.yield m] := by
    by_cases h : n = 0 <;> simp [h]
  rw [← hwaits]
  exact op_done hfree _

/-! ### Branches on lanes (08 R161, 09 R197) -/

/-- The lanes of the fragment in which the predicate of a `bv` is true. -/
def trueLanes (o : C) (s : State) : List Nat := s.fragLanes.filter fun l => prd s.me o.g.pg.toNat l != o.g.pn

theorem trueLanes_length_eq_iff : (trueLanes o s).length = s.fragLanes.length ↔ trueLanes o s = s.fragLanes :=
  List.length_filter_eq_length_iff.trans List.filter_eq_self.symm

theorem exec_bv_eq : exec (.bv o) s = op (.bv o) s
    (if (trueLanes o s).isEmpty then .done s
     else if (trueLanes o s).length == s.fragLanes.length then goTo s (target s o.tgt) id
     else if o.u then .trap .uniform (maskOf (trueLanes o s)) s
     else bvSplit s (maskOf (trueLanes o s)) (target s o.tgt)) := rfl

theorem exec_bv_of_none (hfree : opFree (.bv o) s = true) (h : trueLanes o s = []) : exec (.bv o) s = .next s.slotDone := by
  rw [exec_bv_eq, h]
  exact op_done hfree s

theorem exec_bv_of_all (hfree : opFree (.bv o) s = true) (hsome : trueLanes o s ≠ []) (hall : trueLanes o s = s.fragLanes)
    {d : Dest} {s' : State} (hd : destination s (joinHeader s.me s.frag) (target s o.tgt) = .ok (d, s')) :
    exec (.bv o) s = .next (s'.owe (.go d)).slotDone := by
  rw [exec_bv_eq, if_neg (mt List.isEmpty_iff.1 hsome), if_pos (beq_iff_eq.2 (trueLanes_length_eq_iff.2 hall))]
  exact op_goTo hfree hd id

section
variable (hsome : trueLanes o s ≠ []) (hmixed : trueLanes o s ≠ s.fragLanes)
include hsome hmixed

theorem exec_bv_of_mixed : exec (.bv o) s = op (.bv o) s
    (if o.u then .trap .uniform (maskOf (trueLanes o s)) s else bvSplit s (maskOf (trueLanes o s)) (target s o.tgt)) := by
  rw [exec_bv_eq, if_neg (mt List.isEmpty_iff.1 hsome), if_neg (mt (trueLanes_length_eq_iff.1 ∘ beq_iff_eq.1) hmixed)]

theorem exec_bv_uniform (hfree : opFree (.bv o) s = true) (hu : o.u = true) :
    exec (.bv o) s = .next ((s.raise .uniform (maskOf (trueLanes o s))).slotFailed none) := by
  rw [exec_bv_of_mixed hsome hmixed, if_pos hu]
  exact op_free hfree _

theorem exec_bv_split (hfree : opFree (.bv o) s = true) (hu : o.u = false) {r : Res}
    (hr : bvSplit s (maskOf (trueLanes o s)) (target s o.tgt) = r) : exec (.bv o) s = .next (settle r) := by
  rw [exec_bv_of_mixed hsome hmixed, hu, if_neg Bool.false_ne_true, hr]
  exact op_free hfree r

end

/-- The entries of the split table after a split (08 R162). -/
def splitSize (s : State) : Nat := s.me.ents.length + if (reconOf s.frag.hdr s.frag.header).isSome then 2 else 1

/-- The join header of the fragments a split makes: the block's own, else the one the fragment has. -/
def splitJoin (s : State) : Option DWord :=
  if (reconOf s.frag.hdr s.frag.header).isSome then reconOf s.frag.hdr s.frag.header else joinHeader s.me s.frag

theorem bvSplit_guard : (decide (64 < splitSize s) || s.me.handler.isSome) = true ↔ s.me.handler ≠ none ∨ 64 < splitSize s := by
  rw [Bool.or_eq_true, decide_eq_true_iff, Option.isSome_iff_ne_none, or_comm]

theorem bvSplit_of_no_room (h : s.me.handler ≠ none ∨ 64 < splitSize s) (taken tgt : DWord) :
    bvSplit s taken tgt = .trap .splitDepth 0 s :=
  if_pos (bvSplit_guard.2 h)

section
variable (hh : s.me.handler = none) (hsize : splitSize s ≤ 64) {tgt : DWord} {t : Dest} {s1 : State}
  (ht : destination s (splitJoin s) tgt = .ok (t, s1)) (taken : DWord)
include hh hsize ht

theorem bvSplit_of_next_in_block (hrun : (afterWord s.frag).st = .run) :
    bvSplit s taken tgt = .done (s1.owe (.split taken (reconOf s.frag.hdr s.frag.header) t (afterWord s.frag))) := by
  refine (if_neg (mt bvSplit_guard.1 (by simp [hh, hsize]))).trans ?_
  rw [← splitJoin, ht]
  exact if_pos (beq_iff_eq.2 hrun)

theorem bvSplit_of_next_behind (hrun : (afterWord s.frag).st ≠ .run) {n : Dest} {s2 : State}
    (hn : destination s1 (splitJoin s) (afterWord s.frag).hdr = .ok (n, s2)) :
    bvSplit s taken tgt = .done (s2.owe (.split taken (reconOf s.frag.hdr s.frag.header) t n)) := by
  refine (if_neg (mt bvSplit_guard.1 (by simp [hh, hsize]))).trans ?_
  rw [← splitJoin, ht]
  refine (if_neg (mt beq_iff_eq.1 hrun)).trans ?_
  rw [hn]

end

end

/-! ### A `bv` with U = 0 in a block with UNI = 1 (06 R126, 09 R197) -/

/-- An issue word gives back its form, its zero bit and its slot A. -/
theorem fields_wordOf (form : BitVec 2) (sw : Bool) (a b : Op46) :
    formOf (wordOf form sw a b) = form ∧ (wordOf form sw a b).getLsbD 92 = false ∧ slotA (wordOf form sw a b) = a := by
  let w : BitVec (2 + 1 + 1 + 46 + 46) := form ++ BitVec.ofBool sw ++ 0#1 ++ a ++ b
  change w.extractLsb' 94 2 = form ∧ w.getLsbD 92 = false ∧ w.extractLsb' 46 46 = a
  refine ⟨?_, ?_, ?_⟩
  · simp (disch := omega) only [w, extract_append_left, Nat.reduceSub, extract_whole]
  · simp (disch := omega) only [w, bit_append_left, bit_append_right, BitVec.getLsbD_zero]
  · simp (disch := omega) only [w, extract_append_left, extract_append_right, Nat.reduceSub, extract_whole]

theorem decodeOp_encodeOp_bv (o : C) (x : Ext) : decodeOp (encodeOp (.bv o)) x = some (.bv o) :=
  (decodeOp_encC 0x04 o x).trans (congrArg (fun o => some (Instr.bv o)) (decC_encC _ o))

theorem decodeWord_bv_of_uni (env : WordEnv) (o : C) (huni : env.uni = true) (hu : o.u = false) :
    decodeWord env (encode (.bv o)) = .error .illegal := by
  change decodeWord env (wordOf 0 false (encodeOp (.bv o)) 0) = _
  obtain ⟨hform, hzero, hslot⟩ := fields_wordOf 0 false (encodeOp (.bv o)) 0
  have hheader : headerLegal env.uni env.leaf (.bv o) = false := by rw [headerLegal, huni, hu]; rfl
  have hsingle : decodeSingle env (wordOf 0 false (encodeOp (.bv o)) 0) = .error .illegal := by
    simp only [decodeSingle, hslot, decodeOp_encodeOp_bv, hheader, Bool.and_false, Bool.not_false, if_true]
  simp only [decodeWord, hform, hzero, hsingle]
  rfl

/-! ### The split table (08 R162) -/

theorem cohort_setCohort (s : State) (cid : Nat) (c : Cohort) : (s.setCohort cid c).cohort cid = c := tget_tput_same _ _ _ _

theorem setEnt_length (c : Cohort) (p : Ent) : (setEnt c p).ents.length = c.ents.length := List.length_map _

theorem find_setEnt_ne (p : Ent) {k : Nat} (h : k ≠ p.id) (l : List Ent) :
    (l.map fun x => if x.id == p.id then p else x).find? (·.id == k) = l.find? (·.id == k) := by
  induction l with
  | nil => rfl
  | cons x l ih =>
    by_cases hx : x.id = p.id
    · simp only [List.map_cons, List.find?_cons, hx, beq_self_eq_true, if_true, beq_eq_false_iff_ne.2 h.symm, ih]
    · simp only [List.map_cons, List.find?_cons, beq_eq_false_iff_ne.2 hx, Bool.false_eq_true, if_false, ih]

theorem find_setEnt_same (p : Ent) {l : List Ent} (h : ∃ f ∈ l, f.id = p.id) :
    (l.map fun x => if x.id == p.id then p else x).find? (·.id == p.id) = some p := by
  induction l with
  | nil => simp at h
  | cons x l ih =>
    by_cases hx : x.id = p.id
    · simp [hx]
    · simp [hx] at h ⊢
      simpa using ih (by simpa using h)

theorem setEnt_id_lt {c : Cohort} {n : Nat} (h : ∀ f ∈ c.ents, f.id < n) (p : Ent) : ∀ f ∈ (setEnt c p).ents, f.id < n := by
  intro f hf
  obtain ⟨x, hx, rfl⟩ := List.mem_map.1 hf
  split
  case isTrue hid => exact beq_iff_eq.1 hid ▸ h x hx
  case isFalse => exact h x hx

/-- A cohort's table after a split: entry `p` in the place of the fragment's, and new entries with numbers not yet used. -/
structure SplitTable (c u : Cohort) (p : Ent) (new : List Ent) : Prop where
  ents : u.ents = (setEnt c p).ents ++ new
  held : ∃ f ∈ c.ents, f.id = p.id
  old : ∀ f ∈ c.ents, f.id < c.nextEnt
  fresh : ∀ f ∈ new, c.nextEnt ≤ f.id

section
variable {c u : Cohort} {p : Ent} {new : List Ent} (h : SplitTable c u p new)
include h

theorem SplitTable.length_eq : u.ents.length = c.ents.length + new.length := by
  rw [h.ents, List.length_append, setEnt_length]

theorem SplitTable.entOf_lt {k : Nat} (hk : k < c.nextEnt) : entOf u k = entOf (setEnt c p) k := by
  have hnew : new.find? (·.id == k) = none :=
    List.find?_eq_none.2 fun f hf => mt beq_iff_eq.1 (Nat.ne_of_gt (hk.trans_le (h.fresh f hf)))
  rw [entOf, h.ents, List.find?_append, hnew, Option.or_none]
  rfl

theorem SplitTable.entOf_kept {k : Nat} (hne : k ≠ p.id) (hk : k < c.nextEnt) : entOf u k = entOf c k := by
  rw [h.entOf_lt hk, entOf, setEnt, find_setEnt_ne p hne, entOf]

theorem SplitTable.entOf_split : entOf u p.id = p := by
  obtain ⟨f, hf, hid⟩ := h.held
  rw [h.entOf_lt (hid ▸ h.old f hf), entOf, setEnt, find_setEnt_same p h.held, Option.getD_some]

theorem SplitTable.entOf_new {k : Nat} (hk : c.nextEnt ≤ k) : entOf u k = (new.find? (·.id == k)).getD Ent.none := by
  have hold : (setEnt c p).ents.find? (·.id == k) = none :=
    List.find?_eq_none.2 fun f hf => mt beq_iff_eq.1 (Nat.ne_of_lt ((setEnt_id_lt h.old p f hf).trans_le hk))
  rw [entOf, h.ents, List.find?_append, hold, Option.none_or]

end

section
variable {s : State} {cid : Nat} {e : Ent} (hmem : e ∈ (s.cohort cid).ents) (hold : ∀ f ∈ (s.cohort cid).ents, f.id < (s.cohort cid).nextEnt)
  (mask : DWord) (t n : Dest)
include hmem hold

theorem splitTable_join (j : DWord) : SplitTable (s.cohort cid) ((s.transfer cid e (.split mask (some j) t n)).cohort cid)
    { (e.placeAt t) with join := some j }
    [{ (e.placeAt t) with id := (s.cohort cid).nextEnt, parent := some e.id, mask := mask },
      { (e.placeAt n) with id := (s.cohort cid).nextEnt + 1, parent := some e.id, mask := e.mask &&& ~~~mask }] where
  ents := by rw [State.transfer, cohort_setCohort]
  held := ⟨e, hmem, rfl⟩
  old := hold
  fresh := by simp

theorem splitTable_no_join : SplitTable (s.cohort cid) ((s.transfer cid e (.split mask none t n)).cohort cid)
    { (e.placeAt t) with mask := mask }
    [{ (e.placeAt n) with id := (s.cohort cid).nextEnt, mask := e.mask &&& ~~~mask }] where
  ents := by rw [State.transfer, cohort_setCohort]
  held := ⟨e, hmem, rfl⟩
  old := hold
  fresh := by simp

/-- With a join header the fragment's entry becomes the join entry of two children, the true lanes first. -/
theorem transfer_split_join (j : DWord) :
    let c := s.cohort cid
    let id := c.nextEnt
    let u := (s.transfer cid e (.split mask (some j) t n)).cohort cid
    u.ents.length = c.ents.length + 2 ∧ (entOf u e.id).join = some j ∧
    (entOf u id).parent = some e.id ∧ (entOf u id).mask = mask ∧ (entOf u id).hdr = t.hdr ∧
    (entOf u (id + 1)).parent = some e.id ∧ (entOf u (id + 1)).mask = e.mask &&& ~~~mask ∧ (entOf u (id + 1)).hdr = n.hdr ∧
    ∀ k, k ≠ e.id → k < id → entOf u k = entOf c k := by
  intro c id u
  have h := splitTable_join hmem hold mask t n j
  have hsplit : entOf u e.id = _ := h.entOf_split
  have hfirst : entOf u id = { (e.placeAt t) with id := id, parent := some e.id, mask := mask } :=
    (h.entOf_new le_rfl).trans (by simp [id, c])
  have hsecond : entOf u (id + 1) = { (e.placeAt n) with id := id + 1, parent := some e.id, mask := e.mask &&& ~~~mask } :=
    (h.entOf_new (Nat.le_succ _)).trans (by simp [id, c])
  rw [hsplit, hfirst, hsecond]
  exact ⟨h.length_eq, rfl, rfl, rfl, rfl, rfl, rfl, rfl, fun k => h.entOf_kept⟩

/-- Without one the fragment keeps the true lanes, and one new entry holds the others. -/
theorem transfer_split_no_join :
    let c := s.cohort cid
    let id := c.nextEnt
    let u := (s.transfer cid e (.split mask none t n)).cohort cid
    u.ents.length = c.ents.length + 1 ∧ (entOf u e.id).mask = mask ∧ (entOf u e.id).hdr = t.hdr ∧
    (entOf u id).parent = e.parent ∧ (entOf u id).mask = e.mask &&& ~~~mask ∧ (entOf u id).hdr = n.hdr ∧
    ∀ k, k ≠ e.id → k < id → entOf u k = entOf c k := by
  intro c id u
  have h := splitTable_no_join hmem hold mask t n
  have hsplit : entOf u e.id = _ := h.entOf_split
  have hnew : entOf u id = { (e.placeAt n) with id := id, mask := e.mask &&& ~~~mask } :=
    (h.entOf_new le_rfl).trans (by simp [id, c])
  rw [hsplit, hnew]
  exact ⟨h.length_eq, rfl, rfl, rfl, rfl, rfl, fun k => h.entOf_kept⟩

end

/-- Settles O9: each control op by its own law, `bv` by how many lanes of the fragment are true, and a split by the table it leaves. -/
theorem controlOps : Obligations.ControlOps := by
  unfold Obligations.ControlOps
  refine ⟨fun o s => ?ops, ⟨decodeWord_bv_of_uni, fun o s hfree => ?bv⟩, fun s cid e mask t n hmem _ hold => ?split⟩
  case ops =>
    exact ⟨fun hfree => op_done hfree s,
      fun hfree d s' hd => op_goTo hfree hd id,
      fun hfree => ⟨fun hyes d s' hd => exec_bc_taken hfree hyes hd, exec_bc_not_taken hfree⟩,
      fun hfree d s' hd => op_goTo hfree hd _,
      fun hfree halign d s' hd => op_goIndirect hfree hd halign,
      fun hfree halign d s' hd => op_goIndirect hfree hd halign,
      fun hfree => ⟨fun hon d s' hd => exec_loop_goes_on hfree hon hd, exec_loop_ends hfree⟩,
      fun hfree => ⟨exec_exit_of_quiet hfree, fun hbusy => ⟨_, exec_exit_of_busy hfree hbusy, rfl⟩⟩,
      exec_yield⟩
  case bv =>
    exact ⟨exec_bv_of_none hfree,
      fun hsome hall d s' hd => exec_bv_of_all hfree hsome hall hd,
      fun hsome hmixed => exec_bv_uniform hsome hmixed hfree,
      fun hsome hmixed hu hfull => exec_bv_split hsome hmixed hfree hu (bvSplit_of_no_room hfull _ _),
      fun hsome hmixed hu hh hsize hrun d s' ht => exec_bv_split hsome hmixed hfree hu (bvSplit_of_next_in_block hh hsize ht _ hrun),
      fun hsome hmixed hu hh hsize hrun d n s' s'' ht hn =>
        exec_bv_split hsome hmixed hfree hu (bvSplit_of_next_behind hh hsize ht _ hrun hn)⟩
  case split => exact ⟨transfer_split_join hmem hold mask t n, transfer_split_no_join hmem hold mask t n⟩

end Sys2Proof.Proofs
end

section
/-! PROOF. Margining, monitor channels and the host's register writes: what each does and what it keeps (05 R105, 22 R436-R444). -/
namespace Sys2Proof.Proofs
open Sys2Proof Sys2Proof.Machine Sys2Proof.Laws

/-! ### Fields of a word that is masked or has a field replaced -/

theorem bits_and (v m : DWord) (lo n : Nat) : bits (v &&& m) lo n = bits v lo n &&& bits m lo n := by
  simp only [bits, BitVec.toNat_and, ← Nat.shiftRight_eq_div_pow, Nat.shiftRight_and_distrib, Nat.and_mod_two_pow]

/-- A field that a mask keeps. -/
theorem bits_and_of_ones (v : DWord) {m : DWord} {lo n : Nat} (h : bits m lo n = 2 ^ n - 1) : bits (v &&& m) lo n = bits v lo n := by
  rw [bits_and, h, Nat.and_two_pow_sub_one_eq_mod, bits, Nat.mod_mod]

/-- A field that a mask drops. -/
theorem bits_and_of_zero (v : DWord) {m : DWord} {lo n : Nat} (h : bits m lo n = 0) : bits (v &&& m) lo n = 0 := by
  rw [bits_and, h, Nat.and_zero]

theorem bits_lt (v : DWord) (lo n : Nat) : bits v lo n < 2 ^ n := Nat.mod_lt _ (Nat.two_pow_pos n)

/-- A field copied from another word. -/
theorem bits_setBits_bits (v w : DWord) (lo n : Nat) (h : lo + n ≤ 64) : bits (setBits v lo n (bits w lo n)) lo n = bits w lo n := by
  rw [bits_setBits_same _ _ _ _ h, Nat.mod_eq_of_lt (bits_lt _ _ _)]

theorem toNat_extract (v : DWord) (lo n : Nat) : (v.extractLsb' lo n).toNat = bits v lo n := by
  rw [BitVec.extractLsb'_toNat, Nat.shiftRight_eq_div_pow, bits]

theorem getLsbD_eq_bits (v : DWord) (i : Nat) : v.getLsbD i = decide (bits v i 1 = 1) := by
  rw [BitVec.getLsbD, Nat.testBit_eq_decide_div_mod_eq, bits, Nat.pow_one]

/-- Replacing a field leaves every field above it. -/
theorem bits_setBits_above (v : DWord) {lo n x lo' n' : Nat} (h : lo + n ≤ lo') (hl : lo' + n' ≤ 64) :
    bits (setBits v lo n x) lo' n' = bits v lo' n' := by
  have hlow : v.toNat % 2 ^ lo + 2 ^ lo * (x % 2 ^ n) < 2 ^ (lo + n) := by
    have hlo : v.toNat % 2 ^ lo < 2 ^ lo := Nat.mod_lt _ (Nat.two_pow_pos lo)
    have hx : x % 2 ^ n + 1 ≤ 2 ^ n := Nat.mod_lt _ (Nat.two_pow_pos n)
    have hmul : 2 ^ lo * (x % 2 ^ n + 1) ≤ 2 ^ lo * 2 ^ n := Nat.mul_le_mul_left _ hx
    rw [Nat.mul_succ] at hmul
    rw [Nat.pow_add]
    omega
  have hup : (v.toNat % 2 ^ lo + 2 ^ lo * (x % 2 ^ n) + v.toNat / 2 ^ (lo + n) * 2 ^ (lo + n)) / 2 ^ (lo + n) = v.toNat / 2 ^ (lo + n) := by
    rw [Nat.add_mul_div_right _ _ (Nat.two_pow_pos _), Nat.div_eq_of_lt hlow, Nat.zero_add]
  have hdiv (a : Nat) : a / 2 ^ lo' = a / 2 ^ (lo + n) / 2 ^ (lo' - (lo + n)) := by
    rw [Nat.div_div_eq_div_mul, ← Nat.pow_add, Nat.add_sub_cancel' h]
  rw [bits_eq_mod_div, setBits, BitVec.toNat_ofNat, Nat.mod_mod_of_dvd _ (Nat.pow_dvd_pow 2 hl), Nat.pow_add 2 lo',
    Nat.mod_mul_right_div_self, hdiv, hup, ← hdiv, bits]

theorem getLsbD_setBits_above (v : DWord) {lo n x i : Nat} (h : lo + n ≤ i) (hi : i < 64) : (setBits v lo n x).getLsbD i = v.getLsbD i := by
  rw [getLsbD_eq_bits, bits_setBits_above v h hi, ← getLsbD_eq_bits]

/-! ### Parts of State that this chapter writes -/

@[simp] theorem bridge_setBridge (s : State) (b : Nat) (x : Bridge) : (s.setBridge b x).bridge b = x := tget_tput_same _ _ _ _
@[simp] theorem bridge_emit (s : State) (b : Nat) (o : Out) : (s.emit o).bridge b = s.bridge b := rfl
@[simp] theorem mon_setMon (s : State) (ch : Nat) (x : Mon) : (s.setMon ch x).mon ch = x := tget_tput_same _ _ _ _
@[simp] theorem mon_emit (s : State) (ch : Nat) (o : Out) : (s.emit o).mon ch = s.mon ch := rfl
@[simp] theorem die_setDie (s : State) (d : Nat) (x : Die) : (s.setDie d x).die d = x := tget_tput_same _ _ _ _

/-! ### Margining (22 R437) -/

/-- BMCTL keeps RUN, DIR and the offsets as written, and cuts LANE to 527. -/
theorem bmctlOf_fields (v : DWord) : (bmctlOf v).getLsbD 63 = v.getLsbD 63 ∧ (bmctlOf v).getLsbD 62 = v.getLsbD 62 ∧
    bits (bmctlOf v) 32 10 = min 527 (bits v 32 10) ∧ bits (bmctlOf v) 0 24 = bits v 0 24 := by
  have hlane : min 527 (bits v 32 10) < 2 ^ 10 := by omega
  refine ⟨?_, ?_, ?_, ?_⟩ <;> unfold bmctlOf
  · rw [getLsbD_setBits_above _ (by decide) (by decide)]; simp
  · rw [getLsbD_setBits_above _ (by decide) (by decide)]; simp
  · rw [bits_setBits_same _ _ _ _ (by decide), Nat.mod_eq_of_lt hlane]
  · rw [bits_setBits_below _ (by decide) (by decide), bits_and_of_ones _ (by decide)]

/-- A bridge whose dwell has ended with a count of mismatches. -/
def dwellEnded (x : Bridge) (mism : Nat) : Bridge := { x with ctl := setBits x.ctl 63 1 0, res := setBits x.res 0 32 mism }

/-- The state after a dwell, whose count has used a free value. -/
def afterDwell (s : State) (b : Nat) (x : Bridge) : State := { s.setBridge b x with free := s.free + 1 }

@[simp] theorem bridge_afterDwell (s : State) (b : Nat) (x : Bridge) : (afterDwell s b x).bridge b = x := bridge_setBridge _ _ _
@[simp] theorem afterDwell_mem (s : State) (b : Nat) (x : Bridge) : (afterDwell s b x).mem = s.mem := rfl

/-- The end of a dwell leaves RUN = 0, the other fields of BMCTL and CORR. -/
theorem dwellEnded_fields (x : Bridge) (mism : Nat) : (dwellEnded x mism).ctl.getLsbD 63 = false ∧
    bits (dwellEnded x mism).ctl 0 63 = bits x.ctl 0 63 ∧ bits (dwellEnded x mism).res 32 32 = bits x.res 32 32 := by
  refine ⟨?_, bits_setBits_below _ (by decide) (by decide), bits_setBits_above _ (by decide) (by decide)⟩
  rw [getLsbD_eq_bits, dwellEnded, bits_setBits_same _ _ _ _ (by decide)]
  rfl

section
variable {s : State} {b : Nat} {v : DWord}

theorem exec_marginDwellStart_of_running (hrun : (s.bridge b).ctl.getLsbD 63 = true) : exec (.marginDwellStart b v) s = .next s :=
  congrArg _ (if_pos (by rw [hrun, Bool.or_true]))

theorem exec_marginDwellStart_of_idle (hrec : recovery s = false) (hb : b < 20) (hv : v.getLsbD 63 = true)
    (hidle : (s.bridge b).ctl.getLsbD 63 = false) :
    exec (.marginDwellStart b v) s = .next (s.setBridge b { s.bridge b with ctl := bmctlOf v, dwellAt := s.ptime }) := by
  refine congrArg _ (if_neg ?_)
  simp only [hrec, hv, hidle, Nat.not_le.2 hb, Bool.not_true, Bool.or_false, decide_false, Bool.false_eq_true, not_false_eq_true]

/-- The dwell of a bridge runs, and its DWELL has passed. -/
def DwellOver (s : State) (b : Nat) : Prop :=
  (s.bridge b).ctl.getLsbD 63 = true ∧ max 1 (bits (s.bridge b).ctl 0 8) * 10 * 16000 ≤ (s.ptime - (s.bridge b).dwellAt).toNat

theorem marginDwellEnd_guard_iff : (!(s.bridge b).ctl.getLsbD 63 ||
    (s.ptime - (s.bridge b).dwellAt).toNat < max 1 (bits (s.bridge b).ctl 0 8) * 10 * usTime) = true ↔ ¬ DwellOver s b := by
  rw [Bool.or_eq_true, decide_eq_true_iff, Bool.not_eq_true', ← Bool.not_eq_true, ← not_le, ← not_and_or]
  rfl

theorem exec_marginDwellEnd_of_not_over (h : ¬ DwellOver s b) : exec (.marginDwellEnd b) s = .next s :=
  congrArg _ (if_pos (marginDwellEnd_guard_iff.2 h))

theorem exec_marginDwellEnd_of_over (h : DwellOver s b) :
    exec (.marginDwellEnd b) s = .next (afterDwell s b (dwellEnded (s.bridge b) (Config.word s.free).toNat)) :=
  congrArg _ (if_neg fun hn => marginDwellEnd_guard_iff.1 hn h)

theorem exec_bmresRead_of_there (hrec : recovery s = false) (hb : b < 20) : exec (.bmresRead b) s =
    .next ((s.setBridge b { s.bridge b with res := setBits (s.bridge b).res 32 32 0 }).emit (.reg (s.bridge b).res)) := by
  refine congrArg _ (if_neg ?_)
  rw [hrec, Bool.false_or, decide_eq_true_iff]
  exact Nat.not_le.2 hb

end

/-! ### Samples (22 R440, R441) -/

/-- A bin holds the samples from its lower bound up to its upper; the first and the last hold what lies outside. -/
theorem binOf_eq_iff (ctl : DWord) (v : BitVec 16) {i : Nat} (hi : i < 16) :
    let base : BitVec 16 := ctl.extractLsb' 32 16
    binOf ctl v = i ↔ (v.toInt < base.toInt + (i + 1) * 2 ^ bits ctl 28 4 ∨ i = 15) ∧ (base.toInt + i * 2 ^ bits ctl 28 4 ≤ v.toInt ∨ i = 0) := by
  intro base
  have hw : (0 : Int) < 2 ^ bits ctl 28 4 := by positivity
  have hupper : (v.toInt - base.toInt) / 2 ^ bits ctl 28 4 < i + 1 ↔ v.toInt - base.toInt < (i + 1) * 2 ^ bits ctl 28 4 := Int.ediv_lt_iff_lt_mul hw
  have hlower : i ≤ (v.toInt - base.toInt) / 2 ^ bits ctl 28 4 ↔ i * 2 ^ bits ctl 28 4 ≤ v.toInt - base.toInt := Int.le_ediv_iff_mul_le hw
  rw [← sub_lt_iff_lt_add', ← le_sub_iff_add_le', ← hupper, ← hlower]
  change (max 0 (min 15 ((v.toInt - base.toInt) / 2 ^ bits ctl 28 4))).toNat = i ↔ _
  omega

/-- The bin a sample falls in counts it and stops at its largest count. -/
theorem takeSample_bin_same (x : Mon) (w : BitVec 16) (now : DWord) :
    (tget 0 (takeSample x w now).bins (binOf x.ctl w)).toNat = min 0xFFFFFFFF ((tget 0 x.bins (binOf x.ctl w)).toNat + 1) := by
  simp only [takeSample, tget_tput_same]
  have hlt := (tget 0 x.bins (binOf x.ctl w)).isLt
  split
  case isTrue h => rw [eq_of_beq h]; rfl
  case isFalse h =>
    have hne : (tget 0 x.bins (binOf x.ctl w)).toNat ≠ 0xFFFFFFFF := fun hn => h (beq_iff_eq.2 (BitVec.eq_of_toNat_eq hn))
    have hone : (1 : Word).toNat = 1 := rfl
    rw [BitVec.toNat_add, hone]
    omega

theorem takeSample_bin_ne (x : Mon) (w : BitVec 16) (now : DWord) {i : Nat} (h : binOf x.ctl w ≠ i) :
    tget 0 (takeSample x w now).bins i = tget 0 x.bins i :=
  tget_tput_ne _ _ _ (Ne.symm h)

theorem takeSample_max (x : Mon) (w : BitVec 16) (now : DWord) : (takeSample x w now).max.toInt = max x.max.toInt w.toInt := by
  simp only [takeSample]; split <;> omega

theorem takeSample_min (x : Mon) (w : BitVec 16) (now : DWord) : (takeSample x w now).min.toInt = min x.min.toInt w.toInt := by
  simp only [takeSample]; split <;> omega

/-- A sensor of a compute die gives its value. -/
theorem sampleOf_sensor (s : State) {ch : Nat} (v : BitVec 16) (hk : ch % 8 < 4) (hd : ch / 8 < 12) : sampleOf s ch v = v := by
  obtain h | h | h | h : ch % 8 = 0 ∨ ch % 8 = 1 ∨ ch % 8 = 2 ∨ ch % 8 = 3 := by omega
  all_goals simp [sampleOf, h, hd]

theorem sampleOf_fcur (s : State) {ch : Nat} (v : BitVec 16) (hk : ch % 8 = 4) (hd : ch / 8 < 12) : sampleOf s ch v = (s.die (ch / 8)).fcur := by
  simp [sampleOf, hk, hd]

/-- A channel with no sensor reads 0. -/
theorem sampleOf_none (s : State) {ch : Nat} (v : BitVec 16) (hk : 5 ≤ ch % 8) : sampleOf s ch v = 0 := by
  obtain h | h | h : ch % 8 = 5 ∨ ch % 8 = 6 ∨ ch % 8 = 7 := by omega
  all_goals simp [sampleOf, h]

/-! ### Event records (22 R442) -/

/-- What a write of system memory by a service can change: bytes with their tokens, and what the homes keep of the lines and send. -/
def ServiceWrote (s t : State) : Prop :=
  t = { s with nexts := t.nexts, mem := t.mem, tokens := t.tokens, net := t.net, sentAt := t.sentAt, dir := t.dir, next := t.next, sram := t.sram }

theorem ServiceWrote.refl (s : State) : ServiceWrote s s := rfl

theorem ServiceWrote.trans {s t u : State} (hst : ServiceWrote s t) (htu : ServiceWrote t u) : ServiceWrote s u := by
  unfold ServiceWrote at *
  rw [htu, hst]

theorem ServiceWrote.foldl {α : Type} (f : State → α → State) (h : ∀ s a, ServiceWrote s (f s a)) (l : List α) (s : State) :
    ServiceWrote s (l.foldl f s) := by
  induction l generalizing s with
  | nil => exact .refl s
  | cons a t ih => exact (h s a).trans (ih _)

theorem setBytes_serviceWrote (s : State) (k : Nat) (l : List Byte) : ServiceWrote s (s.setBytes k l) := by
  induction l generalizing s k with
  | nil => exact .refl s
  | cons b t ih => exact .trans (t := s.setByte k b) rfl (ih _ _)

theorem dropCopies_serviceWrote (s : State) (line : Nat) : ServiceWrote s (s.dropCopies line) := by
  unfold State.dropCopies
  simp only []
  split
  · exact .refl s
  · exact .trans (ServiceWrote.foldl (fun s c => s.send (.inv c line s.next)) (fun _ _ => rfl) _ s) rfl

theorem dirtySram_serviceWrote (s : State) (line : Nat) : ServiceWrote s (s.dirtySram line) := by
  unfold State.dirtySram
  simp only []
  split <;> rfl

theorem setSysWord_serviceWrote (s : State) (a : Nat) (v : DWord) : ServiceWrote s (s.setSysWord a v) := by
  unfold State.setSysWord
  simp only []
  split
  · exact .refl s
  · refine .trans ?_ (dirtySram_serviceWrote _ _)
    refine .trans ?_ (dropCopies_serviceWrote _ _)
    exact .trans (t := { s with nexts := s.nexts ++ heldCells s (lineOf (sysKey s a)) }) rfl (setBytes_serviceWrote _ _ _)

@[simp] theorem setSysWord_mons (s : State) (a : Nat) (v : DWord) : (s.setSysWord a v).mons = s.mons := by rw [setSysWord_serviceWrote s a v]
@[simp] theorem setSysWord_evseq (s : State) (a : Nat) (v : DWord) : (s.setSysWord a v).evseq = s.evseq := by rw [setSysWord_serviceWrote s a v]

/-- The state that an event leaves, with a ring or without one. -/
def eventNoted (s : State) (time place val : DWord) : State :=
  match s.eventRecord time place val with
  | some p => p.2
  | none => s

section
variable (s : State) (time place val : DWord)

/-- Every event recorded leaves the monitor channels and takes a number. -/
theorem eventRecord_some {p : DWord × State} (h : s.eventRecord time place val = some p) : p.2.mons = s.mons ∧ p.2.evseq = s.evseq + 1 := by
  unfold State.eventRecord at h
  split at h
  · cases h
  · obtain rfl := Option.some.inj h
    simp only []
    split <;> simp

theorem eventNoted_mons : (eventNoted s time place val).mons = s.mons := by
  unfold eventNoted
  split
  case h_1 p h => exact (eventRecord_some s time place val h).1
  case h_2 => rfl

/-- With a ring the event is given its number. -/
theorem eventNoted_evseq (hlo : 4 ≤ bits s.evring 0 5) (hhi : bits s.evring 0 5 ≤ 16) : (eventNoted s time place val).evseq = s.evseq + 1 := by
  unfold eventNoted
  split
  case h_1 p h => exact (eventRecord_some s time place val h).2
  case h_2 h => simp [State.eventRecord, ringLgn, hlo, hhi] at h

end

/-! ### A sample taken (22 R440-R442) -/

/-- A channel is on and its period has passed. -/
def SampleDue (s : State) (ch : Nat) : Prop :=
  ch < 112 ∧ (s.mon ch).ctl.getLsbD 0 = true ∧ bits (s.mon ch).ctl 4 12 * usTime ≤ (s.ptime - (s.mon ch).sampleAt).toNat

/-- The state in which a channel has taken a sample. -/
def sampled (s : State) (ch : Nat) (v : BitVec 16) : State := s.setMon ch (takeSample (s.mon ch) (sampleOf s ch v) s.ptime)

/-- A sample that a channel reports: TEV = 1, and it crosses THR rising. -/
def crosses (x : Mon) (w : BitVec 16) : Bool :=
  let thr : BitVec 16 := x.ctl.extractLsb' 48 16
  x.ctl.getLsbD 2 && thr.toInt < w.toInt && x.last.toInt ≤ thr.toInt

theorem crosses_iff (x : Mon) (w : BitVec 16) : crosses x w = true ↔
    x.ctl.getLsbD 2 = true ∧ (x.ctl.extractLsb' 48 16).toInt < w.toInt ∧ x.last.toInt ≤ (x.ctl.extractLsb' 48 16).toInt := by
  simp only [crosses, Bool.and_eq_true, decide_eq_true_eq, and_assoc]

section
variable {s : State} {ch : Nat} (hdue : SampleDue s ch) (v : BitVec 16)
include hdue

theorem monitorSample_guard : ¬ (112 ≤ ch || !(s.mon ch).ctl.getLsbD 0 ||
    (s.ptime - (s.mon ch).sampleAt).toNat < bits (s.mon ch).ctl 4 12 * usTime) = true := by
  obtain ⟨hch, hen, hper⟩ := hdue
  rw [Bool.or_eq_true, Bool.or_eq_true, decide_eq_true_iff, decide_eq_true_iff, hen, not_or, not_or]
  exact ⟨⟨Nat.not_le.2 hch, Bool.false_ne_true⟩, Nat.not_lt.2 hper⟩

theorem exec_monitorSample_of_quiet (hc : ¬ crosses (s.mon ch) (sampleOf s ch v) = true) : exec (.monitorSample ch v) s = .next (sampled s ch v) :=
  (if_neg (monitorSample_guard hdue)).trans (congrArg _ (if_neg hc))

theorem exec_monitorSample_of_crossing (hc : crosses (s.mon ch) (sampleOf s ch v) = true) : exec (.monitorSample ch v) s =
    .next (eventNoted (sampled s ch v) (if ch / 8 < 12 then s.timeOf (ch / 8) else s.ptime) (threshPlace ch) ((sampleOf s ch v).signExtend 64)) :=
  (if_neg (monitorSample_guard hdue)).trans (congrArg _ (if_pos hc))

/-- A sample that is due is taken; a rising crossing makes an event, and nothing else does. -/
theorem monitorSample_due : ∃ t : State, exec (.monitorSample ch v) s = .next t ∧ t.mon ch = takeSample (s.mon ch) (sampleOf s ch v) s.ptime ∧
    (crosses (s.mon ch) (sampleOf s ch v) = true → 4 ≤ bits s.evring 0 5 → bits s.evring 0 5 ≤ 16 → t.evseq = s.evseq + 1) ∧
    (crosses (s.mon ch) (sampleOf s ch v) = false → t.evseq = s.evseq ∧ t.mem = s.mem) := by
  by_cases hc : crosses (s.mon ch) (sampleOf s ch v) = true
  · refine ⟨_, exec_monitorSample_of_crossing hdue v hc, ?_, fun _ => eventNoted_evseq (sampled s ch v) _ _ _, fun hn => absurd hc (Bool.eq_false_iff.1 hn)⟩
    rw [State.mon, eventNoted_mons]
    exact mon_setMon _ _ _
  · exact ⟨_, exec_monitorSample_of_quiet hdue v hc, mon_setMon _ _ _, fun h => absurd h hc, fun _ => ⟨rfl, rfl⟩⟩

end

/-! ### Reads that clear (05 R105, 22 R440) -/

section
variable {s : State} {ch : Nat}

theorem toNat_append_eq_add {m n : Nat} (x : BitVec m) (y : BitVec n) : (x ++ y).toNat = x.toNat * 2 ^ n + y.toNat := by
  rw [BitVec.toNat_append, ← Nat.shiftLeft_add_eq_or_of_lt y.isLt, Nat.shiftLeft_eq]

/-- MONVAL's fields stand side by side. -/
theorem monval_eq_append (x : Mon) : monval x = x.max ++ x.min ++ x.last ++ (0 : BitVec 16) := by
  have hmax := x.max.isLt
  have hmin := x.min.isLt
  have hlast := x.last.isLt
  have hzero : (0 : BitVec 16).toNat = 0 := rfl
  refine BitVec.eq_of_toNat_eq ?_
  rw [monval, dw, BitVec.toNat_ofNat, toNat_append_eq_add, toNat_append_eq_add, toNat_append_eq_add, hzero]
  omega

theorem exec_monvalRead_of_there (hrec : recovery s = false) (hch : ch < 112) : exec (.monvalRead ch) s =
    .next ((s.setMon ch { s.mon ch with max := (s.mon ch).last, min := (s.mon ch).last }).emit (.reg (monval (s.mon ch)))) := by
  refine congrArg _ (if_neg ?_)
  rw [hrec, Bool.false_or, decide_eq_true_iff]
  exact Nat.not_le.2 hch

theorem exec_histRead_of_there (hrec : recovery s = false) (hch : ch < 112) {i : Nat} (hi : i < 16) : exec (.histRead ch i) s =
    .next ((s.setMon ch { s.mon ch with bins := terase (s.mon ch).bins i }).emit (.reg ((tget 0 (s.mon ch).bins i).zeroExtend 64))) := by
  refine congrArg _ (if_neg ?_)
  rw [hrec, Bool.false_or, Bool.or_eq_true, decide_eq_true_iff, decide_eq_true_iff]
  omega

theorem exec_dstatRead_of_there (hrec : recovery s = false) {die : Nat} (hd : die < 12) : exec (.dstatRead die) s =
    .next ((s.setDie die { s.die die with fstalls := 0, relocs := 0 }).emit (.reg ((s.die die).fstalls ++ (s.die die).relocs))) := by
  refine congrArg _ (if_neg ?_)
  rw [hrec, Bool.false_or, decide_eq_true_iff]
  exact Nat.not_le.2 hd

theorem hostRead_of_up {io : Nat} (hio : io < 2) (hup : portUp s io = true) (hrec : recovery s = false) (off : Nat) :
    s.hostRead io off = s.emit (.reg (bar0Reg s io off)) := by
  refine if_neg ?_
  rw [hup, hrec, Bool.false_and, Bool.or_false, Bool.not_true, Bool.or_false, decide_eq_true_iff]
  exact Nat.not_le.2 hio

end

/-! ### The host's register writes (00 R4) -/

section
variable {s : State} {io off : Nat} (v : DWord)

theorem exec_registerWrite_of_down (hdown : portUp s io = false) : exec (.registerWrite io off v) s = .next s :=
  congrArg _ (if_pos (by rw [hdown]; rfl))

theorem exec_registerWrite_of_up (hup : portUp s io = true) (hbar4 : off ≠ 2 ^ 24) (hfw : off ≠ 0x1508) :
    exec (.registerWrite io off v) s = .next (if recovery s then s else s.writeBar0 io off v) := by
  refine congrArg _ ((if_neg (by rw [hup]; decide)).trans ((if_neg ?_).trans (if_neg ?_)))
  · rwa [beq_iff_eq]
  · rwa [beq_iff_eq]

theorem exec_registerWrite_of_recovery (hup : portUp s io = true) (hrec : recovery s = true) (hbar4 : off ≠ 2 ^ 24) (hfw : off ≠ 0x1508) :
    exec (.registerWrite io off v) s = .next s := by
  rw [exec_registerWrite_of_up v hup hbar4 hfw, if_pos hrec]

theorem exec_registerWrite_of_running (hup : portUp s io = true) (hrec : recovery s = false) (hbar4 : off ≠ 2 ^ 24) (hfw : off ≠ 0x1508) :
    exec (.registerWrite io off v) s = .next (s.writeBar0 io off v) := by
  rw [exec_registerWrite_of_up v hup hbar4 hfw, hrec, if_neg Bool.false_ne_true]

end

/-! ### Where a write to BAR 0 lands -/

section
variable (s : State) (io : Nat) (v : DWord)

theorem writeBar0_qtbase : s.writeBar0 io 0x1000 v = { s with qtbase := v &&& 0xFFFFFFFFFFFF0001 } := rfl
theorem writeBar0_pmap : s.writeBar0 io 0x1100 v = if 64 < bits v 0 7 then s else { s with pmap := v.extractLsb' 0 7 } := rfl
theorem writeBar0_ctxtbase : s.writeBar0 io 0x1200 v = { s with ctxtbase := v &&& 0xFFFFFFFFFFC00001 } := rfl
theorem writeBar0_mcring : s.writeBar0 0 0x1300 v = { s with mcring := v &&& 0xFFFFFFFFFFFFF01F } := rfl
theorem writeBar0_mcidx : s.writeBar0 0 0x1308 v = { s with mcidx := setBits s.mcidx 32 32 (bits v 32 32) } := rfl
theorem writeBar0_evring : s.writeBar0 io 0x1C00 v = { s with evring := v &&& 0xFFFFFFFFFFFFF01F } := rfl
theorem writeBar0_evidx : s.writeBar0 io 0x1C08 v = { s with evidx := setBits s.evidx 32 32 (bits v 32 32) } := rfl

theorem bar0Reg_qtbase : bar0Reg s io 0x1000 = s.qtbase := rfl

/-- Past the registers with an offset of their own stand the peers' words, the distributor windows and the monitor channels. -/
theorem writeBar0_of_past {off : Nat} (h : 0x4000 ≤ off) : s.writeBar0 io off v =
    if 0x4000 ≤ off && off < 0x4400 && off % 8 == 0 then
      { s with peers := tput 0 s.peers ((off - 0x4000) / 8) (v &&& (if (off - 0x4000) / 8 % 2 == 0 then 0x8007FFFFFFFFFFFF else 0xFFFF000000000001)) }
    else if 0x100000 ≤ off && off < 0x10C000 && io == 0 then s.writeWindow ((off - 0x100000) / 4096) (off % 4096) v
    else if 0x300000 ≤ off && off < 0x300000 + 128 * 112 && off % 128 == 0 && io == 0 then s.writeMonctl ((off - 0x300000) / 128) v
    else s := by
  have hne {k : Nat} (hk : k < 0x4000) : (off == k) = false := by rw [beq_eq_false_iff_ne]; omega
  have hlt {k : Nat} (hk : k ≤ 0x4000) : decide (off < k) = false := by rw [decide_eq_false_iff_not]; omega
  simp (disch := decide) only [State.writeBar0, hne, hlt, Bool.and_false, Bool.false_and, Bool.false_eq_true, if_false]

theorem writeBar0_peer {i : Nat} (hi : i < 128) : s.writeBar0 io (0x4000 + 8 * i) v =
    { s with peers := tput 0 s.peers i (v &&& (if i % 2 == 0 then 0x8007FFFFFFFFFFFF else 0xFFFF000000000001)) } := by
  have hidx : (0x4000 + 8 * i - 0x4000) / 8 = i := by omega
  rw [writeBar0_of_past s io v (by omega), if_pos, hidx]
  simp only [Bool.and_eq_true, decide_eq_true_eq, beq_iff_eq]
  omega

theorem writeBar0_peer_first {n : Nat} (hn : n < 64) : s.writeBar0 io (0x4000 + 16 * n) v =
    { s with peers := tput 0 s.peers (2 * n) (v &&& 0x8007FFFFFFFFFFFF) } := by
  have hoff : 0x4000 + 16 * n = 0x4000 + 8 * (2 * n) := by omega
  rw [hoff, writeBar0_peer _ _ _ (by omega), if_pos (by rw [beq_iff_eq]; omega)]

theorem writeBar0_peer_second {n : Nat} (hn : n < 64) : s.writeBar0 io (0x4000 + 16 * n + 8) v =
    { s with peers := tput 0 s.peers (2 * n + 1) (v &&& 0xFFFF000000000001) } := by
  have hoff : 0x4000 + 16 * n + 8 = 0x4000 + 8 * (2 * n + 1) := by omega
  rw [hoff, writeBar0_peer _ _ _ (by omega), if_neg (by rw [beq_iff_eq]; omega)]

theorem writeBar0_window {die k : Nat} (hd : die < 12) (hk : k < 4096) : s.writeBar0 0 (0x100000 + 4096 * die + k) v = s.writeWindow die k v := by
  have hdie : (0x100000 + 4096 * die + k - 0x100000) / 4096 = die := by omega
  have hoff : (0x100000 + 4096 * die + k) % 4096 = k := by omega
  rw [writeBar0_of_past s 0 v (by omega), if_neg, if_pos, hdie, hoff]
  all_goals
    simp only [Bool.and_eq_true, decide_eq_true_eq, beq_iff_eq, and_true]
    omega

theorem writeBar0_monctl {ch : Nat} (hch : ch < 112) : s.writeBar0 0 (0x300000 + 128 * ch) v = s.writeMonctl ch v := by
  have hidx : (0x300000 + 128 * ch - 0x300000) / 128 = ch := by omega
  rw [writeBar0_of_past s 0 v (by omega), if_neg, if_neg, if_pos, hidx]
  all_goals
    simp only [Bool.and_eq_true, decide_eq_true_eq, beq_iff_eq, and_true]
    omega

end

/-! ### DCLK, VMARG and ACCTBASE (15 R303, 22 R436, R444) -/

section
variable (d : Die) (v : DWord)

theorem writeDclk_of_bad (h : bits v 0 16 < 800 ∨ bits v 16 16 < bits v 0 16 ∨ 1900 < bits v 16 16) : writeDclk d v = d := by
  refine if_pos ?_
  simpa only [Bool.or_eq_true, decide_eq_true_eq, toNat_extract, or_assoc] using h

/-- A range that holds is taken, and FCUR is brought within it. -/
theorem writeDclk_of_good (hlo : 800 ≤ bits v 0 16) (hle : bits v 0 16 ≤ bits v 16 16) (hhi : bits v 16 16 ≤ 1900) :
    (writeDclk d v).fmax.toNat = bits v 16 16 ∧ (writeDclk d v).fmin.toNat = bits v 0 16 ∧
    (writeDclk d v).fcur.toNat = max (bits v 0 16) (min (bits v 16 16) d.fcur.toNat) ∧
    (writeDclk d v).cyc = d.cyc ∧ (writeDclk d v).time = d.time := by
  have hgood : ¬ ((v.extractLsb' 0 16).toNat < 800 || (v.extractLsb' 16 16).toNat < (v.extractLsb' 0 16).toNat || 1900 < (v.extractLsb' 16 16).toNat) = true := by
    simp only [Bool.or_eq_true, decide_eq_true_eq, toNat_extract]
    omega
  rw [writeDclk, if_neg hgood]
  dsimp only
  refine ⟨toNat_extract _ _ _, toNat_extract _ _ _, ?_, rfl, rfl⟩
  rw [← toNat_extract v 0 16, ← toNat_extract v 16 16] at hle ⊢
  split
  case isTrue => omega
  case isFalse => split <;> omega

end

section
variable (s : State) (die : Nat) (v : DWord)

theorem writeWindow_dclk : s.writeWindow die 0x020 v = s.setDie die (writeDclk (s.die die) v) := rfl
theorem writeWindow_acctBase : s.writeWindow die 0x050 v = s.setDie die { s.die die with acctBase := v &&& 0xFFFFFFFFFF800001 } := rfl

theorem writeWindow_vmarg_of_bad (h : (v.extractLsb' 0 8).toInt < -20 ∨ 20 < (v.extractLsb' 0 8).toInt) : s.writeWindow die 0x040 v = s :=
  if_pos (by rwa [Bool.or_eq_true, decide_eq_true_iff, decide_eq_true_iff])

theorem writeWindow_vmarg_of_good (hlo : -20 ≤ (v.extractLsb' 0 8).toInt) (hhi : (v.extractLsb' 0 8).toInt ≤ 20) :
    s.writeWindow die 0x040 v = s.setDie die { s.die die with vmOfs := (v.extractLsb' 0 8).toInt } :=
  if_neg (by rw [Bool.or_eq_true, decide_eq_true_iff, decide_eq_true_iff]; omega)

end

/-! ### MONCTL (22 R440) -/

/-- MONCTL as a write of `v` leaves it: the fields it has, and the PER it held where `v` has a PER of 0. -/
def monctlOf (old v : DWord) : DWord :=
  if bits v 4 12 == 0 then setBits (v &&& 0xFFFFFFFFF000FFF5) 4 12 (bits old 4 12) else v &&& 0xFFFFFFFFF000FFF5

theorem monctlOf_per (old v : DWord) : bits (monctlOf old v) 4 12 = if bits v 4 12 = 0 then bits old 4 12 else bits v 4 12 := by
  unfold monctlOf
  by_cases h : bits v 4 12 = 0
  · rw [if_pos (beq_iff_eq.2 h), if_pos h, bits_setBits_bits _ _ _ _ (by decide)]
  · rw [if_neg (mt beq_iff_eq.1 h), if_neg h, bits_and_of_ones _ (by decide)]

/-- Beside PER the fields are those of the write. -/
theorem monctlOf_outside_per (old v : DWord) {lo n : Nat} (h : lo + n ≤ 4 ∨ 16 ≤ lo) (hl : lo + n ≤ 64) :
    bits (monctlOf old v) lo n = bits (v &&& 0xFFFFFFFFF000FFF5) lo n := by
  unfold monctlOf
  split
  · rcases h with hbelow | habove
    · exact bits_setBits_below _ hbelow (by decide)
    · exact bits_setBits_above _ habove hl
  · rfl

theorem monctlOf_bit (old v : DWord) {i : Nat} (h : i < 4) :
    (monctlOf old v).getLsbD i = (v.getLsbD i && (0xFFFFFFFFF000FFF5 : DWord).getLsbD i) := by
  rw [getLsbD_eq_bits, monctlOf_outside_per _ _ (.inl h) (by omega), ← getLsbD_eq_bits, BitVec.getLsbD_and]

/-- MONCTL keeps the fields it has as written, but for a PER of 0. -/
theorem monctlOf_fields (old v : DWord) : let c := monctlOf old v
    bits c 28 36 = bits v 28 36 ∧ c.getLsbD 2 = v.getLsbD 2 ∧ c.getLsbD 0 = v.getLsbD 0 ∧ bits c 16 12 = 0 ∧ c.getLsbD 3 = false ∧ c.getLsbD 1 = false ∧
    bits c 4 12 = if bits v 4 12 = 0 then bits old 4 12 else bits v 4 12 := by
  have hkept (i : Nat) (h : i < 4) (hm : (0xFFFFFFFFF000FFF5 : DWord).getLsbD i = true) : (monctlOf old v).getLsbD i = v.getLsbD i := by
    rw [monctlOf_bit _ _ h, hm, Bool.and_true]
  have hcleared (i : Nat) (h : i < 4) (hm : (0xFFFFFFFFF000FFF5 : DWord).getLsbD i = false) : (monctlOf old v).getLsbD i = false := by
    rw [monctlOf_bit _ _ h, hm, Bool.and_false]
  refine ⟨?_, hkept 2 (by decide) rfl, hkept 0 (by decide) rfl, ?_, hcleared 3 (by decide) rfl, hcleared 1 (by decide) rfl, monctlOf_per old v⟩
  · rw [monctlOf_outside_per _ _ (.inr (by decide)) (by decide), bits_and_of_ones _ (by decide)]
  · rw [monctlOf_outside_per _ _ (.inr (by decide)) (by decide), bits_and_of_zero _ (by decide)]

theorem mon_writeMonctl (s : State) (ch : Nat) (v : DWord) : (s.writeMonctl ch v).mon ch =
    { s.mon ch with
      ctl := monctlOf (s.mon ch).ctl v
      sampleAt := if v.getLsbD 0 && !(s.mon ch).ctl.getLsbD 0 then s.ptime else (s.mon ch).sampleAt } :=
  mon_setMon _ _ _

/-! ### The clauses of the statement -/

/-- A write of BMCTL with RUN = 1 to a bridge at rest. -/
theorem marginDwellStart_idle {s : State} {b : Nat} {v : DWord} (hrec : recovery s = false) (hb : b < 20) (hv : v.getLsbD 63 = true)
    (hidle : (s.bridge b).ctl.getLsbD 63 = false) : ∃ t : State, exec (.marginDwellStart b v) s = .next t ∧ t = s.setBridge b (t.bridge b) ∧
      let x := t.bridge b
      x.ctl.getLsbD 63 = true ∧ bits x.ctl 32 10 = min 527 (bits v 32 10) ∧ bits x.ctl 0 24 = bits v 0 24 ∧ x.ctl.getLsbD 62 = v.getLsbD 62 ∧
      x.dwellAt = s.ptime ∧ x.res = (s.bridge b).res := by
  obtain ⟨hrun, hdir, hlane, hlow⟩ := bmctlOf_fields v
  refine ⟨_, exec_marginDwellStart_of_idle hrec hb hv hidle, ?_⟩
  rw [bridge_setBridge]
  exact ⟨rfl, hrun.trans hv, hlane, hlow, hdir, rfl, rfl⟩

theorem marginDwellEnd_over {s : State} {b : Nat} (h : DwellOver s b) : ∃ t : State, exec (.marginDwellEnd b) s = .next t ∧
    (t.bridge b).ctl.getLsbD 63 = false ∧ bits (t.bridge b).ctl 0 63 = bits (s.bridge b).ctl 0 63 ∧
    bits (t.bridge b).res 32 32 = bits (s.bridge b).res 32 32 ∧ t.mem = s.mem := by
  obtain ⟨hrun, hctl, hres⟩ := dwellEnded_fields (s.bridge b) (Config.word s.free).toNat
  refine ⟨_, exec_marginDwellEnd_of_over h, ?_⟩
  rw [bridge_afterDwell]
  exact ⟨hrun, hctl, hres, afterDwell_mem _ _ _⟩

theorem bmresRead_there {s : State} {b : Nat} (hrec : recovery s = false) (hb : b < 20) : ∃ t : State, exec (.bmresRead b) s = .next t ∧
    t.out = s.out ++ [.reg (s.bridge b).res] ∧ bits (t.bridge b).res 32 32 = 0 ∧ bits (t.bridge b).res 0 32 = bits (s.bridge b).res 0 32 := by
  refine ⟨_, exec_bmresRead_of_there hrec hb, rfl, ?_⟩
  rw [bridge_emit, bridge_setBridge]
  exact ⟨bits_setBits_same _ _ _ _ (by decide), bits_setBits_below _ (by decide) (by decide)⟩

/-- A sample counts in the bin whose bounds it lies in and in no other. -/
theorem takeSample_bins (x : Mon) (w : BitVec 16) (now : DWord) {i : Nat} (hi : i < 16) :
    let base : BitVec 16 := x.ctl.extractLsb' 32 16
    let here : Prop := (w.toInt < base.toInt + (i + 1) * 2 ^ bits x.ctl 28 4 ∨ i = 15) ∧ (base.toInt + i * 2 ^ bits x.ctl 28 4 ≤ w.toInt ∨ i = 0)
    (here → (tget 0 (takeSample x w now).bins i).toNat = min 0xFFFFFFFF ((tget 0 x.bins i).toNat + 1)) ∧
    (¬ here → tget 0 (takeSample x w now).bins i = tget 0 x.bins i) := by
  intro base here
  have hbin : binOf x.ctl w = i ↔ here := binOf_eq_iff x.ctl w hi
  constructor
  · intro h
    obtain rfl := hbin.2 h
    exact takeSample_bin_same x w now
  · exact fun h => takeSample_bin_ne x w now (mt hbin.1 h)

theorem histRead_there {s : State} {ch i : Nat} (hrec : recovery s = false) (hch : ch < 112) (hi : i < 16) : ∃ t : State,
    exec (.histRead ch i) s = .next t ∧ t.out = s.out ++ [.reg ((tget 0 (s.mon ch).bins i).zeroExtend 64)] ∧ tget 0 (t.mon ch).bins i = 0 ∧
    ∀ j, j ≠ i → tget 0 (t.mon ch).bins j = tget 0 (s.mon ch).bins j := by
  refine ⟨_, exec_histRead_of_there hrec hch hi, rfl, ?_⟩
  rw [mon_emit, mon_setMon]
  exact ⟨tget_terase_same _ _ _, fun j hj => tget_terase_ne _ _ hj⟩

/-- Settles O55: the monitors' clauses from what each event leaves, the host's writes from where `writeBar0` puts them. -/
theorem monitorsAndRegisters : Obligations.MonitorsAndRegisters := by
  unfold Obligations.MonitorsAndRegisters
  refine ⟨fun s => ⟨?start, ?stop, fun b => bmresRead_there, ?sample, ?reads, ?hostRead, ?dstat⟩, fun s io v => ?writes⟩
  case start => exact fun b v hrec hb hv => ⟨exec_marginDwellStart_of_running, marginDwellStart_idle hrec hb hv⟩
  case stop => exact fun b => ⟨exec_marginDwellEnd_of_not_over, marginDwellEnd_over⟩
  case sample =>
    intro ch v x hch hen hper
    obtain ⟨t, hexec, hmon, hcross, hquiet⟩ := monitorSample_due ⟨hch, hen, hper⟩ v
    refine ⟨t, hexec, ?_⟩
    rw [hmon]
    refine ⟨sampleOf_sensor s v, sampleOf_fcur s v, sampleOf_none s v, takeSample_max _ _ _, takeSample_min _ _ _, rfl, rfl, fun i => takeSample_bins _ _ _,
      fun htev hlo hhi habove hbefore => hcross ((crosses_iff _ _).2 ⟨htev, habove, hbefore⟩) hlo hhi, fun hnone => hquiet (Bool.eq_false_iff.2 fun hc => ?_)⟩
    obtain ⟨htev, habove, hbefore⟩ := (crosses_iff _ _).1 hc
    rcases hnone with hoff | hbelow | hafter
    · exact Bool.false_ne_true (hoff.symm.trans htev)
    · exact absurd hbelow (not_le.2 habove)
    · exact absurd hafter (not_lt.2 hbefore)
  case reads =>
    intro ch hrec hch
    refine ⟨⟨_, exec_monvalRead_of_there hrec hch, ?_, mon_setMon _ _ _⟩, fun i => histRead_there hrec hch⟩
    rw [← monval_eq_append]
    rfl
  case hostRead => exact fun io off hio hup hrec => hostRead_of_up hio hup hrec off
  case dstat => exact fun die hrec hd => ⟨_, exec_dstatRead_of_there hrec hd, rfl, die_setDie _ _ _⟩
  case writes =>
    intro w
    refine ⟨fun hdown off => exec_registerWrite_of_down v hdown, fun hup hrec off => exec_registerWrite_of_recovery v hup hrec, fun hup hrec => ?_⟩
    have put {off : Nat} {t : State} (hbar4 : off ≠ 2 ^ 24) (hfw : off ≠ 0x1508) (h : s.writeBar0 io off v = t) : w off = .next t :=
      h ▸ exec_registerWrite_of_running v hup hrec hbar4 hfw
    refine ⟨put (by decide) (by decide) (writeBar0_qtbase s io v), bar0Reg_qtbase _ io, put (by decide) (by decide) (writeBar0_pmap s io v),
      put (by decide) (by decide) (writeBar0_ctxtbase s io v), put (by decide) (by decide) (writeBar0_evring s io v),
      ⟨_, put (by decide) (by decide) (writeBar0_evidx s io v), rfl, bits_setBits_bits _ _ _ _ (by decide), bits_setBits_below _ (by decide) (by decide)⟩,
      ?errors, fun n hn => ⟨put (by omega) (by omega) (writeBar0_peer_first s io v hn), put (by omega) (by omega) (writeBar0_peer_second s io v hn)⟩,
      ?windows, ?channels⟩
    case errors =>
      rintro rfl
      exact ⟨put (by decide) (by decide) (writeBar0_mcring s v),
        _, put (by decide) (by decide) (writeBar0_mcidx s v), rfl, bits_setBits_bits _ _ _ _ (by decide), bits_setBits_below _ (by decide) (by decide)⟩
    case windows =>
      rintro die rfl hd d win hi lo ofs
      have putWin {k : Nat} {t : State} (hk : k < 4096) (h : s.writeWindow die k v = t) : w (win + k) = .next t :=
        put (by omega) (by omega) ((writeBar0_window s v hd hk).trans h)
      refine ⟨fun hbad => ⟨_, putWin (by decide) (writeWindow_dclk s die v), ?_, rfl⟩, fun hlo hle hhi => ⟨_, putWin (by decide) (writeWindow_dclk s die v), ?_⟩,
        fun hbad => putWin (by decide) (writeWindow_vmarg_of_bad s die v hbad), fun hlo hhi => putWin (by decide) (writeWindow_vmarg_of_good s die v hlo hhi),
        putWin (by decide) (writeWindow_acctBase s die v)⟩
      · rw [die_setDie, writeDclk_of_bad _ _ hbad]
      · obtain ⟨hmax, hmin, hcur, hcyc, htime⟩ := writeDclk_of_good (s.die die) v hlo hle hhi
        rw [die_setDie]
        exact ⟨hmax, hmin, hcur, hcyc, htime, rfl⟩
    case channels =>
      rintro ch rfl hch
      refine ⟨_, put (by omega) (by omega) (writeBar0_monctl s v hch), rfl, ?_⟩
      rw [mon_writeMonctl]
      obtain ⟨hhigh, htev, hen, hres, hbit3, hbit1, hper⟩ := monctlOf_fields (s.mon ch).ctl v
      exact ⟨hhigh, htev, hen, hres, hbit3, hbit1, hper, rfl, rfl⟩

end Sys2Proof.Proofs
end
